-- ==== Sys2Proof/Word.lean ====
section
/-! DEFINITION. The words of the MJ20: bytes, 32-bit registers (R8), 64-bit core registers and yard addresses, 128-bit
commands. Little-endian composition is in Machine/Bits.lean (R7). -/

namespace Sys2Proof

/-- A byte of memory. -/
abbrev Byte := BitVec 8
/-- A register of the management address space (R8). -/
abbrev W32 := BitVec 32
/-- A core register, a yard address, a beat count. -/
abbrev W64 := BitVec 64
/-- An engine command (R87). -/
abbrev W128 := BitVec 128

end Sys2Proof
end

