-- ==== Sys2Proof/Syntax.lean ====
section
/-! DEFINITION. The commands that the MJ20 takes from outside: one constructor per row of spec/opcode_table.json, with the
row's operands, and the operand types. Units are numbered as Table 00-6 numbers them: `b` a barn 0-7, `x` a physical tile site
0-767 (y * 32 + x), `h` a half 0-15, `r` a region 0-63 or a rail 0-44, `n` a stack 0-19, `p` a port router 0-31 or an Ethernet
port 0-3, `wg` a waveguide 0-501, `l` a yard link 0-31, `k` a lantern module 0-7; `v` is the word written. -/

namespace Sys2Proof

/-- Comparisons of BRANCH and of compare-and-set (Table 03-3). -/
inductive Cond where
  | eq | ne | lt | ge | ltu | geu
  /-- a SUB that the Argil reference does not assign (R84) -/
  | unassigned
  deriving DecidableEq, Repr

/-- The ALU operations of Table 03-3. Their SUB codes stand in the Argil reference, so the command carries the operation. -/
inductive AluOp where
  | add | sub | and | or | xor | sll | srl | sra
  | set (c : Cond)
  | min | max | minu | maxu | mul | mulh | mulhu | div | divu | rem | remu
  | popcnt | clz | bfext | bfins
  /-- a SUB that the Argil reference does not assign (R84) -/
  | unassigned
  deriving DecidableEq, Repr

/-- The sizes of core loads and stores (R81). -/
inductive MemSize where
  | b1 | b2 | b4 | b8
  /-- a SUB that the Argil reference does not assign (R84) -/
  | unassigned
  deriving DecidableEq, Repr

/-- A packet: the header of Table 05-1 with the operation fields of Table 08-6, the payload, and the payload bytes that carry
the POISON mark (an empty list: none). -/
structure Packet where
  hdr : BitVec 256
  data : List Byte
  marks : List Bool := []
  /-- the LEN values of packets coalesced into this one (R294) -/
  folded : Nat := 0
  /-- the operation of its source that it belongs to; 0 for none (model's own field, log 126) -/
  op : Nat := 0
  /-- the members that a copy of a multicast is for, as a mask; 0 for all of its group (model's own field, log 136) -/
  copies : Nat := 0
  /-- the credits that a credit return carries; 0 for other packets (R293; model's own field, log 137) -/
  credits : Nat := 0
  /-- a packet of an Ethernet engine, or the answer to one (R340; model's own field, log 143) -/
  host : Bool := false
  deriving DecidableEq, Repr

/-- What an error-correcting code finds (R165, R200, R214). -/
inductive Ecc where
  | clean | corrected | uncorrectable
  deriving DecidableEq, Repr

/-- A flit of a link: the first or the i-th later flit of a packet, or eight control messages. -/
inductive Flit where
  | head (pkt : Packet)
  | body (pkt : Packet) (i : Nat)
  | control (msgs : List W128)
  deriving DecidableEq, Repr

/-- One sample of a rail (R358): its beat, and what its voltage and its current converter read, in 0.1 µV. -/
structure RailSample where
  beat : Nat
  volt : Int
  sense : Int
  deriving DecidableEq, Repr

/-- What the PWR block has measured over an interval (R359, R362): the samples of each rail; the busy counts of the six engines of
each barn node; the bytes through the loft ports of each loft node and at each stack; the power of each base node in mW. -/
structure PowerSample where
  rails : List (List RailSample)
  busy : List (List Nat)
  loftBytes : List Nat
  stackBytes : List Nat
  baseMw : List Int
  deriving DecidableEq, Repr

/-- A gain in 0.1 ppm (for the holdover oscillator 0.01 ppm) and an offset in 0.1 µV. -/
structure CalPair where
  gain : Int
  offset : Int
  deriving DecidableEq, Repr

/-- The sub-blocks of the calibration section (Table 12-8); floats stand as FP32 and FP16 codes. -/
structure CalBlock where
  /-- chains 0-113: voltage, current, diode -/
  chains : List CalPair
  /-- sense elements: resistance in 0.01 µΩ, coefficient in 0.1 ppm/°C -/
  sense : List (Nat × Int)
  holdover : Int
  holdoverTemp : List W32
  /-- per node c, g0, rise -/
  nodes : List (W32 × W32 × W32)
  /-- i, j, g -/
  edges : List (Nat × Nat × W32)
  /-- sf at 8 × half + point -/
  sf : List W32
  sfl : W32
  sfh : W32
  weights : List W32
  /-- per ring kt and heater efficiency -/
  rings : List (BitVec 16 × BitVec 16)
  replicas : List (List W32)
  /-- per receive lane gain and offset -/
  margins : List (BitVec 16 × BitVec 16)
  deriving DecidableEq, Repr

/-- What the act's models computed for an admitted sequence of a decode round (R311, R313): FP32 logits of the D + 1 target
positions and of the D draft positions. -/
structure RoundOut where
  seq : Nat
  target : List (List W32)
  draft : List (List W32)
  deriving DecidableEq, Repr

/-- What befell a decode round (R325): nothing, a fault that discards it, or a read that met POISON at a yard address. -/
inductive RoundFault where
  | none | event
  | poison (addr : Nat)
  deriving DecidableEq, Repr

/-- What a frame carries, as far as a port tells frames apart (R331-R333); addresses as numbers. -/
inductive FrameKind where
  | pause
  | fragment
  | arp (target : Nat)
  | neighbour (target : Nat)
  | echo (v6 : Bool) (dst : Nat) (data : List Byte)
  | roce (icrcOk : Bool)
  /-- a RoCEv2 request with an opcode that Table 10-3 does not support, on a queue pair (R336) -/
  | badOp (qp : Nat)
  | other
  deriving DecidableEq, Repr

/-- A frame: the bytes of its IP packet, its check, its 802.1Q tags as (VID, priority), and the FEC codewords corrected and
uncorrectable since the frame before. -/
structure EthFrame where
  ipBytes : Nat
  fcsOk : Bool
  tags : List (Nat × Nat)
  kind : FrameKind
  corr : Nat := 0
  uncorr : Nat := 0
  deriving DecidableEq, Repr

/-- A connection request on QP1 (R337): the peer's address and QP number, and the path MTU. -/
structure CmReq where
  v6 : Bool
  src : Nat
  qp : Nat
  mtu : Nat
  deriving DecidableEq, Repr

/-- A certificate (Table 12-7), and whether its issuer's signature verifies. -/
structure Cert where
  format : Nat
  kind : Nat
  serial : Nat
  key : List Byte
  id : List Byte
  minVersion : Nat
  deviceCount : Nat
  /-- eight entries of 16 B -/
  deviceIds : List Nat
  /-- the 24 bytes that Table 12-7 gives as 0 -/
  rest : List Byte
  signature : List Byte
  signedOk : Bool
  deriving DecidableEq, Repr

/-- A section entry (Table 12-5), and whether its HASH is that of the section's bytes. -/
structure Section where
  type : Nat
  signer : Nat
  offset : Nat
  length : Nat
  hashOk : Bool
  deriving DecidableEq, Repr

/-- A configuration record (Table 12-9); reserved holds its bytes 0x01-0x03. -/
structure CfgRecord where
  kind : Nat
  reserved : Nat := 0
  value : Nat := 0
  mask : Nat := 0
  timeout : Nat := 0
  addr : Nat := 0
  deriving DecidableEq, Repr

/-- An entry of the assembly spare map (Table 13-5). -/
structure SpareItem where
  kind : Nat
  barn : Nat
  site : Nat
  unit : Nat
  index : Nat
  reserved : Nat := 0
  deriving DecidableEq, Repr

/-- A field record (R402): whether its form and signature hold, whether FACTORY_HASH matches, and its SM3. -/
structure FieldRecord where
  seq : Nat
  signedOk : Bool
  device : Nat
  hashOk : Bool
  pairs : List CalPair
  sm3 : List Byte
  deriving DecidableEq, Repr

/-- What phase 1 reads of a flash device and what its checks of signatures, hashes and forms find (R394-R402, R408): the
cryptography is that of outside standards, so the command carries each verdict; every number that a rule compares stands as read. -/
structure SlotImage where
  sfdpOk : Bool
  magic : Nat
  format : Nat
  seq : Nat
  fwVersion : Nat
  sectionCount : Nat
  bytes : Nat
  /-- the bytes that Table 12-4 gives as 0 are 0 -/
  zeros : Bool
  sections : List Section
  /-- the firmware's bytes -/
  firmware : List Byte
  /-- the certificates of the CERTS section -/
  certs : List Cert
  /-- the seed that the captured PUF response and the helper data give, and the check value (R410); whether the device section's signature
  verifies, and its certificate -/
  seed : List Byte
  check : List Byte
  deviceSigned : Bool
  cert4 : Cert
  /-- the spare map's head is in form, and its entries -/
  spareHeadOk : Bool
  spares : List SpareItem
  /-- the calibration section's signature and head hold, its DEVICE_ID, its sub-blocks, its SM3 -/
  calSigned : Bool
  calHeadOk : Bool
  calDevice : Nat
  cal : CalBlock
  calHash : List Byte
  vendorSigned : Bool
  ownerSigned : Bool
  vendorManifest : List Byte
  ownerManifest : List Byte
  /-- the CONFIG section's head and length hold; ACT_MIN_VERSION; the records -/
  configHeadOk : Bool
  actMinVersion : Nat
  records : List CfgRecord
  /-- the device's field area: its records, and the slots in use -/
  fields : List FieldRecord
  fieldSlots : Nat
  deriving DecidableEq, Repr

/-- What the Farrier's tests of a barn find (R389, R427): whether a rail failed; failed sites and routers; failed tap wires as
(tap site, bundle, wire); failed coil pairs as (site, die, 0 primary or 1 spare). -/
structure BarnResult where
  railFault : Bool
  sites : List Nat
  routers : List Nat
  wires : List (Nat × Nat × Nat)
  coils : List (Nat × Nat × Nat)
  deriving DecidableEq, Repr


/-- The commands. -/
inductive Instr where
  /-- A write to a register that has no row of its own is checked, counted once on rejection, and sets the value if accepted. (R10) -/
  | registerWrite (addr : Nat) (v : W32) (sets : W32)
  /-- A read of a _LO register returns the low half and latches the high half for the next _HI read. (R9) -/
  | loRead (addr : Nat)
  /-- A read of an RC counter returns its value and clears it, keeping any addition made in the same cycle. (R12) -/
  | rcRead (addr : Nat) (adds : W32)
  /-- YREF qualifies in phase 0, or its 100 ms limit expires, and the beat counter starts. (R384) -/
  | yrefQualify (qualified : Bool)
  /-- A sampled BEAT_SYNC pulse either applies an armed BEAT_LOAD or is compared with the counter. (R48) -/
  | beatSyncPulse
  /-- An expected BEAT_SYNC pulse fails to arrive and is counted as a mismatch with offset zero. (R48) -/
  | syncPulseMissing
  /-- A write of BEAT_CTRL.LOAD_ARM arms the next BEAT_SYNC pulse to load BEAT_LOAD. (R47) -/
  | loadArm (v : W32)
  /-- A write of BEAT_CTRL.HOLDOVER_FORCE makes the counter run from the holdover oscillator as though YREF were lost. (R50) -/
  | holdoverForce (v : W32)
  /-- A backward-correction hold of d beats ends, HOLD_ACTIVE clears and counting resumes. (R49) -/
  | holdEnd
  /-- YREF is declared lost and the counter continues from the holdover oscillator without skipping a beat. (R50) -/
  | yrefLoss (periods : Nat)
  /-- YREF has qualified again for 100,000 beats and the counter moves back to YREF, with a correction at the next pulse when SYNC_EN is 1. (R53) -/
  | yrefReturn
  /-- A write of HALF_OPP.COMMIT requests an operating-point change at HALF_CHANGE_BEAT, accepted or rejected under the sequencer's checks. (R57) -/
  | halfCommit (h : Nat) (v : W32)
  /-- At beat c − 3,000 of a raise, VCORE starts towards the new voltage. (R58) -/
  | changeVcoreStart (h : Nat)
  /-- At beat c − 2,000 the standby PLL starts to lock at the new frequency. (R58) -/
  | standbyLockStart (h : Nat)
  /-- At c − 1 the sequencer checks the standby lock and, for a raise, the VCORE settling. (R59) -/
  | readinessCheck (h : Nat) (locked : Bool) (settled : Bool)
  /-- At beat c the half switches glitch-free to the standby PLL and CUR takes NEXT. (R58) -/
  | halfSwitch (h : Nat)
  /-- At c + 1 of a lowering, VCORE starts towards the lower voltage. (R58) -/
  | loweringVcoreStart (h : Nat)
  /-- The change completes, with voltage settled and the standby relocked, and HALF_STATUS.BUSY clears. (R58) -/
  | changeBusyClear (h : Nat)
  /-- The driving PLL loses lock, and the half switches to a locked standby or its clock stops. (R61) -/
  | pllLoss (h : Nat)
  /-- A PLL of a stopped half locks, and the half's clock runs from it again. (R61) -/
  | pllLockResume (h : Nat) (pll : Bool)
  /-- The Ringmaster resets and relocks a failed PLL up to three times, then marks it failed or takes the barn out. (R441) -/
  | pllRelockAttempt (h : Nat) (pll : Bool) (locked : Bool)
  /-- The replica line predicts a failing cycle under droop and the clock unit lengthens that cycle. (R64) -/
  | stretch (r : Nat) (depth : Nat)
  /-- Every 1,000 beats the replica delay line is trimmed from the region's modelled temperature. (R66) -/
  | replicaTrim (r : Nat)
  /-- A write of REGION_CLK_CTRL.GATE to 1 stops the region's clock at the next beat edge. (R74) -/
  | gate (r : Nat) (v : W32)
  /-- A write of GATE to 0 restarts the region's clock at the next beat edge, unless another stop cause holds it. (R74) -/
  | gateRelease (r : Nat) (v : W32)
  /-- An access held at a stopped region's Turnstile completes once the region's clock runs again. (R71) -/
  | stoppedAccessResume
  /-- An ALU instruction computes A := B op C at the width that X selects. (R83) -/
  | alu (b : Nat) (x : Nat) (extra : Bool) (op : AluOp) (narrow : Bool) (a : Nat) (rb : Nat) (c : Nat)
  /-- An ALU_IMM instruction computes A := B op IMM14. (R83) -/
  | aluImm (b : Nat) (x : Nat) (extra : Bool) (op : AluOp) (narrow : Bool) (a : Nat) (rb : Nat) (imm : BitVec 14)
  /-- LUI loads IMM19 << 13 into A. (R83) -/
  | lui (b : Nat) (x : Nat) (a : Nat) (imm : BitVec 19)
  /-- A core LOAD reads 1, 2, 4 or 8 B of tile SRAM, raising MISALIGN, LOCAL_BOUNDS or POISON where they apply. (R81) -/
  | load (b : Nat) (x : Nat) (size : MemSize) (sgn : Bool) (a : Nat) (rb : Nat) (imm : BitVec 14)
  /-- A core STORE writes 1, 2, 4 or 8 B of tile SRAM, raising MISALIGN or LOCAL_BOUNDS where they apply. (R81) -/
  | store (b : Nat) (x : Nat) (size : MemSize) (a : Nat) (rb : Nat) (imm : BitVec 14)
  /-- A BRANCH compares A with B and jumps to PC + 4 × IMM14 when the condition holds. (R83) -/
  | branch (b : Nat) (x : Nat) (cond : Cond) (a : Nat) (rb : Nat) (imm : BitVec 14)
  /-- JAL writes PC + 4 to A and jumps to PC + 4 × IMM19. (R83) -/
  | jal (b : Nat) (x : Nat) (a : Nat) (imm : BitVec 19)
  /-- JALR jumps to B + IMM14, or raises MISALIGN on a misaligned target without writing A. (R80) -/
  | jalr (b : Nat) (x : Nat) (a : Nat) (rb : Nat) (imm : BitVec 14)
  /-- PUSH places a 128-bit command in an engine queue, stalling while the queue is full. (R88) -/
  | push (b : Nat) (x : Nat) (extra : Bool) (rb : Nat) (c : Nat)
  /-- A PUSH stalled on a full queue finds room and pushes. (R117) -/
  | pushUnstall (b : Nat) (x : Nat)
  /-- PUSHT pushes a command if the queue has room and writes 1 or 0 to A, never stalling. (R88) -/
  | pusht (b : Nat) (x : Nat) (extra : Bool) (a : Nat) (rb : Nat) (c : Nat)
  /-- WAITA waits until an arrival counter reaches the target under the signed comparison. (R116) -/
  | waita (b : Nat) (x : Nat) (extra : Bool) (a : Nat) (rb : Nat) (c : Nat)
  /-- WAITC waits until a completion counter reaches the target under the signed comparison. (R116) -/
  | waitc (b : Nat) (x : Nat) (extra : Bool) (a : Nat) (rb : Nat) (c : Nat)
  /-- WAITB waits until the local beat copy reaches the target beat. (R116) -/
  | waitb (b : Nat) (x : Nat) (extra : Bool) (a : Nat) (rb : Nat)
  /-- A pending wait is satisfied, writes 0 to A, and makes the counted writes visible to loads. (R116) -/
  | waitSatisfied (b : Nat) (x : Nat)
  /-- A wait that is not satisfied within WAIT_TIMEOUT beats ends and writes 1 to A. (R117) -/
  | waitTimeout (b : Nat) (x : Nat)
  /-- ACRD reads an arrival counter. (R113) -/
  | acrd (b : Nat) (x : Nat) (extra : Bool) (a : Nat) (c : Nat)
  /-- ACWR sets an arrival counter, with same-cycle additions applied after the write. (R115) -/
  | acwr (b : Nat) (x : Nat) (extra : Bool) (rb : Nat) (c : Nat) (adds : W32)
  /-- ACADD adds a value to an arrival counter. (R113) -/
  | acadd (b : Nat) (x : Nat) (extra : Bool) (rb : Nat) (c : Nat)
  /-- CCRD reads a completion counter. (R114) -/
  | ccrd (b : Nat) (x : Nat) (extra : Bool) (a : Nat) (c : Nat)
  /-- CCWR sets a completion counter, with same-cycle additions applied after the write. (R115) -/
  | ccwr (b : Nat) (x : Nat) (extra : Bool) (rb : Nat) (c : Nat) (adds : W32)
  /-- CSRR reads a core CSR into A. (R86) -/
  | csrr (b : Nat) (x : Nat) (extra : Bool) (a : Nat) (num : BitVec 14)
  /-- CSRW writes gB to a CSR, including EVT_CLEAR, CC_ERR and RNG_SEED with their own effects; a read-only CSR raises ILLEGAL. (R86) -/
  | csrw (b : Nat) (x : Nat) (extra : Bool) (rb : Nat) (num : BitVec 14) (sets : W32)
  /-- YIELD performs a posted remap, or enters EVEC for an enabled pending event, or costs one cycle. (R122) -/
  | yield (b : Nat) (x : Nat) (extra : Bool)
  /-- IFLUSH makes earlier SRAM writes visible to instruction fetch. (R80) -/
  | iflush (b : Nat) (x : Nat) (extra : Bool)
  /-- TRAP raises the TRAP exception. (R124) -/
  | trap (b : Nat) (x : Nat) (extra : Bool)
  /-- ERET clears IN_EXC and resumes at EPC. (R125) -/
  | eret (b : Nat) (x : Nat) (extra : Bool)
  /-- HALT halts the core with HALT_CAUSE 2. (R127) -/
  | halt (b : Nat) (x : Nat) (extra : Bool)
  /-- The SYSTEM NOP instruction does nothing. (R83) -/
  | nop (b : Nat) (x : Nat) (extra : Bool)
  /-- A NOP command on any engine does nothing and completes with OK. (R91) -/
  | engineNop (b : Nat) (x : Nat) (q : Nat)
  /-- A command whose work has ended posts its completion in push order, adds 1 to its CCTR and records a fault if the status is not OK. (R114) -/
  | commandCompletion (b : Nat) (x : Nat) (q : Nat)
  /-- An MMA adds A(M × K) · B(K × 32) into an accumulator tile. (R97) -/
  | mma (b : Nat) (x : Nat)
  /-- An MMA_SPARSE performs an MMA with B in 2:4 sparse form. (R97) -/
  | mmaSparse (b : Nat) (x : Nat)
  /-- ACC_ZERO zeroes all 16 rows of an accumulator tile. (R97) -/
  | accZero (b : Nat) (x : Nat)
  /-- ACC_LOAD loads M rows of FP32 values into an accumulator tile. (R97) -/
  | accLoad (b : Nat) (x : Nat)
  /-- ACC_STORE converts M accumulator rows to FMT_A under RND and writes them to SRAM. (R97) -/
  | accStore (b : Nat) (x : Nat)
  /-- Loft data arrives in a stream channel, and an MMA waiting on that channel takes it. (R99) -/
  | streamUnitArrival (b : Nat) (x : Nat) (ch : Nat)
  /-- Vector ADD writes a[i] + b[i]. (R101) -/
  | vecAdd (b : Nat) (x : Nat)
  /-- Vector MUL writes a[i] × b[i]. (R101) -/
  | vecMul (b : Nat) (x : Nat)
  /-- Vector FMA writes a[i] × b[i] + dst[i]. (R101) -/
  | vecFma (b : Nat) (x : Nat)
  /-- Vector MAX writes max(a[i], b[i]). (R151) -/
  | vecMax (b : Nat) (x : Nat)
  /-- Vector MIN writes min(a[i], b[i]). (R151) -/
  | vecMin (b : Nat) (x : Nat)
  /-- Vector SCALE writes a[i] × b[0]. (R101) -/
  | scale (b : Nat) (x : Nat)
  /-- Vector EXP writes e^a[i]. (R150) -/
  | exp (b : Nat) (x : Nat)
  /-- Vector RECIP writes 1 / a[i]. (R150) -/
  | recip (b : Nat) (x : Nat)
  /-- Vector RSQRT writes 1 / √a[i]. (R150) -/
  | rsqrt (b : Nat) (x : Nat)
  /-- Vector CVT converts each element to FMT_OUT, including block-scaled encoding. (R154) -/
  | cvt (b : Nat) (x : Nat)
  /-- Vector SUM writes the FP32 sum of a[i]. (R152) -/
  | sum (b : Nat) (x : Nat)
  /-- Vector RMAX writes the maximum and the lowest index at the maximum. (R151) -/
  | rmax (b : Nat) (x : Nat)
  /-- Vector RNG writes uniform values in [0, 1) from the tile generator. (R153) -/
  | rng (b : Nat) (x : Nat)
  /-- A DMA COPY moves bytes between the tile and a yard address in packets of at most 1,024 B. (R102) -/
  | copy (b : Nat) (x : Nat) (found : List (Nat × Ecc))
  /-- A DMA COPYD reads its descriptor and copies ROWS rows of LENGTH bytes between two yard addresses. (R103) -/
  | copyd (b : Nat) (x : Nat) (found : List (Nat × Ecc))
  /-- A packet held because all 64 slots were in use is issued once a slot frees. (R119) -/
  | heldPacketIssue (b : Nat) (x : Nat)
  /-- A message LOAD reads up to 64 B from REMOTE into LOCAL. (R107) -/
  | msgLoad (b : Nat) (x : Nat)
  /-- A message STORE writes up to 64 B from LOCAL to REMOTE and awaits the acknowledgement. (R107) -/
  | msgStore (b : Nat) (x : Nat)
  /-- A message ATOMIC applies AOP to one element at REMOTE and returns the old value to LOCAL. (R107) -/
  | atomic (b : Nat) (x : Nat)
  /-- A posted REDUCE combines DTYPE elements into REMOTE with AOP. (R107) -/
  | reduce (b : Nat) (x : Nat)
  /-- A REDUCE_ACK combines elements into REMOTE and awaits the acknowledgement. (R107) -/
  | reduceAck (b : Nat) (x : Nat)
  /-- An MCAST stores LEN bytes at the same target and offset in every member of GROUP. (R277) -/
  | mcast (b : Nat) (x : Nat)
  /-- A posted SIGNAL adds a 32-bit value to an arrival counter at the remote tile. (R107) -/
  | signal (b : Nat) (x : Nat)
  /-- A posted message EVENT sets PEER at the remote tile. (R107) -/
  | event (b : Nat) (x : Nat)
  /-- A loft-port READ moves rows from the slice to tile SRAM. (R109) -/
  | loftRead (b : Nat) (x : Nat) (found : List (Nat × Ecc))
  /-- A loft-port WRITE moves rows from tile SRAM to the slice. (R109) -/
  | loftWrite (b : Nat) (x : Nat) (found : List (Nat × Ecc))
  /-- A loft-port STREAM moves slice rows into a matrix stream channel. (R109) -/
  | loftStream (b : Nat) (x : Nat) (found : List (Nat × Ecc))
  /-- A block-select SCORE scores NBLK block keys against the queries and writes the top min(TOPK, NBLK) entries. (R112) -/
  | score (b : Nat) (x : Nat) (found : List (Nat × Ecc))
  /-- A request or posted packet arrives at a target tile and is applied, adding to its arrival counter where enabled. (R113) -/
  | targetTileArrival (b : Nat) (x : Nat) (pkt : Packet) (found : List (Nat × Ecc))
  /-- A reply reaches its tile, becomes visible and frees its remote slot, or is discarded as stray. (R120) -/
  | replyArrival (b : Nat) (x : Nat) (pkt : Packet)
  /-- A remote slot reaches REMOTE_TO and the request is retried, or completes with TIMEOUT or PORT_RESET. (R281) -/
  | slotTimeout (b : Nat) (x : Nat) (n : Nat)
  /-- A write of EVENT_POST sets pending tile events. (R121) -/
  | eventPost (b : Nat) (x : Nat) (v : W32)
  /-- A write of TILE_CTRL.RESET to 1 resets the tile at the next beat edge. (R130) -/
  | tileReset (b : Nat) (x : Nat) (v : W32)
  /-- The tile leaves reset at a beat edge with RESET at 0 and starts at TILE_BOOT. (R130) -/
  | tileResetRelease (b : Nat) (x : Nat)
  /-- A write of TILE_CTRL.RUN from 0 to 1 resumes a halted core according to its HALT_CAUSE. (R127) -/
  | tileRun (b : Nat) (x : Nat) (v : W32)
  /-- A write of TILE_CTRL.RUN to 0 halts the core at the next instruction boundary and abandons any wait. (R127) -/
  | tileHalt (b : Nat) (x : Nat) (v : W32)
  /-- A write of TILE_CTRL.REMAP_POST posts a remap for the tile's next YIELD. (R122) -/
  | remapPost (b : Nat) (x : Nat) (v : W32)
  /-- A write of an AC or CC counter through the CSR window is applied before same-cycle additions. (R115) -/
  | counterWrite (b : Nat) (x : Nat) (cc : Bool) (n : Nat) (v : W32) (adds : W32)
  /-- A write of GREG through the window sets a core register only while the core is halted. (R133) -/
  | gregWrite (b : Nat) (x : Nat) (n : Nat) (hi : Bool) (v : W32)
  /-- A router receives a packet's head flit, checks it, and routes, forwards or drops it. (R168) -/
  | routerIngress (b : Nat) (x : Nat) (port : Nat) (pkt : Packet) (head : Ecc) (body : List Ecc)
  /-- The schedule begins at the first frame boundary at or after SCHED_START. (R185) -/
  | schedStart (b : Nat) (x : Nat)
  /-- A scheduled slot begins and the router sets its crossbar, injecting, adding, passing or sinking scheduled packets. (R185) -/
  | schedSlot (b : Nat) (x : Nat)
  /-- At a frame boundary LATE clears and slot timing resumes from the beat. (R188) -/
  | frameBoundary (b : Nat) (x : Nat)
  /-- An ADD stage holding a packet finds its local flow ready, adds and passes the sum on. (R193) -/
  | addStageResume (b : Nat) (x : Nat) (out : Nat)
  /-- A write of RTR_CTRL.SCHED_EN starts the schedule after a checked lead or stops it at the next frame boundary. (R185) -/
  | schedEn (b : Nat) (x : Nat) (v : W32)
  /-- Setting a FLOW descriptor's ENABLE checks the descriptor whole and puts the flow in use. (R186) -/
  | flowEnable (b : Nat) (x : Nat) (f : Nat) (v : W32)
  /-- Setting a SINK descriptor's ENABLE checks the descriptor whole and puts the sink in use. (R194) -/
  | sinkEnable (b : Nat) (x : Nat) (k : Nat) (v : W32)
  /-- A write of RT_PARENT reaches the same entry in every router of the barn. (R176) -/
  | rtParentWrite (b : Nat) (x : Nat) (v : W32)
  /-- A write of RT_MAP reaches the same entry in every router of the barn. (R176) -/
  | rtMapWrite (b : Nat) (t : Nat) (v : W32)
  /-- A write of RT_CTRL.LOAD makes every router compute ROUTE and copy MAP, refused while the barn is in service. (R176) -/
  | routeLoad (b : Nat) (v : W32)
  /-- Every router finishes its load, and DONE or NO_ROOT is set. (R176) -/
  | routeLoadDone (b : Nat)
  /-- A router fails in service, and the Ringmaster takes the barn out, waits for the buffers to drain, reloads the routes and returns the barn. (R175) -/
  | routeRewrite (b : Nat) (x : Nat)
  /-- A tap bundle's CRC fails and the flit is replayed from the tap's buffer. (R181) -/
  | tapCrcError (b : Nat) (x : Nat) (bundle : Nat)
  /-- A bundle with 16 CRC errors in 100,000 beats is retired at the next flit boundary. (R181) -/
  | tapBundleRetire (b : Nat) (x : Nat) (bundle : Nat)
  /-- A loft coil unit fails its CRC and is replayed. (R197) -/
  | coilCrcError (b : Nat) (x : Nat) (die : Nat)
  /-- A coil with 16 CRC errors in 100,000 beats is retired, its share of the slice is lost and LOFT_LOSS is posted. (R197) -/
  | coilRetire (b : Nat) (x : Nat) (die : Nat)
  /-- A loft die reads and checks one unit of a slice in an idle unit slot. (R201) -/
  | loftScrub (b : Nat) (x : Nat) (off : Nat) (ecc : Ecc)
  /-- A write of LOFT_CTRL or the cache range changes the slice mode under its checks and invalidates every line. (R204) -/
  | loftCtrlWrite (b : Nat) (x : Nat) (which : Nat) (v : W32)
  /-- A write of 1 to LOFT_INV invalidates every cache line. (R204) -/
  | loftInv (b : Nat) (x : Nat) (v : W32)
  /-- An invalidation ends and INV_BUSY clears. (R204) -/
  | loftInvDone (b : Nat) (x : Nat)
  /-- Every 1,000 beats the PWR block closes the interval and computes rail and package power. (R359) -/
  | powerInterval (meas : PowerSample)
  /-- 100 intervals after a half's last VCORE rail fault, its fault term returns to zero. (R373) -/
  | faultTermEnd (h : Nat)
  /-- After 100 consecutive CAP_SAT intervals the Ringmaster lowers both halves of the barn by one operating point. (R374) -/
  | oppLower (b : Nat)
  /-- A rail's voltage leaves its bounds or its stretch saturates, and a rail fault is declared. (R357) -/
  | railFault (r : Nat) (uv : Nat)
  /-- Every 100,000 beats the PWR block reads the inlet sensor and accepts or rejects the reading. (R363) -/
  | coolantRead (ack : Bool) (raw : Nat)
  /-- Every 100,000 beats each reference diode is read and compared with the modelled temperature of its node. (R366) -/
  | diodeRead (d : Nat) (t : Nat)
  /-- A node or diode reaches the trip limit, and hardware gates the barn or every barn at the next beat edge. (R368) -/
  | trip (unit : Nat)
  /-- At start each controller trains its stack, and a stack that fails is retired. (R212) -/
  | hbmTraining (n : Nat) (passed : Bool)
  /-- Every 2^20 beats the controller repeats timing tracking inside its refresh windows. (R212) -/
  | hbmTracking (n : Nat)
  /-- Every 1,000 beats the controller acts on the stack's temperature, setting HOT, LIMITING or DISAGREE. (R213) -/
  | hbmThermalUpdate (n : Nat)
  /-- Every 2^20 beats the controller reads the stack's own temperature readout. (R213) -/
  | hbmReadout (n : Nat) (t : Nat)
  /-- The controller's patrol scrub reads and checks bursts in command slots that no access wants. (R215) -/
  | hbmScrub (n : Nat) (addr : Nat) (ecc : Ecc) (sev : Nat)
  /-- A packet arrives at a controller, is checked, and is executed or refused. (R217) -/
  | hbmRequest (n : Nat) (pkt : Packet) (found : List (Nat × Ecc)) (sev : Nat)
  /-- A prefetched line arrives in the stream buffer and answers any waiting demand reads. (R219) -/
  | prefetchFill (n : Nat) (line : Nat) (found : List (Nat × Ecc)) (sev : Nat)
  /-- A buffered line reaches LINE_TTL after its fill and leaves the buffer. (R219) -/
  | lineExpire (n : Nat) (line : Nat)
  /-- A tracker with no demand for IDLE beats is freed. (R221) -/
  | trackerIdle (n : Nat) (k : Nat)
  /-- A write of HBM_CTRL.RETIRE stops the stack's interface and empties its stream buffer. (R228) -/
  | hbmRetire (n : Nat) (v : W32)
  /-- The Ringmaster retires a stack in service: closes issue, commits the new window and stops accepting. (R228) -/
  | stackRetire (n : Nat)
  /-- OUTSTANDING reaches 0 at a retiring stack, and the Ringmaster retires it, invalidates caches and completes the shape table. (R228) -/
  | stackRetireDrained (n : Nat)
  /-- A write of WIN_CTRL.COMMIT schedules WIN_MASK to take effect at WIN_APPLY. (R226) -/
  | winCommit (v : W32)
  /-- At the apply beat the new window mask takes effect in every router and engine. (R226) -/
  | winApply
  /-- The Ringmaster writes a new shape-table generation and posts SHAPE to the service tiles. (R32) -/
  | shapeGeneration
  /-- A port router takes a whole packet from an input and forwards it on the output its destination selects. (R232) -/
  | portRouterPacket (p : Nat) (inp : Nat) (pkt : Packet)
  /-- A reply frees a tag, and a request held for a tag proceeds. (R280) -/
  | tagFree (p : Nat) (tag : Nat)
  /-- A credit returns to a tile, and a packet held for a source credit proceeds. (R293) -/
  | creditReturnRelease (b : Nat) (x : Nat) (member : Nat) (target : Nat) (n : Nat)
  /-- A flit arrives on an optical link, is checked and accepted in sequence or discarded pending replay. (R234) -/
  | opticalFlitReceive (wg : Nat) (dir : Nat) (seq : Nat) (words : List (BitVec 68)) (flit : Flit)
  /-- An ACK control message frees acknowledged flits from the replay buffer. (R238) -/
  | ack (wg : Nat) (dir : Nat) (msg : BitVec 128)
  /-- A NACK control message makes the transmitter resend from the flit named. (R238) -/
  | nack (wg : Nat) (dir : Nat) (msg : BitVec 128)
  /-- A CREDIT control message returns buffer flits for one virtual network. (R231) -/
  | credit (wg : Nat) (dir : Nat) (msg : BitVec 128)
  /-- A LANE_MAP changes a link's lane set from sequence s once the message with LAST arrives. (R239) -/
  | laneMap (wg : Nat) (dir : Nat) (msg : BitVec 128)
  /-- A LANE_MAP_ACK confirms a lane map epoch. (R239) -/
  | laneMapAck (wg : Nat) (dir : Nat) (msg : BitVec 128)
  /-- A LANE_REQ asks the transmitter for a new lane mask on a waveguide. (R239) -/
  | laneReq (wg : Nat) (dir : Nat) (msg : BitVec 128)
  /-- A link direction with no lane for LINK_DOWN_MAX beats declares its pair failed, and traffic detours through a relay. (R240) -/
  | pairFail (wg : Nat) (dir : Nat)
  /-- A failed pair has a lane in each direction pass its check, and traffic moves back by the drain order. (R437) -/
  | pairReturn (wg : Nat)
  /-- Each beat a ring's loop updates its heater from feed-forward and the monitor's feedback. (R243) -/
  | ringTune (wg : Nat) (dir : Nat) (tx : Bool) (n : Nat) (err : Int)
  /-- At each estimator update a ring's feed-forward ramp is recomputed from its cell's temperature. (R243) -/
  | ringFeedforward (wg : Nat) (dir : Nat) (tx : Bool) (n : Nat)
  /-- A ring out of lock for 16 beats takes its lane out of the link and sweeps to relock. (R245) -/
  | ringLockLoss (wg : Nat) (dir : Nat) (tx : Bool) (n : Nat)
  /-- A ring relocks and begins its pattern check. (R245) -/
  | ringRelock (wg : Nat) (dir : Nat) (tx : Bool) (n : Nat) (off : Int)
  /-- A bank whose heater crosses REHOP_LO or REHOP_HI removes its lanes, changes ROT, steps its heaters and relocks. (R246) -/
  | rehop (wg : Nat) (dir : Nat) (tx : Bool) (up : Bool)
  /-- A lane's PRBS31 check ends, and the lane returns or stays out to retry. (R247) -/
  | patternCheckDone (wg : Nat) (dir : Nat) (lane : Nat) (errors : Nat)
  /-- A lane that failed its check retries after 100,000 beats. (R247) -/
  | patternRetry (wg : Nat) (dir : Nat) (lane : Nat)
  /-- At start every waveguide sweeps, chooses ROT, locks, checks pattern, aligns and maps its lanes. (R247) -/
  | linkTraining (wg : Nat) (dir : Nat) (sweepTx : List Nat) (sweepRx : List Nat) (errors : List Nat)
  /-- Every 1,000 beats each receive lane reports its margin to the LANT block. (R250) -/
  | marginReport (wg : Nat) (dir : Nat) (lane : Nat) (margin : Nat)
  /-- Every 10,000 beats automatic power control adjusts each lit laser's bias and sets its ageing state. (R250) -/
  | apcUpdate (k : Nat) (j : Nat) (yard : Nat)
  /-- A laser reported faulty or dark becomes FAILED, and its lanes leave their links. (R251) -/
  | laserFail (k : Nat) (j : Nat)
  /-- The Ringmaster starts warming a spare laser to replace an ageing or failed one. (R252) -/
  | spareSwitchIn (k : Nat) (j : Nat)
  /-- The spare is locked, the lane is removed, FEED_SEL is switched and the rings relock. (R252) -/
  | spareLocked (k : Nat) (j : Nat) (locked : Bool)
  /-- The pattern check passes, the lane returns and the old laser is retired. (R252) -/
  | switchInComplete (k : Nat) (j : Nat)
  /-- LMk_PRESENT_n falls and the LANT block begins module bring-up. (R255) -/
  | moduleInsert (k : Nat)
  /-- 100 ms after insertion the LANT block releases reset, reads CODE and lights the needed lasers. (R255) -/
  | moduleResetRelease (k : Nat) (code : Option Nat)
  /-- All needed lasers of a module lock, and its lanes and yard channel are added. (R255) -/
  | moduleReady (k : Nat) (biasMax : List Nat)
  /-- LMk_REQ_n held low for 500 ms starts a planned removal. (R256) -/
  | moduleReleaseReq (k : Nat) (low : Bool)
  /-- A write of MOD_CTRL.RELEASE starts a planned removal. (R256) -/
  | modRelease (k : Nat) (v : W32)
  /-- The module's receivers report no light, and LMk_OK rises. (R256) -/
  | moduleDark (k : Nat)
  /-- Light remains 150,000 beats after the request, and MOD_STATUS.FAULT is set. (R256) -/
  | moduleReleaseTimeout (k : Nat)
  /-- LMk_PRESENT_n rises and the LANT block narrows every link within 200 beats. (R256) -/
  | unplannedRemoval (k : Nat)
  /-- A write of LANT_I2C.GO starts an I²C transfer to a module. (R254) -/
  | i2cTransfer (v : W32)
  /-- An I²C transfer ends, GO clears and NACK records acknowledgement. (R254) -/
  | i2cDone (ack : Bool) (data : W32)
  /-- A yard codeword arrives, is decoded and accepted, or fails and triggers a NACK. (R259) -/
  | codewordReceive (l : Nat) (k : Nat) (levels : List Nat) (flits : List Flit)
  /-- A yard ACK frees acknowledged codewords from the replay buffer. (R259) -/
  | yardAck (l : Nat) (msg : BitVec 128)
  /-- A yard NACK makes the transmitter resend from the CSEQ expected. (R259) -/
  | yardNack (l : Nat) (msg : BitVec 128)
  /-- A yard CREDIT returns flits of one virtual network. (R264) -/
  | yardCredit (l : Nat) (msg : BitVec 128)
  /-- A CH_MAP changes a yard link's channel set from a given CSEQ. (R263) -/
  | chMap (l : Nat) (msg : BitVec 128)
  /-- A CH_MAP_ACK confirms a channel map epoch. (R263) -/
  | chMapAck (l : Nat) (msg : BitVec 128)
  /-- A CH_REQ reports a receiver's training result or asks for a channel mask. (R261) -/
  | chReq (l : Nat) (msg : BitVec 128)
  /-- An IDENT tells a gate who lies at the far end, holding the link down on a mismatch and revealing any split. (R266) -/
  | ident (l : Nat) (msg : BitVec 128)
  /-- A HEARTBEAT updates a peer's state, PEER[m] and LINKS_TO. (R271) -/
  | heartbeat (l : Nat) (msg : BitVec 128)
  /-- A JOIN announces a member's JOIN_BEAT. (R270) -/
  | join (l : Nat) (msg : BitVec 128)
  /-- A LEAVE message removes its member from the yard. (R272) -/
  | leave (l : Nat) (msg : BitVec 128)
  /-- A RESET_NOTICE marks the slots whose requests passed a reset port router. (R284) -/
  | resetNotice (p : Nat) (l : Nat) (msg : BitVec 128)
  /-- A DRAIN_REQ asks the peer gate to report when the moving flows have drained. (R268) -/
  | drainReq (l : Nat) (msg : BitVec 128)
  /-- A DRAINED lets the gate send its held packets on the new links. (R268) -/
  | drained (l : Nat) (msg : BitVec 128)
  /-- Every 1,000 beats a member sends IDENT on each link whose peer is not yet a MEMBER. (R270) -/
  | identSend
  /-- Every HB_PERIOD beats the active Ringmaster sends a HEARTBEAT to each member. (R271) -/
  | heartbeatSend
  /-- A yard channel trains on frames, finds codeword boundaries, checks errors and reports in CH_REQ. (R261) -/
  | channelTrain (l : Nat) (k : Nat) (found : Bool) (errors : Nat)
  /-- A channel with too many failed codewords, lost light or a departing module is dropped by CH_MAP. (R263) -/
  | channelDrop (l : Nat) (k : Nat) (dark : Bool)
  /-- A dropped channel retries its training after 100,000 beats. (R263) -/
  | channelRetry (l : Nat) (k : Nat)
  /-- A yard link with no channel for LINK_DOWN_MAX beats is failed. (R263) -/
  | ylinkFail (l : Nat)
  /-- With no synced peer after JOIN_WAIT, the package arms its own load at the next pulse. (R270) -/
  | joinWaitExpire
  /-- At JOIN_BEAT the joining package becomes a MEMBER and peers set its bit and write a new shape generation. (R270) -/
  | joinBeat (m : Nat)
  /-- No HEARTBEAT arrives from a member for HB_LOSS beats, and the other members drop it. (R272) -/
  | memberLoss (m : Nat)
  /-- A write of YARD_CTRL.LEAVE sends LEAVE and the package leaves the yard. (R272) -/
  | yardLeave (v : W32)
  /-- A change of L(m) makes the gate hold the affected flows and send DRAIN_REQ. (R268) -/
  | flowMove (m : Nat)
  /-- A gate checks a request arriving from a yard link against GATE_STACK_SVC and the barns in service. (R276) -/
  | gateRequest (l : Nat) (pkt : Packet)
  /-- A reserved yard slot begins and the gate sends the waiting stream packet. (R278) -/
  | ystreamSlot (l : Nat) (slot : Nat)
  /-- A write of MCAST_GROUP is judged against VALID as it stood before the write. (R277) -/
  | mcastGroupWrite (g : Nat) (v : W32)
  /-- A target port router takes an ATOMIC or REDUCE_ACK, checks its lifetime and ledger, and applies it or replies. (R286) -/
  | ledgerExecute (p : Nat) (pkt : Packet)
  /-- The oldest ledger entry reaches RETAIN, is evicted and held atomics proceed. (R287) -/
  | ledgerHoldRelease (p : Nat)
  /-- A write of PORT_CTRL.RESET resets a port router segment, discarding its buffers and sending RESET_NOTICE. (R284) -/
  | portReset (p : Nat) (v : W32)
  /-- A segment reset ends and its links restart with fresh sequences and credits. (R435) -/
  | portResetEnd (p : Nat)
  /-- A packet stands at an input for PORT_HANG_LIMIT beats, and the Ringmaster resets the segment. (R435) -/
  | portHang (p : Nat)
  /-- After a reset or pair failure the Ringmaster copies PORT_LOSS entries into RM_LOSS and raises LOSS. (R436) -/
  | lossReport (p : Nat)
  /-- A QUERY request returns the service level, service state and AREA_BASE. (R342) -/
  | query (qp : Nat) (msg : List Byte)
  /-- A LOAD_ACT request reads and checks an act into the staging area. (R412) -/
  | loadAct (qp : Nat) (msg : List Byte)
  /-- A START_ACT brings the halves into the act's set, writes the report and starts the act's tiles. (R56) -/
  | startAct (qp : Nat) (msg : List Byte)
  /-- A STOP_ACT posts STOP to the act's tiles and completes when every tile has halted. (R342) -/
  | stopAct (qp : Nat) (msg : List Byte)
  /-- A SESSION_OPEN creates a session with its completion ring. (R342) -/
  | sessionOpen (qp : Nat) (msg : List Byte)
  /-- A SESSION_CLOSE frees a session and cancels and closes its sequences. (R354) -/
  | sessionClose (qp : Nat) (msg : List Byte)
  /-- An RDMA WRITE with immediate to AREA_BASE moves a session's command tail. (R344) -/
  | doorbell (qp : Nat) (imm : W32)
  /-- A service NOP command completes with no effect. (R348) -/
  | svcNop (sess : Nat)
  /-- An OPEN reads the prompt, checks it, reserves space and opens a sequence. (R303) -/
  | svcOpen (sess : Nat)
  /-- An APPEND adds tokens and new parameters to a HELD sequence. (R303) -/
  | svcAppend (sess : Nat)
  /-- A CANCEL ends a sequence at the end of the round or chunk under way. (R309) -/
  | svcCancel (sess : Nat)
  /-- A CLOSE cancels a sequence and returns it to FREE. (R309) -/
  | svcClose (sess : Nat)
  /-- A LOAD_WEIGHTS checks the weight map, makes the second master copies and fills the loft slices. (R300) -/
  | loadWeights (sess : Nat) (far : List Byte)
  /-- A READ_STATUS writes the service status record to host memory. (R348) -/
  | readStatus (sess : Nat)
  /-- An ADOPT takes over a sequence held for adoption with a new token ring. (R354) -/
  | adopt (sess : Nat)
  /-- A decode round admits sequences, draws and verifies tokens, streams them and ends sequences. (R306) -/
  | decodeRound (outs : List RoundOut) (fault : RoundFault) (beats : Nat)
  /-- A prefill chunk processes prompt tokens, writes KV and forms block keys. (R305) -/
  | prefillChunk (n : Nat)
  /-- LOFT_LOSS at a weight tile makes the service reload its weights and rebuild its keys and windows. (R301) -/
  | loftLossReload (b : Nat) (x : Nat)
  /-- A retired stack's master ranges are re-copied to another stack and the weight map is rewritten. (R488) -/
  | masterRecopy (n : Nat)
  /-- On a stack retirement every reserved sequence loses its KV and receives an END record, and the pool is recomputed. (R327) -/
  | kvLoss (n : Nat)
  /-- On a change of barn count the service switches layout, reloads slices and rebuilds keys and windows. (R326) -/
  | relayout
  /-- When the lead service tile changes, the new area is initialised and every ring header gets the new AREA_BASE. (R353) -/
  | leadMove
  /-- A session whose QP errs, or that is idle for LEASE beats, is lost and its sequences are held for adoption. (R354) -/
  | sessionLost (sess : Nat)
  /-- A sequence not adopted within ADOPT_HOLD is closed. (R354) -/
  | adoptHoldExpire (n : Nat)
  /-- A port receives a frame and filters, answers or passes it to the RoCEv2 engine. (R331) -/
  | ethFrameRx (p : Nat) (frame : EthFrame)
  /-- A port whose link is not up retries every 1 s. (R331) -/
  | ethLinkRetry (p : Nat) (up : Bool)
  /-- A received PFC frame pauses or resumes a priority at the next frame boundary. (R334) -/
  | pfcFrame (p : Nat) (pauses : List (Nat × Nat))
  /-- The receive buffer crosses XOFF_KB or XON_KB and the port sends XOFF or XON. (R334) -/
  | pfcXoff (p : Nat) (kb : Nat)
  /-- A CE-marked RoCEv2 packet makes the device send a CNP to its source QP. (R335) -/
  | ceReceive (p : Nat) (qp : Nat)
  /-- A received CNP halves the QP's rate. (R335) -/
  | cnpReceive (qp : Nat)
  /-- After RECOVER beats without a CNP the QP's rate rises by 5 % of line rate. (R335) -/
  | rateRecover (qp : Nat)
  /-- A received SEND delivers a message of at most 256 B, such as a management request. (R336) -/
  | send (qp : Nat) (msg : List Byte)
  /-- A received RDMA WRITE is checked and written to device memory, then acknowledged. (R338) -/
  | rdmaWrite (qp : Nat) (va : Nat) (key : Nat) (data : List Byte) (imm : Option W32)
  /-- A received RDMA READ is checked and answered from device memory. (R338) -/
  | rdmaRead (qp : Nat) (va : Nat) (key : Nat) (len : Nat)
  /-- A connection REQ on QP1 is accepted with a free QP or refused with REJ. (R337) -/
  | cmReq (p : Nat) (req : CmReq)
  /-- A DREQ on QP1 disconnects a QP. (R337) -/
  | cmDreq (qp : Nat)
  /-- A QP's local ACK timeout expires and it retransmits, up to seven times. (R337) -/
  | ackTimeout (qp : Nat)
  /-- A write of ETH_CTRL.ENABLE brings a port up, or takes it down and moves its QPs to error. (R331) -/
  | ethEnable (p : Nat) (v : W32)
  /-- A write of CAL_CTRL.START begins a field retrace after checking the reference. (R378) -/
  | calStart (v : W32) (calref : Nat)
  /-- A retrace pass or the gap ends, and after pass B the run is accepted or rejected. (R380) -/
  | calPassEnd (results : List CalPair)
  /-- A write of CAL_CTRL.ABORT ends a run or withdraws a pending commit. (R381) -/
  | calAbort (v : W32)
  /-- A write of CAL_CTRL.COMMIT schedules an accepted run's corrections for CAL_APPLY. (R381) -/
  | calCommit (v : W32)
  /-- At the apply beat every correction of the run comes into force. (R381) -/
  | calApply
  /-- After a committed retrace the Ringmaster writes a signed field record to both flash devices. (R402) -/
  | fieldRecordWrite
  /-- PKG_RESET_n rises with all rails good, and phase 0 begins. (R384) -/
  | pkgResetRise
  /-- PKG_RESET_n falls and the device drops every enable and stops flash and I²C activity. (R468) -/
  | pkgResetFall
  /-- VAUX falls below 1.62 V and the device acts as if PKG_RESET_n had fallen. (R469) -/
  | vauxLoss (removed : Bool)
  /-- In phase 1 the boot ROM checks the slots in order and boots the first valid image. (R408) -/
  | secureBoot (s0 : SlotImage) (s1 : SlotImage)
  /-- Phase 2 applies the calibration, the field record and the configuration records in order. (R405) -/
  | configApply
  /-- A WRITE record writes VALUE to a management address. (R403) -/
  | cfgWrite
  /-- A WRITE_CHECK record writes and reads back, stopping the application on a mismatch. (R405) -/
  | cfgWriteCheck
  /-- A WAIT record waits TIMEOUT beats. (R403) -/
  | cfgWait
  /-- A POLL record reads until the masked value matches, or stops the application at TIMEOUT. (R405) -/
  | cfgPoll
  /-- Phase 3 starts lantern bring-up and optical, HBM and yard link training in parallel. (R387) -/
  | phase3Start
  /-- After 150 ms phase 3 ends, retiring untrained stacks. (R387) -/
  | phase3Timeout
  /-- Phase 4 ends at SYNCED or after 2 × JOIN_WAIT beats. (R388) -/
  | phase4End
  /-- A barn's test begins: its rails and PLLs come up and the Farrier tests and maps it. (R389) -/
  | barnTest (b : Nat)
  /-- A barn's test ends, and it is cleared and routed, or kept out of service. (R390) -/
  | barnTestDone (b : Nat) (res : BarnResult)
  /-- A barn enters service, its shape table and act are written and its tiles start. (R391) -/
  | barnEntry (b : Nat)
  /-- A write of TACK_CTRL.ZEROISE erases the secrets, resets the Ringmasters and gates every region. (R414) -/
  | zeroise (v : W32)
  /-- A write of TACK_CTRL.SIGN_GO asks the Tack room to sign a digest under a domain, or is refused. (R411) -/
  | signGo (v : W32)
  /-- The signature is ready in TACK_SIGN_OUT and DONE is set. (R411) -/
  | signDone
  /-- The EXTEST instruction zeroises first and then drives boundary cells. (R414) -/
  | extest
  /-- The CLAMP instruction zeroises first and then clamps outputs. (R414) -/
  | clamp
  /-- The HIGHZ instruction zeroises first and then floats outputs. (R414) -/
  | highz
  /-- The INTSCAN instruction zeroises first and then connects the internal scan chains. (R414) -/
  | intscan
  /-- The FLASH_ACCESS instruction drives both flash buses from the TAP, only when zeroised. (R414) -/
  | flashAccess
  /-- The IDCODE instruction selects the device identification register. (R476) -/
  | idcode
  /-- The SAMPLE/PRELOAD instruction samples or preloads the boundary cells. (R476) -/
  | samplePreload
  /-- The BYPASS instruction, or any unassigned code, selects the bypass register. (R476) -/
  | bypass
  /-- The two Ringmasters' bus requests differ, and the interlock keeps or passes ACTIVE and resets one. (R419) -/
  | divergence (a : Bool) (b : Bool)
  /-- A write of RM_KICK restarts the Ringmaster watchdog. (R420) -/
  | rmKick (v : W32)
  /-- WD_TIMEOUT passes without a kick, the bus bridge resets and an abort enters both Ringmasters. (R420) -/
  | watchdog
  /-- WD_GRACE passes without a kick, both Ringmasters reset and the former standby restarts as holder. (R420) -/
  | warmRestart
  /-- A Ringmaster rejoins: the holder pauses and copies its state, and both resume in step. (R421) -/
  | rejoin
  /-- At a swap beat ACTIVE passes to the standby with a new nonce, or the swap is skipped. (R422) -/
  | carouselSwap (nonce : W32)
  /-- A write of RM_CTRL.SWAP_NOW requests a swap at the next multiple of 2^20 beats. (R422) -/
  | swapNow (v : W32)
  /-- The new holder writes the complement of the nonce and the swap completes. (R422) -/
  | rmSwapCheck (v : W32)
  /-- No correct check arrives by s + 1,001, ACTIVE returns and the new holder is marked FAILED. (R422) -/
  | swapFail
  /-- RETURN_HOLD after a swap, ACTIVE passes back to HOME. (R423) -/
  | switchback (nonce : W32)
  /-- A write of RM_UPDATE.GO starts a firmware update at step 3, or is rejected. (R424) -/
  | updateGo (v : W32) (image : SlotImage)
  /-- A write of RM_UPDATE.ABORT ends an update before step 5. (R424) -/
  | updateAbort (v : W32)
  /-- After the standby boots and reads the handoff mailbox, ACTIVE passes at the next 2^20 boundary. (R424) -/
  | updateHandover (ok : Bool) (nonce : W32)
  /-- After UPDATE_CONFIRM the former holder resets and rejoins on the new firmware. (R424) -/
  | updateConfirmEnd
  /-- No Ringmaster can hold ACTIVE, the interlock grants none and repair stops. (R426) -/
  | noMaster
  /-- 1,000,000 beats after NO_MASTER every Ethernet port is disabled. (R426) -/
  | noMasterEthDisable
  /-- The Farrier gates a region, saves its state, runs BIST, restores and restarts it. (R428) -/
  | farrierRegionTest (r : Nat) (failed : List Nat)
  /-- 10,000 beats after the last MAP write, RTR_FWD.EN at the vacated site is cleared. (R178) -/
  | remapForwardEnd (b : Nat) (x : Nat)
  /-- The Ringmaster re-places a moved tile's flows and rewrites the half's schedule, or posts STOP. (R434) -/
  | scheduleReplace (b : Nat) (half : Nat) (ok : Bool)
  /-- A rail with FAULT_LIMIT faults takes its barn out of service or retires its stacks. (R438) -/
  | barnExit (r : Nat)
  /-- A tripped barn, once cool, is retested and re-enters service. (R439) -/
  | barnReentry (b : Nat)
  /-- A buffer entry frees after drops, and a LOST record is written first. (R448) -/
  | lostRecord (b : Nat) (x : Nat)
  /-- A write of TRC_TILE_CTRL.MODE changes the drain mode, accepted only with the buffer empty or for mode 0. (R449) -/
  | trcModeWrite (b : Nat) (x : Nat) (v : W32)
  /-- The Roustabout sends a chunk of up to 63 records to the tile's segment in HBM. (R453) -/
  | chunkSend (b : Nat) (x : Nat)
  /-- A write of BRK_CLAIM claims the highest claimable source. (R456) -/
  | brkClaim (v : W32)
  /-- A write of BRK_COMPLETE clears a source's in-service bit, or counts a stray completion. (R456) -/
  | brkComplete (v : W32)
  /-- A write of BRK_SET raises sources as a hardware raise would. (R457) -/
  | brkSet (w : Nat) (v : W32)
  /-- A write of 1 to BRK_PENDING clears a pending bit without a claim. (R457) -/
  | brkPendingClear (w : Nat) (v : W32) (sets : W32)
  /-- Every 65,536 beats the TRC block flags sites with long waits or no recent YIELD and raises HANG. (R460) -/
  | hangScan
  /-- Firmware takes two passes of wait state and writes the waits present in both as a snapshot. (R462) -/
  | hangSnapshot
  /-- A read of a SLOT_ENTRY's first word latches the entry's other words. (R461) -/
  | slotEntryRead (b : Nat) (x : Nat) (n : Nat)
  /-- An Ethernet port's LINK_UP clears or sets, raising the ETH source; on loss the port's QPs go to error and the host reconnects elsewhere. (R415) -/
  | linkUpChange (p : Nat) (up : Bool)
  /-- A lantern module reports STATUS.FAULT or OVERTEMP, setting MOD_STATUS.FAULT and raising the LANT source. (R454) -/
  | moduleFault (k : Nat)
  /-- A command that a retiring stack fails to answer within 1,000 beats completes with POISON, lowering OUTSTANDING. (R228) -/
  | hbmCommandTimeout (n : Nat) (k : Nat)
  /-- A response or NAK to an RDMA READ that the device issued arrives from the host, letting OPEN, APPEND or LOAD_ACT proceed, or completing the command with DENIED. (R349) -/
  | rdmaReadResponse (qp : Nat) (ok : Bool) (data : List Byte)
  /-- A port router reports an uncorrectable error in its own state, and the Ringmaster resets the segment. (R435) -/
  | portUncorrectableError (p : Nat)
  /-- A write of YLINK_CTRL.RETRAIN drops every channel of the link and retrains it, and the bit clears when training is done. (R263) -/
  | ylinkRetrain (l : Nat) (v : W32)
  deriving DecidableEq, Repr

end Sys2Proof
end

