-- ==== Sys2Proof/Decode.lean ====
section
/-! DEFINITION. Commands spelled as words of the command table. The table gives no row bits (every row's fields are empty): commands come
to the device over its pins, links and buses in the forms that their rules give, not as encoded words. -/

namespace Sys2Proof

/-- The command that a word of the table spells: none, since no row of the table has bits. -/
def decodeTableWord (_nbits _w : Nat) : Option Instr := none

end Sys2Proof
end

