-- ==== Sys2Proof/Config.lean ====
section
/-! DEFINITION. What the spec leaves open: free values (constants without a body, so that no proof can see them) and the
choices that each implementation fixes. Every name here is named in notes/assumptions. -/

namespace Sys2Proof.Config

/-- A byte whose contents the spec leaves undefined; applied to a counter of the state. -/
opaque freeByte : Nat → BitVec 8
/-- A 32-bit value that the spec leaves open; applied to a counter of the state. -/
opaque freeWord : Nat → BitVec 32
/-- A 64-bit value that the spec leaves open; applied to a counter of the state. -/
opaque freeDouble : Nat → BitVec 64

/-- The upper half that a 32-bit ALU operation writes to a 64-bit register, from its 32-bit result (R83 gives no rule). -/
opaque narrowHigh : BitVec 32 → BitVec 32
/-- Whether the integer quotient of operands of unlike sign is rounded toward minus infinity; R85 gives no rule. -/
opaque divFloors : Bool
/-- The result of a bit-field extract, whose operand layout stands in the Argil reference (R84). -/
opaque bitExtract : BitVec 64 → BitVec 64 → BitVec 64
/-- The result of a bit-field insert, whose operand layout stands in the Argil reference (R84). -/
opaque bitInsert : BitVec 64 → BitVec 64 → BitVec 64 → BitVec 64

/-- A candidate FP32 code for e^a of vector EXP; used where it lies within the bound of Table 04-7 (R150). -/
opaque expCode : Nat → Nat
/-- A candidate FP32 code for 1/a of vector RECIP; used where it lies within the bound of Table 04-7 (R150). -/
opaque recipCode : Nat → Nat
/-- A candidate FP32 code for 1/sqrt a of vector RSQRT; used where it lies within the bound of Table 04-7 (R150). -/
opaque rsqrtCode : Nat → Nat
/-- The order of addition of vector SUM (R101, R152): which of the values left are added at each step; applied to a counter of the state. -/
opaque sumPick : Nat → Nat → Nat

/-- Whether a register shows a quantity rounded up; no rule gives the rounding of measured and modelled figures. -/
opaque roundsUp : Rat → Bool
/-- The compensation of the holdover oscillator from its offset, its coefficients and the temperature of its base node, and which node
that is (R51); the trim of a replica line from its coefficients and its temperature (R66). No rule gives the forms. -/
opaque oscTrim : Int → List (BitVec 32) → Rat → Rat
opaque oscNode : Nat
opaque replicaTrim : List (BitVec 32) → Rat → Rat
/-- How far a rail's sense element is from the temperature of its calibrated resistance (Table 12-8 gives no reference). -/
opaque senseDelta : Nat → Int
/-- The correction that two agreeing passes give; used where it lies between them (R380). -/
opaque passJoin : Int → Int → Int
/-- SM3 of GB/T 32905, an outside standard. -/
opaque sm3 : List (BitVec 8) → List (BitVec 8)
/-- A private key's signature of a digest, the public key of a private key, and the order of the curve (R399, R410, R411), an outside
standard (GB/T 32918). -/
opaque sm2Sign : Nat → List (BitVec 8) → List (BitVec 8)
opaque sm2Public : Nat → List (BitVec 8)
opaque sm2Order : Nat

/-- The act's body, whose layout is Argil's (Table 12-11, R412): whether a loader finds it in form, whether its SIGNATURE
verifies. -/
opaque actFormOk : List (BitVec 8) → Bool
opaque actSigned : List (BitVec 8) → Bool
/-- The service header that an act carries; empty where it uses no generation service (R297). -/
opaque actHeader : List (BitVec 8) → List (BitVec 8)
/-- Whether an act uses a logical tile of a barn; what it places there, as (local address, bytes); the tile's TILE_BOOT. -/
opaque actUses : List (BitVec 8) → Nat → Nat → Bool
opaque actImage : List (BitVec 8) → Nat → Nat → List (Nat × List (BitVec 8))
opaque actBoot : List (BitVec 8) → Nat → Nat → Nat
/-- The schedule that an act carries in relocatable form (R434): management addresses and words, from the site of each logical tile
of a barn. -/
opaque actSchedule : List (BitVec 8) → Nat → List Nat → List (Nat × BitVec 32)
/-- Where in the lead tile's SRAM an act keeps its service area (R343 gives its layout, no rule its place). -/
opaque actArea : List (BitVec 8) → Nat
/-- Which barn of a layout, counted from 0, holds a KV head in the layout of a barn count (R318 gives the act the choice). -/
opaque headHolder : List (BitVec 8) → Nat → Nat → Nat
/-- Where in a slice the run of block keys of a sequence, layer and head begins, and its window blocks (no rule gives the place). -/
opaque keyRun : Nat → Nat → Nat → Nat → Nat
opaque windowRun : Nat → Nat → Nat → Nat → Nat

/-- The words of the boot ROM and of the flash devices as the management windows show them (R27); no rule gives their bytes. A flash word
is applied to a counter of the state, since the devices are written. -/
opaque romWord : Nat → BitVec 32
opaque flashWord : Nat → Nat → BitVec 32

/-- What a byte of a stack reads as through the window after a window change, until something writes it again (R227: undefined); applied
to the number of changes and to the byte's place. -/
opaque windowByte : Nat → Nat → BitVec 8

/-- The row of a stack address; rows belong to the controller and are not visible (R211). -/
opaque rowOf : Nat → Nat → Nat
/-- The bank of a row of a stack, and the soft repairs that a bank has (R216 gives no number). -/
opaque bankOf : Nat → Nat → Nat
opaque bankRepairs : Nat → Nat → Nat

/-- The base node under a bank of rings (R360 gives the rule, no rule the places). -/
opaque ringNode : Nat → Nat

end Sys2Proof.Config
end

