-- ==== Sys2Proof/Machine/Bits.lean ====
section
/-! DEFINITION. Bit fields, sign extension and little-endian byte order (R7). -/

namespace Sys2Proof.Machine

/-- Bits [hi:lo] of a word given as a number. -/
def bitsOf (w hi lo : Nat) : Nat := w / 2 ^ lo % 2 ^ (hi + 1 - lo)

/-- Bit i of a word given as a number. -/
def bitOf (w i : Nat) : Bool := w / 2 ^ i % 2 == 1

/-- 1 for true, 0 for false. -/
def boolNat (b : Bool) : Nat := if b then 1 else 0

/-- A number with bit i set or cleared. -/
def setBitNat (w i : Nat) (b : Bool) : Nat := w - boolNat (bitOf w i) * 2 ^ i + boolNat b * 2 ^ i

/-- How many of the n lowest bits are 1. -/
def popCount (w : Nat) : Nat → Nat
  | 0 => 0
  | n + 1 => popCount w n + boolNat (bitOf w n)

/-- The lowest bit at 1 among bits below n, if any. -/
def lowestBit (w n : Nat) : Option Nat := (List.range n).find? (bitOf w)

/-- The value of an n-bit two's-complement field. -/
def signed (n w : Nat) : Int := if w % 2 ^ n < 2 ^ (n - 1) then (w % 2 ^ n : Nat) else (w % 2 ^ n : Nat) - (2 ^ n : Nat)

/-- The n-bit two's-complement code of an integer. -/
def codeOf (n : Nat) (v : Int) : Nat := (v % (2 ^ n : Nat)).toNat

/-- The n low bytes of a number, the least significant first (R7). -/
def bytesLE (v : Nat) : Nat → List Byte
  | 0 => []
  | n + 1 => BitVec.ofNat 8 v :: bytesLE (v / 256) n

/-- The number that bytes give, the least significant first (R7). -/
def natLE : List Byte → Nat
  | [] => 0
  | b :: t => b.toNat + 256 * natLE t

/-- n bytes of a list from a position on; positions beyond the end read as zero. -/
def bytesAt (l : List Byte) (a n : Nat) : List Byte :=
  ((l.drop a).take n) ++ List.replicate (n - ((l.drop a).take n).length) 0

/-- The little-endian number of n bytes of a list from a position on. -/
def fieldLE (l : List Byte) (a n : Nat) : Nat := natLE (bytesAt l a n)

/-- A list of bytes cut into words of n bytes. -/
def chunks (n : Nat) : Nat → List Byte → List (List Byte)
  | 0, _ => []
  | fuel + 1, l => if l.isEmpty then [] else l.take n :: chunks n fuel (l.drop n)

/-- Division rounded up. -/
def ceilDiv (a b : Nat) : Nat := (a + b - 1) / b

/-- A 64-bit number from its two halves. -/
def joinHalves (lo hi : W32) : Nat := lo.toNat + hi.toNat * 2 ^ 32

end Sys2Proof.Machine
end

