-- ==== Sys2Proof/Machine/Sparse.lean ====
section
/-! DEFINITION. Sparse maps in one canonical form, and the few list helpers that the model needs. A sparse map lists only the
keys whose value differs from the default, its keys strictly rising, so that equal maps are equal lists. -/

namespace Sys2Proof.Machine

/-- A map from Nat keys; what an unlisted key holds is given with each operation. -/
abbrev Sparse (α : Type) := List (Nat × α)

/-- The value at a key: what is listed, or the default of the key. -/
def Sparse.get (dflt : Nat → α) : Sparse α → Nat → α
  | [], k => dflt k
  | (k', v) :: t, k => if k' = k then v else Sparse.get dflt t k

/-- The map without a key. -/
def Sparse.erase : Sparse α → Nat → Sparse α
  | [], _ => []
  | (k', v) :: t, k => if k' = k then Sparse.erase t k else (k', v) :: Sparse.erase t k

/-- Lists a key with a value, at its place in the order. -/
def Sparse.insert : Sparse α → Nat → α → Sparse α
  | [], k, v => [(k, v)]
  | (k', v') :: t, k, v =>
    if k < k' then (k, v) :: (k', v') :: t
    else if k' = k then (k, v) :: t
    else (k', v') :: Sparse.insert t k v

/-- Sets a key: the default value is never listed. -/
def Sparse.set [DecidableEq α] (dflt : Nat → α) (m : Sparse α) (k : Nat) (v : α) : Sparse α :=
  if v = dflt k then m.erase k else m.insert k v

/-- Applies a function to the value at a key. -/
def Sparse.upd [DecidableEq α] (dflt : Nat → α) (m : Sparse α) (k : Nat) (f : α → α) : Sparse α :=
  m.set dflt k (f (m.get dflt k))

/-- The keys from lo on, below lo + n. -/
def Sparse.slice (m : Sparse α) (lo n : Nat) : Sparse α :=
  m.filter fun c => decide (lo ≤ c.1) && decide (c.1 < lo + n)

/-- The map with the keys from lo on, below lo + n, back at their defaults. -/
def Sparse.clear (m : Sparse α) (lo n : Nat) : Sparse α :=
  m.filter fun c => !(decide (lo ≤ c.1) && decide (c.1 < lo + n))

/-- The values listed from src on, below src + n, put at dst on (a copy of a range whose unlisted keys share one default). -/
def Sparse.copy [DecidableEq α] (dflt : Nat → α) (m : Sparse α) (src dst n : Nat) : Sparse α :=
  (m.slice src n).foldl (fun acc c => acc.set dflt (c.1 - src + dst) c.2) (m.clear dst n)

/-- The canonical form: keys strictly rising, and no key listed at its default. -/
def Sparse.wf [DecidableEq α] (dflt : Nat → α) : Sparse α → Bool
  | [] => true
  | (k, v) :: t => decide (v ≠ dflt k) && t.all (fun c => decide (k < c.1)) && Sparse.wf dflt t

/-- The value at position n of a list, or a default. -/
def nth (l : List α) (n : Nat) (d : α) : α := (l[n]?).getD d

/-- The list with position n changed; unchanged beyond its end. -/
def setNth : List α → Nat → α → List α
  | [], _, _ => []
  | _ :: t, 0, v => v :: t
  | h :: t, n + 1, v => h :: setNth t n v

/-- The first position at which a predicate holds, counted from n. -/
def findIdxFrom (p : α → Bool) : List α → Nat → Option Nat
  | [], _ => none
  | h :: t, n => if p h then some n else findIdxFrom p t (n + 1)

/-- The list without the first element that meets a predicate. -/
def eraseFirst (p : α → Bool) : List α → List α
  | [] => []
  | h :: t => if p h then t else h :: eraseFirst p t

/-- The list with a function applied to the first element that meets a predicate. -/
def updFirst (p : α → Bool) (f : α → α) : List α → List α
  | [] => []
  | h :: t => if p h then f h :: t else h :: updFirst p f t

/-- A list whose first n elements are kept. -/
def takeN (l : List α) (n : Nat) : List α := l.take n

/-- Puts an element before the first element that it is to precede. -/
def insertBy (le : α → α → Bool) (a : α) : List α → List α
  | [] => [a]
  | h :: t => if le a h then a :: h :: t else h :: insertBy le a t

/-- A list in the order le gives; equal elements keep their order. -/
def sortBy (le : α → α → Bool) : List α → List α
  | [] => []
  | h :: t => insertBy le h (sortBy le t)

/-- The sum of a list of natural numbers. -/
def sumNat (l : List Nat) : Nat := l.foldl (· + ·) 0

end Sys2Proof.Machine
end

