-- ==== Sys2Proof/Machine/Fp.lean ====
section
/-! DEFINITION. Number formats and arithmetic (spec/04): element formats, block-scaled formats, packed rows, the matrix
group sum, conversions with rounding and saturation, the combinations of remote reductions, and the random generator.
Values are exact; each rounding is one explicit step. -/

namespace Sys2Proof.Machine

/-- An exact value: NaN, an infinity, or (-1)^neg * m * 2^e, where zero keeps its sign (R138). -/
inductive Num where
  | nan
  | inf (neg : Bool)
  | fin (neg : Bool) (m : Nat) (e : Int)
  deriving DecidableEq, Repr

/-- A floating-point element format of Table 04-3: field widths, bias, the largest finite magnitude code, the infinity
code if there is one, and the NaN code that a conversion writes (Table 04-8). -/
structure FloatFmt where
  ebits : Nat
  mbits : Nat
  bias : Int
  maxCode : Nat
  infCode : Option Nat
  nanCode : Nat
  deriving DecidableEq, Repr

def fp32 : FloatFmt := ⟨8, 23, 127, 0x7F7FFFFF, some 0x7F800000, 0x7FC00000⟩
def bf16 : FloatFmt := ⟨8, 7, 127, 0x7F7F, some 0x7F80, 0x7FC0⟩
def fp16 : FloatFmt := ⟨5, 10, 15, 0x7BFF, some 0x7C00, 0x7E00⟩
def e5m2 : FloatFmt := ⟨5, 2, 15, 0x7B, some 0x7C, 0x7F⟩
def e4m3 : FloatFmt := ⟨4, 3, 7, 0x7E, none, 0x7F⟩
def e3m2 : FloatFmt := ⟨3, 2, 3, 0x1F, none, 0⟩
def e2m3 : FloatFmt := ⟨2, 3, 1, 0x1F, none, 0⟩
def e2m1 : FloatFmt := ⟨2, 1, 1, 0x7, none, 0⟩

/-- The place of the sign bit. -/
def FloatFmt.signBit (f : FloatFmt) : Nat := f.ebits + f.mbits

/-- Multiplication by a power of two, exact. -/
def Num.scale (x : Num) (k : Int) : Num :=
  match x with
  | .fin n m e => .fin n m (e + k)
  | y => y

/-- The value of a code of a floating-point format (R136): encodings above the largest finite one are the infinity or NaN. -/
def FloatFmt.decode (f : FloatFmt) (c : Nat) : Num :=
  let neg := bitOf c f.signBit
  let mag := c % 2 ^ f.signBit
  if f.maxCode < mag then
    if f.infCode = some mag then .inf neg else .nan
  else
    let ex := mag / 2 ^ f.mbits
    let man := mag % 2 ^ f.mbits
    if ex = 0 then .fin neg man (1 - f.bias - f.mbits)
    else .fin neg (2 ^ f.mbits + man) (ex - f.bias - f.mbits)

/-- A rounding mode: to nearest even (R155), or stochastic with 16 random bits (R156). -/
inductive Rnd where
  | nearest
  | stochastic (r : Nat)
  deriving DecidableEq, Repr

/-- m * 2^e in units of 2^q, rounded to an integer (R155, R156). -/
def roundUnits (rnd : Rnd) (m : Nat) (e q : Int) : Nat :=
  if q ≤ e then m * 2 ^ (e - q).toNat
  else
    let s := (q - e).toNat
    let n := m / 2 ^ s
    let rem := m % 2 ^ s
    match rnd with
    | .nearest => if 2 * rem > 2 ^ s ∨ (2 * rem = 2 ^ s ∧ n % 2 = 1) then n + 1 else n
    | .stochastic r => if rem * 65536 / 2 ^ s + r % 65536 ≥ 65536 then n + 1 else n

/-- floor(log2 |x|) of a finite non-zero value m * 2^e. -/
def floorLog2 (m : Nat) (e : Int) : Int := Nat.log2 m + e

/-- The code of a value in a floating-point format: one rounding; beyond the largest finite value it saturates (R157), or
with sat false becomes the infinity (R148, R160). A zero result keeps its sign (R157). -/
def FloatFmt.encode (f : FloatFmt) (sat : Bool) (rnd : Rnd) (x : Num) : Nat :=
  match x with
  | .nan => f.nanCode
  | .inf neg => boolNat neg * 2 ^ f.signBit + f.infCode.getD f.maxCode
  | .fin neg m e =>
    let minQ : Int := 1 - f.bias - f.mbits
    let q : Int := if m = 0 then minQ else max minQ (floorLog2 m e - f.mbits)
    let code := (q - minQ).toNat * 2 ^ f.mbits + roundUnits rnd m e q
    let mag := if code ≤ f.maxCode then code else if sat then f.maxCode else f.infCode.getD f.maxCode
    boolNat neg * 2 ^ f.signBit + mag

/-- The code of a value in a two's-complement element of the given width whose unit is 2^q (R137, R157). -/
def encodeInt (bits : Nat) (q : Int) (rnd : Rnd) (x : Num) : Nat :=
  match x with
  | .nan => 0
  | .inf neg => if neg then 2 ^ (bits - 1) else 2 ^ (bits - 1) - 1
  | .fin neg m e =>
    let n := roundUnits rnd m e q
    if neg then codeOf bits (-(min n (2 ^ (bits - 1)) : Nat)) else min n (2 ^ (bits - 1) - 1)

/-- The value of a two's-complement code whose unit is 2^q (R137). -/
def decodeInt (bits : Nat) (q : Int) (c : Nat) : Num :=
  let v := signed bits c
  .fin (decide (v < 0)) v.natAbs q

/-- The signed mantissa of a finite value. -/
def signedM (neg : Bool) (m : Nat) : Int := if neg then -(m : Int) else m

/-- The exact sum (R138, R148): zero is +0 unless both operands are -0. -/
def Num.add (x y : Num) : Num :=
  match x, y with
  | .nan, _ => .nan
  | _, .nan => .nan
  | .inf a, .inf b => if a = b then .inf a else .nan
  | .inf a, _ => .inf a
  | _, .inf b => .inf b
  | .fin n1 m1 e1, .fin n2 m2 e2 =>
    let e := min e1 e2
    let v := signedM n1 m1 * 2 ^ (e1 - e).toNat + signedM n2 m2 * 2 ^ (e2 - e).toNat
    if v = 0 then .fin (n1 && n2 && m1 == 0 && m2 == 0) 0 e else .fin (decide (v < 0)) v.natAbs e

/-- The exact product (R138, R148). -/
def Num.mul (x y : Num) : Num :=
  match x, y with
  | .nan, _ => .nan
  | _, .nan => .nan
  | .inf a, .inf b => .inf (a != b)
  | .inf a, .fin b m _ => if m = 0 then .nan else .inf (a != b)
  | .fin a m _, .inf b => if m = 0 then .nan else .inf (a != b)
  | .fin a m e, .fin b n g => .fin (a != b) (m * n) (e + g)

/-- x < y for values that are not NaN. -/
def Num.lt (x y : Num) : Bool :=
  match x, y with
  | .nan, _ => false
  | _, .nan => false
  | .inf a, .inf b => a && !b
  | .inf a, _ => a
  | _, .inf b => !b
  | .fin n1 m1 e1, .fin n2 m2 e2 =>
    let e := min e1 e2
    decide (signedM n1 m1 * 2 ^ (e1 - e).toNat < signedM n2 m2 * 2 ^ (e2 - e).toNat)

/-- Whether the sign is negative. -/
def Num.neg? : Num → Bool
  | .nan => false
  | .inf n => n
  | .fin n _ _ => n

/-- MAX of R151: NaN if either is NaN; MAX(+0, -0) is +0. -/
def Num.maxOf (x y : Num) : Num :=
  if x = .nan ∨ y = .nan then .nan
  else if x.lt y then y else if y.lt x then x else if x.neg? then y else x

/-- MIN of R151: NaN if either is NaN; MIN(+0, -0) is -0. -/
def Num.minOf (x y : Num) : Num :=
  if x = .nan ∨ y = .nan then .nan
  else if x.lt y then x else if y.lt x then y else if x.neg? then x else y

/-- FP32 addition, to nearest even, without saturation (R147, R148, R191). -/
def fp32Add (a b : Nat) : Nat := fp32.encode false .nearest ((fp32.decode a).add (fp32.decode b))

/-! ## Format codes (Table 04-1) -/

/-- Bits of one element, scale and offsets apart. -/
def fmtBits (c : Nat) : Nat := nth [32, 16, 16, 8, 8, 8, 4, 4, 8, 8, 6, 6, 4, 8, 4] c 8

/-- The number of elements that K or LEN must be a multiple of. -/
def fmtBlock (c : Nat) : Nat := nth [1, 1, 1, 1, 1, 1, 2, 2, 32, 32, 32, 32, 32, 32, 128] c 1

/-- Integer formats: INT8, INT4, MXINT8. -/
def fmtIsInt (c : Nat) : Bool := c == 5 || c == 6 || c == 13

/-- Block-scaled formats: the MX formats and MSF4. -/
def fmtScaled (c : Nat) : Bool := decide (8 ≤ c) && decide (c ≤ 14)

/-- The floating-point element format of a code; none for the integer formats. -/
def fmtFloat (c : Nat) : Option FloatFmt :=
  match c with
  | 0 => some fp32 | 1 => some bf16 | 2 => some fp16 | 3 => some e4m3 | 4 => some e5m2
  | 7 => some e2m1 | 8 => some e4m3 | 9 => some e5m2 | 10 => some e3m2 | 11 => some e2m3
  | 12 => some e2m1 | 14 => some e2m1 | _ => none

/-- emax of R142. -/
def fmtEmax (c : Nat) : Int :=
  match c with
  | 8 => 8 | 9 => 15 | 10 => 4 | 11 => 2 | 12 => 2 | 14 => 2 | _ => 0

/-- The value of an element code, its block factor apart. -/
def elemDecode (c code : Nat) : Num :=
  match fmtFloat c with
  | some f => f.decode code
  | none => decodeInt (fmtBits c) (if c = 13 then -6 else 0) code

/-- The code of a value as an element, its block factor divided out before (round_sat of R142). -/
def elemEncode (c : Nat) (rnd : Rnd) (x : Num) : Nat :=
  match fmtFloat c with
  | some f => f.encode true rnd x
  | none => encodeInt (fmtBits c) (if c = 13 then -6 else 0) rnd x

/-! ## Packed rows (R141, R143, R144) -/

/-- Bytes of the element part of n stored elements. -/
def elemBytes (c n : Nat) : Nat := ceilDiv (n * fmtBits c) 8

/-- Bytes of the MSF4 offset part for K logical elements. -/
def offsetBytes (c k : Nat) : Nat := if c = 14 then ceilDiv k 32 else 0

/-- Bytes of the scale part for K logical elements. -/
def scaleBytes (c k : Nat) : Nat := if fmtScaled c then ceilDiv k (fmtBlock c) else 0

/-- The packed size of K elements, dense (Table 04-6). -/
def packedSize (c k : Nat) : Nat := elemBytes c k + offsetBytes c k + scaleBytes c k

/-- The packed size of K elements in 2:4 sparse form (Table 04-6). -/
def packedSparse (c k : Nat) : Nat := elemBytes c (k / 2) + ceilDiv k 8 + offsetBytes c k + scaleBytes c k

/-- Element j of w bits in a little-endian bit stream (R141). -/
def streamElem (row : List Byte) (w j : Nat) : Nat := fieldLE row (w * j / 8) 5 / 2 ^ (w * j % 8) % 2 ^ w

/-- The factor of logical element k: NaN for scale byte 0xFF of a block-scaled format (R139, R140). -/
def rowFactor (c : Nat) (offsets scales : List Byte) (k : Nat) : Option Int :=
  if fmtScaled c then
    let s := (nth scales (k / fmtBlock c) 0).toNat
    if s = 255 then none
    else if c = 14 then some (s - 127 - (streamElem offsets 4 (k / 16) : Nat)) else some (s - 127)
  else some 0

/-- The value of an element code at logical position k of a row. -/
def rowValue (c : Nat) (offsets scales : List Byte) (k code : Nat) : Num :=
  match rowFactor c offsets scales k with
  | none => .nan
  | some f => (elemDecode c code).scale f

/-- The values of a dense packed row of K elements. -/
def decodeRow (c k : Nat) (row : List Byte) : List Num :=
  let off := row.drop (elemBytes c k)
  let sc := off.drop (offsetBytes c k)
  (List.range k).map fun j => rowValue c off sc j (streamElem row (fmtBits c) j)

/-- The stored values of a 2:4 sparse column of K logical elements, each with the logical position it multiplies (R144). -/
def decodeSparse (c k : Nat) (row : List Byte) : List (Nat × Num) :=
  let idx := row.drop (elemBytes c (k / 2))
  let off := idx.drop (ceilDiv k 8)
  let sc := off.drop (offsetBytes c k)
  (List.range (k / 2)).map fun j =>
    let g := j / 2
    let d := streamElem idx 2 j
    (4 * g + d, rowValue c off sc (4 * g + d) (streamElem row (fmtBits c) j))

/-! ## The matrix engine's group sum (R147, R148) -/

/-- The leading-bit place of a finite non-zero value. -/
def Num.lead : Num → Option Int
  | .fin _ m e => if m = 0 then none else some (floorLog2 m e)
  | _ => none

/-- The largest leading-bit place in a list. -/
def maxLead (l : List Num) : Option Int :=
  l.foldl (fun acc x => match acc, x.lead with
    | none, y => y
    | some a, none => some a
    | some a, some b => some (max a b)) none

/-- A value with its bits below 2^q discarded, toward zero. -/
def Num.truncAt (q : Int) : Num → Num
  | .fin n m e => if q ≤ e then .fin n m e else .fin n (m / 2 ^ (q - e).toNat) q
  | x => x

/-- The exact sum of a list; the empty list gives +0. -/
def sumNums : List Num → Num
  | [] => .fin false 0 0
  | [x] => x
  | x :: t => x.add (sumNums t)

/-- The sum of a group's products, rounded once to FP32 (R147 steps 1-4). wide: either format is BF16 or FP16. -/
def groupSum (wide : Bool) (ps : List Num) : Nat :=
  let ps' := if wide then
      match maxLead ps with
      | some l => ps.map (Num.truncAt (l - 48))
      | none => ps
    else ps
  fp32.encode false .nearest (sumNums ps')

/-- An accumulator element after the groups of products, in ascending k (R147 step 5). -/
def accumulate (wide : Bool) (acc : Nat) (groups : List (List Num)) : Nat :=
  groups.foldl (fun a g => fp32Add a (groupSum wide g)) acc

/-- The products of a row and a dense column, in groups of 16 consecutive k. -/
def denseGroups (k : Nat) (a b : List Num) : List (List Num) :=
  (List.range (ceilDiv k 16)).map fun g =>
    List.zipWith Num.mul ((a.drop (16 * g)).take 16) ((b.drop (16 * g)).take 16)

/-- The products of a row and a sparse column, in groups of 16 consecutive logical k (R144, R145). -/
def sparseGroups (k : Nat) (a : List Num) (b : List (Nat × Num)) : List (List Num) :=
  (List.range (ceilDiv k 16)).map fun g =>
    ((b.drop (8 * g)).take 8).map fun p => (nth a p.1 .nan).mul p.2

/-! ## Random bits (R158) -/

/-- The draw of a seed and a counter. -/
def rngDraw (seed counter : W64) : W64 :=
  let z := seed + counter * 0x9E3779B97F4A7C15#64
  let z := (z ^^^ (z >>> 30)) * 0xBF58476D1CE4E5B9#64
  let z := (z ^^^ (z >>> 27)) * 0x94D049BB133111EB#64
  z ^^^ (z >>> 31)

/-- The rounding mode of element n of a conversion: stochastic takes draw counter + n (R159). -/
def rndAt (stoch : Bool) (seed counter : W64) (n : Nat) : Rnd :=
  if stoch then .stochastic ((rngDraw seed (counter + BitVec.ofNat 64 n)).toNat % 65536) else .nearest

/-! ## Conversion into a packed row (R142, R149, R154) -/

/-- Packs element codes of w bits into a little-endian bit stream. -/
def packBits (w : Nat) (codes : List Nat) : List Byte :=
  bytesLE (codes.foldr (fun c acc => c % 2 ^ w + 2 ^ w * acc) 0) (ceilDiv (w * codes.length) 8)

/-- An infinity counted as the largest finite FP32 value of its sign (R142). -/
def Num.clampInf : Num → Num
  | .inf n => match fp32.decode 0x7F7FFFFF with
    | .fin _ m e => .fin n m e
    | x => x
  | x => x

/-- What R142 gives one block: scale byte, offsets, element codes. base is the row position of its first element. -/
def encodeBlock (c : Nat) (rnd : Nat → Rnd) (base : Nat) (xs : List Num) : Nat × List Nat × List Nat :=
  let zeros := xs.map fun _ => 0
  let noOff := List.replicate 8 0
  if xs.any (· == .nan) then (255, noOff, zeros)
  else
    let ys := xs.map Num.clampInf
    match maxLead ys with
    | none => (0, noOff, zeros)
    | some l =>
      let e := max (-127) (min 127 (l - fmtEmax c))
      let us : List Int := (List.range 8).map fun j =>
        if c = 14 then
          match maxLead ((ys.drop (16 * j)).take 16) with
          | none => 0
          | some la => max 0 (min 15 (e + 2 - la))
        else 0
      let codes := (List.range ys.length).map fun i =>
        elemEncode c (rnd (base + i)) ((nth ys i .nan).scale (-(e - if c = 14 then nth us (i / 16) 0 else 0)))
      ((e + 127).toNat, us.map Int.toNat, codes)

/-- The packed row of values in a format: rnd gives the rounding of each row position. -/
def encodeRow (c : Nat) (rnd : Nat → Rnd) (xs : List Num) : List Byte :=
  if fmtScaled c then
    let n := ceilDiv xs.length (fmtBlock c)
    let bs := (List.range n).map fun b =>
      encodeBlock c rnd (b * fmtBlock c) ((xs.drop (b * fmtBlock c)).take (fmtBlock c))
    let elems := packBits (fmtBits c) (bs.flatMap fun b => b.2.2)
    let offs := if c = 14 then packBits 4 (bs.flatMap fun b => b.2.1) else []
    elems ++ offs ++ bs.map fun b => BitVec.ofNat 8 b.1
  else
    packBits (fmtBits c) ((List.range xs.length).map fun i => elemEncode c (rnd i) (nth xs i .nan))

/-! ## EXP, RECIP, RSQRT and SUM (R150, R152) -/

/-- A finite value as a rational number. -/
def Num.toRat : Num → Rat
  | .fin n m e => (signedM n m : Rat) * (if 0 ≤ e then (2 ^ e.toNat : Nat) else 1) / (if 0 ≤ e then 1 else (2 ^ (-e).toNat : Nat))
  | _ => 0

/-- A non-negative rational number rounded down to 64 bits below its leading bit: enough for a nearest-even FP32 code. -/
def ratNum (neg : Bool) (q : Rat) : Num :=
  let n := q.num.natAbs
  let e : Int := (Nat.log2 n : Int) - Nat.log2 q.den - 64
  if 0 ≤ e then .fin neg (2 * (n / (q.den * 2 ^ e.toNat)) + boolNat (n % (q.den * 2 ^ e.toNat) != 0)) (e - 1)
  else .fin neg (2 * (n * 2 ^ (-e).toNat / q.den) + boolNat (n * 2 ^ (-e).toNat % q.den != 0)) (e - 1)

/-- One unit in the last place of the FP32 value nearest a positive rational number. -/
def ulp32 (q : Rat) : Rat :=
  match fp32.decode (fp32.encode true .nearest (ratNum false q)) with
  | .fin _ m e => if m = 0 then (Num.fin false 1 (-149)).toRat else (Num.fin false 1 (max (-149) (floorLog2 m e - 23))).toRat
  | _ => 0

/-- A positive result known to lie in [lo, hi]: the candidate where it lies within k ulp, else the code nearest lo. -/
def withinUlps (k : Nat) (neg : Bool) (cand : Nat) (lo hi : Rat) : Nat :=
  let near := fp32.encode false .nearest (ratNum neg lo)
  match fp32.decode cand with
  | .fin n m e =>
    let v := (Num.fin false m e).toRat
    let tol := (k : Rat) * ulp32 lo
    if n = neg ∧ lo - tol ≤ v ∧ v ≤ hi + tol then cand % 2 ^ 32 else near
  | _ => near

/-- 1/a as an FP32 code (R150). -/
def fnRecip (x : Num) : Nat :=
  match x with
  | .nan => fp32.nanCode
  | .inf n => fp32.encode true .nearest (.fin n 0 0)
  | .fin n m e =>
    if m = 0 then fp32.encode true .nearest (.inf n)
    else
      let q := 1 / (Num.fin false m e).toRat
      withinUlps 1 n (Config.recipCode (fp32.encode true .nearest x)) q q

/-- The integer square root, by bisection from a power of two: fuel steps. -/
def isqrt : Nat → Nat → Nat → Nat
  | 0, _, r => r
  | fuel + 1, n, r => let c := r + 2 ^ fuel; isqrt fuel n (if c * c ≤ n then c else r)

/-- 1/sqrt a as an FP32 code (R150). -/
def fnRsqrt (x : Num) : Nat :=
  match x with
  | .nan => fp32.nanCode
  | .inf n => if n then fp32.nanCode else 0
  | .fin n m e =>
    if m = 0 then fp32.encode true .nearest (.inf n)
    else if n then fp32.nanCode
    else
      -- 2^(2p)/a as an integer, p large enough for 40 bits of the root
      let p := 200
      let q := (2 ^ (2 * p) : Nat) / (Num.fin false m e).toRat
      let s := isqrt 400 (q.num.natAbs / q.den) 0
      withinUlps 1 false (Config.rsqrtCode (fp32.encode true .nearest x)) ((s : Rat) / (2 ^ p : Nat)) ((s + 1 : Rat) / (2 ^ p : Nat))

/-- The partial sum of the exponential series, and its last term, at a rational in [0, 1]. -/
def expSeries (x : Rat) : Nat → Rat × Rat
  | 0 => (1, 1)
  | n + 1 => let (s, t) := expSeries x n; let t' := t * x / (n + 1 : Nat); (s + t', t')

/-- q^(2^n). -/
def ratSquares (q : Rat) : Nat → Rat
  | 0 => q
  | n + 1 => ratSquares (q * q) n

/-- e^a as an FP32 code (R150): beyond the FP32 range +infinity, below the smallest subnormal +0. -/
def fnExp (x : Num) : Nat :=
  match x with
  | .nan => fp32.nanCode
  | .inf n => if n then 0 else 0x7F800000
  | .fin n m e =>
    let a := (Num.fin false m e).toRat
    if (128 : Rat) ≤ a then (if n then 0 else 0x7F800000)
    else
      let (s, t) := expSeries (a / 128) 18
      let lo := ratSquares s 7
      let hi := ratSquares (s + t) 7
      let (lo, hi) := if n then (1 / hi, 1 / lo) else (lo, hi)
      let near := fp32.encode false .nearest (ratNum false lo)
      if near = 0x7F800000 then near
      else if lo < (Num.fin false 1 (-149)).toRat then 0
      else withinUlps 2 false (Config.expCode (fp32.encode true .nearest x)) lo hi

/-- FP32 codes added two at a time, the two that pick names, each addition rounded to nearest even: any order of additions is the one of
some pick. Fuel bounds the steps. -/
def sumOrder (pick : Nat → Nat) : Nat → List Nat → Nat
  | 0, l => l.headD 0
  | k + 1, l =>
    if l.length ≤ 1 then l.headD 0
    else
      let i := pick (2 * k) % l.length
      let rest := l.eraseIdx i
      let j := pick (2 * k + 1) % rest.length
      sumOrder pick k (fp32Add (nth l i 0) (nth rest j 0) :: rest.eraseIdx j)

/-- FP32 codes added so that no partial sum is larger than it has to be: one of the sign opposite to the sum so far, while there is one. -/
def sumBalanced : Nat → Nat → List Nat → List Nat → Nat
  | 0, acc, _, _ => acc
  | k + 1, acc, pos, neg =>
    match pos, neg with
    | [], [] => acc
    | p :: ps, [] => sumBalanced k (fp32Add acc p) ps []
    | [], n :: ns => sumBalanced k (fp32Add acc n) [] ns
    | p :: ps, n :: ns => if acc < 2 ^ 31 then sumBalanced k (fp32Add acc n) (p :: ps) ns else sumBalanced k (fp32Add acc p) ps (n :: ns)

/-- Whether an FP32 code is finite. -/
def isFinite32 (c : Nat) : Bool := match fp32.decode c with | .fin .. => true | _ => false

/-- SUM as an FP32 code: the result of a free order of FP32 additions; of an order whose partial sums leave the FP32 range only where the
balanced order leaves it too, by the bound of R152 (DEDUCED, log 22). -/
def fnSum (pick : Nat → Nat) (xs : List Num) : Nat :=
  let codes := xs.map (fp32.encode true .nearest)
  let r := sumOrder pick xs.length codes
  let s := sumBalanced xs.length ((codes.filter (2 ^ 31 ≤ ·)).headD 0)
    (codes.filter (· < 2 ^ 31)) ((codes.filter (2 ^ 31 ≤ ·)).drop 1)
  if isFinite32 r || !isFinite32 s then r else s

/-! ## Combinations in memory (R160, R161) and lane sums (R191) -/

/-- The size in bytes of a DTYPE of Table 03-12. -/
def dtypeSize (t : Nat) : Nat := nth [4, 4, 8, 8, 4, 2, 2] t 1

/-- The float format of a DTYPE, if it is one. -/
def dtypeFloat (t : Nat) : Option FloatFmt :=
  match t with | 4 => some fp32 | 5 => some bf16 | 6 => some fp16 | _ => none

/-- One combination of AOP 0-6 on element codes: old at the target, new from the source. -/
def combine (aop dtype old new : Nat) : Nat :=
  let n := 8 * dtypeSize dtype
  match aop with
  | 3 => Nat.land old new
  | 4 => Nat.lor old new
  | 5 => Nat.xor old new
  | 6 => new % 2 ^ n
  | _ =>
    match dtypeFloat dtype with
    | some f =>
      let x := f.decode old
      let y := f.decode new
      f.encode false .nearest (match aop with | 0 => x.add y | 1 => x.minOf y | _ => x.maxOf y)
    | none =>
      let sgn := dtype % 2 = 1
      let less := if sgn then decide (signed n new < signed n old) else decide (new < old)
      match aop with
      | 0 => (old + new) % 2 ^ n
      | 1 => if less then new else old
      | _ => if less ∨ new = old then old else new

/-- Combines rows of elements (REDUCE): the elements of DTYPE in order. -/
def combineRow (aop dtype : Nat) (old new : List Byte) : List Byte :=
  let sz := dtypeSize dtype
  (List.range (new.length / sz)).flatMap fun i =>
    bytesLE (combine aop dtype (fieldLE old (i * sz) sz) (fieldLE new (i * sz) sz)) sz

/-- The lane sum of an ADD stage: FP32, or BF16 added in FP32 and rounded once (R191). -/
def laneAdd (bfloat : Bool) (a b : List Byte) : List Byte :=
  let f := if bfloat then bf16 else fp32
  let sz := if bfloat then 2 else 4
  (List.range (a.length / sz)).flatMap fun i =>
    bytesLE (f.encode false .nearest ((f.decode (fieldLE a (i * sz) sz)).add (f.decode (fieldLE b (i * sz) sz)))) sz

end Sys2Proof.Machine
end

