-- ==== Sys2Proof/Machine/Regs.lean ====
section
/-! DEFINITION. The register map of the MJ20: one name per register word of the spec's register tables (spec/02, 03, 05-08,
10-14), with its management address (R27, R28), its index dimensions and its fields (bits, access code of Table 00-4, reset
value). Written out from the spec's own tables. -/

namespace Sys2Proof.Machine

/-- The access codes of Table 00-4 (R10). -/
inductive Access where
  | ro | rw | wo | w1c | w1s | rc
  deriving DecidableEq, Repr

/-- One field of a register: its lowest bit, its width, its access code and its reset value. -/
structure Field where
  lo : Nat
  width : Nat
  access : Access
  reset : Nat
  deriving DecidableEq, Repr

/-- The register words of the device, by the names of the spec's register tables. A word of a register that the spec lays out
over several words carries the word's number in its name (SLOT_ENTRY0 ... SLOT_ENTRY3). -/
inductive RegName where
  -- CLK: 02_beat_and_clocks.md, CLK registers
  | BEAT_CTRL
  | BEAT_STATUS
  | BEAT_NOW_LO
  | BEAT_NOW_HI
  | BEAT_LOAD_LO
  | BEAT_LOAD_HI
  | CLK_ERR
  | REF_LOSS_CNT
  | SYNC_MISMATCH_CNT
  | SYNC_LAST_OFFSET
  | HALF_OPP
  | HALF_STATUS
  | HALF_CHANGE_BEAT_LO
  | HALF_CHANGE_BEAT_HI
  | HALF_THROTTLE
  | OPP_ENTRY
  | REGION_CLK_CTRL
  | REGION_CLK_STATUS
  | REGION_STRETCH_LO
  | REGION_STRETCH_HI
  | REGION_STRETCH_SAT
  -- TILE: 03/05/06/14, tile CSR window (R28, R132)
  | TILE_ID
  | TILE_CTRL
  | TILE_STATUS
  | TILE_BOOT
  | EVENT_POST
  | WAIT_STATE
  | WAIT_TARGET_LO
  | WAIT_TARGET_HI
  | WAIT_START_LO
  | WAIT_START_HI
  | SLOT_STATUS
  | TILE_SLOT_STALL
  | STRAY_REPLY
  | RESET_DROP
  | FAULT_LOST
  | SRAM_APERTURE
  | QUEUE_STATUS
  | QUEUE_ERR
  | AC
  | CC
  | GREG_LO
  | GREG_HI
  | RTR_CTRL
  | RTR_STATUS
  | RTR_ERR
  | SCHED_START_LO
  | SCHED_START_HI
  | RTR_TAP
  | RTR_FWD
  | PORT_FLITS_LO
  | PORT_FLITS_HI
  | PORT_SCHED_FLITS
  | PORT_CREDIT_STALL
  | PORT_SLIP
  | PORT_LATE_FRAMES
  | PORT_GUARD_WAIT
  | RPORT_MALFORMED
  | PORT_ESC_PKTS
  | PORT_ECC
  | PORT_BUF
  | TAP_STATUS
  | TAP_CRC
  | TAP_REPLAY
  | SCHED_SLOT
  | FLOW_SRC
  | FLOW_LEN
  | FLOW_RING
  | FLOW_PTR
  | FLOW_AC
  | FLOW_TARGET
  | FLOW_SENT
  | FLOW_SKIP
  | SINK_DST
  | SINK_RING
  | SINK_PTR
  | SINK_CTR
  | SINK_LEN
  | SINK_RECV
  | SINK_DROP
  | MAP
  | ROUTE
  | LOFT_CTRL
  | LOFT_STATUS
  | LOFT_ERR
  | LOFT_INV
  | LOFT_CACHE_BASE_LO
  | LOFT_CACHE_BASE_HI
  | LOFT_CACHE_LEN_LO
  | LOFT_CACHE_LEN_HI
  | LOFT_ECC
  | LOFT_POISON_ADDR
  | LOFT_COIL_CRC
  | LOFT_COIL_REPLAY
  | LOFT_CACHE_HIT
  | LOFT_CACHE_MISS
  | LOFT_READ_BYTES_LO
  | LOFT_READ_BYTES_HI
  | LOFT_WRITE_BYTES_LO
  | LOFT_WRITE_BYTES_HI
  | TRC_TILE_CTRL
  | TRC_TILE_STATUS
  | TRC_DROP
  | TRC_TILE_ERR
  | TRC_LOCAL_BASE
  | TRC_LOCAL_LEN
  | TRC_UTIL_LO
  | TRC_UTIL_HI
  | SLOT_ENTRY0
  | SLOT_ENTRY1
  | SLOT_ENTRY2
  | SLOT_ENTRY3
  | TRC_BUFFER
  -- BARN: 05/06, barn-level registers (R28)
  | RT_CTRL
  | RT_STATUS
  | RT_PARENT
  | RT_MAP
  | STACK_CAP
  | STACK_POWER
  | STACK_POWER_MAX
  | STACK_CAP_EVT
  | STACK_ERR
  | STACK_SVC
  -- HBM: 06, HBM controller registers
  | HBM_CTRL
  | HBM_STATUS
  | HBM_ERR
  | HBM_ECC_CORR_LO
  | HBM_ECC_CORR_HI
  | HBM_ECC_UNCORR
  | HBM_ECC_LAST_LO
  | HBM_ECC_LAST_HI
  | HBM_UE_LIMIT
  | HBM_SCRUB
  | HBM_TEMP
  | HBM_PPR
  | HBM_READ_BYTES_LO
  | HBM_READ_BYTES_HI
  | HBM_WRITE_BYTES_LO
  | HBM_WRITE_BYTES_HI
  | HBM_WP0
  | HBM_WP1
  | HBM_WP2
  | HBM_WP3
  | TRK_CTRL
  | TRK_TIME
  | TRK_REGION0
  | TRK_REGION1
  | TRK_REGION2
  | TRK_REGION3
  | TRK_HIT
  | TRK_MISS
  | TRK_PF_LINES
  | TRK_PF_UNUSED
  | TRK_STEAL
  | TRK_STATUS
  -- WIN: 06, window registers
  | WIN_MASK
  | WIN_IN_FORCE
  | WIN_APPLY_LO
  | WIN_APPLY_HI
  | WIN_CTRL
  | WIN_ERR
  -- LANE: 07, LANE registers
  | WG_INFO
  | WG_CTRL
  | WG_STATUS
  | WG_ROT
  | WG_EVT
  | WG_CRC
  | WG_REPLAY
  | WG_STATUS2
  | RING_TX
  | RING_RX
  | LANE_CTRL
  | LANE_THRESH
  | LANE_LINKDOWN
  | LANE_TOTAL
  | LANE_LOCKLOSS_LO
  | LANE_LOCKLOSS_HI
  | LANE_ERR
  -- LANT: 07, LANT registers
  | LANT_CTRL
  | LANT_APC
  | LANT_THRESH
  | LANT_ERR
  | MOD_STATUS
  | MOD_CTRL
  | MOD_EVT
  | FEED
  | FEED_SEL
  | LANT_I2C
  | LANT_I2C_DATA
  -- YARD: 08, YARD registers
  | YARD_CTRL
  | YARD_ID
  | YARD_STATUS
  | YARD_TIMING
  | YARD_LEDGER
  | YARD_HB
  | YARD_JOIN
  | YARD_ERR
  | GATE_STACK_SVC
  | YLINK_CTRL
  | YLINK_STATUS
  | YLINK_FEC_CORR
  | YLINK_FEC_UNCORR
  | YLINK_REPLAY
  | YLINK_CH_DROP
  | YLINK_FLITS_LO
  | YLINK_FLITS_HI
  | PEER_STATUS
  | PEER_HB_LO
  | PEER_HB_HI
  | MCAST_GROUP
  | YSCHED_CTRL
  | YSCHED_START_LO
  | YSCHED_START_HI
  | YSCHED
  -- PORT: 08, PORT registers
  | PORT_CTRL
  | PORT_STATUS
  | PORT_RESET_BEAT_LO
  | PORT_RESET_BEAT_HI
  | TAG_STALL
  | LEDGER_HIT
  | LEDGER_UNKNOWN
  | RETRY_APPLIED
  | LEDGER_EXPIRED
  | LEDGER_HOLD_BEATS
  | PORT_MALFORMED
  | SRC_CREDIT_STALL
  | HOT
  | HOT_ADDR_LO
  | HOT_ADDR_HI
  | HOT_THRESH
  | PORT_LOSS0
  | PORT_LOSS1
  | PORT_LOSS2
  | PORT_LOSS3
  -- ETH: 10, ETH registers
  | ETH_CTRL
  | ETH_STATUS
  | ETH_VLAN
  | ETH_MTU
  | ETH_PFC
  | ETH_CC
  | ETH_IP4
  | ETH_GW4
  | ETH_PREFIX
  | ETH_IP6
  | ETH_GW6
  | ETH_RX_FRAMES_LO
  | ETH_RX_FRAMES_HI
  | ETH_TX_FRAMES_LO
  | ETH_TX_FRAMES_HI
  | ETH_FEC_CORR
  | ETH_FEC_UNCORR
  | ETH_DROPS
  | ETH_PFC_CNT
  | ETH_CNP_CNT
  | ETH_CNP_ICRC
  | ETH_LEASE
  | ETH_ADOPT
  | ETH_RDMA_ERR
  | ETH_ERR
  | ETH_SESSION_LOST
  | HEAD_ERR
  | OWNER_ADDR
  | OWNER_CTL
  -- PWR: 11, PWR registers
  | PWR_CTRL
  | PWR_STATUS
  | PWR_THR
  | PWR_PKG
  | PWR_DIODE_CFG
  | PWR_COOL
  | PWR_COOL_T
  | PWR_PKG_POWER
  | PWR_PKG_MAX
  | PWR_PKG_OVER
  | PWR_ERR
  | RAIL_V
  | RAIL_I
  | RAIL_P
  | RAIL_STATUS
  | RAIL_FAULTS
  | RAIL_ENERGY_LO
  | RAIL_ENERGY_HI
  | HALF_THERMAL0
  | HALF_THERMAL1
  | HALF_THERMAL2
  | NODE_T
  | DIODE0
  | DIODE1
  -- CAL: 11, CAL registers
  | CAL_CTRL
  | CAL_STATUS
  | CAL_APPLY_LO
  | CAL_APPLY_HI
  | CAL_IN_FORCE_LO
  | CAL_IN_FORCE_HI
  | CAL_ERR
  | CAL_RESULT0
  | CAL_RESULT1
  | CAL_RESULT2
  | CAL_RESULT3
  -- TACK: 12, TACK registers
  | TACK_STATUS
  | TACK_ID
  | TACK_IMAGE_SEQ_LO
  | TACK_IMAGE_SEQ_HI
  | TACK_FW_VERSION
  | TACK_CONFIG
  | TACK_CTRL
  | TACK_SIGN_STATUS
  | TACK_ERR
  | TACK_SIGN_HASH
  | TACK_SIGN_OUT
  | TACK_PHASE_BEAT_LO
  | TACK_PHASE_BEAT_HI
  -- RM: 13, RM registers
  | RM_CTRL
  | RM_STATUS
  | RM_KICK
  | RM_TIMING
  | RM_CAROUSEL
  | RM_CONFIRM
  | RM_SWAP_NONCE
  | RM_SWAP_CHECK
  | RM_EVT
  | RM_SWAPS
  | RM_ERR
  | RM_DECODE_LO
  | RM_DECODE_HI
  | RM_DECODE_CNT
  | RM_ABORT_LO
  | RM_ABORT_HI
  | RM_UPDATE
  | RM_FW_VERSION
  | RM_LOSS0
  | RM_LOSS1
  | RM_LOSS2
  | RM_LOSS3
  | RM_LOSS_LOST
  | RM_HANDOFF
  -- FAR: 13, FAR registers
  | FAR_CTRL
  | FAR_PERIOD
  | FAR_STATUS
  | FAR_EVT
  | FAR_MOVE_LAST
  | FAR_MOVE_BEATS
  | FAR_ERR
  | FAR_LIMITS
  | FAR_BARN
  | FAR_SITE
  | FAR_TAP
  -- TRC: 14, TRC registers
  | RST_CTRL
  | RST_BASE_LO
  | RST_BASE_HI
  | RST_SEG
  | RST_INTERVAL
  | RST_STATUS
  | RST_CHUNKS_LO
  | RST_CHUNKS_HI
  | RST_DROP
  | RST_ERR
  | TRC_HANG_CTRL
  | TRC_HANG_CONFIRM
  | TRC_HANG_MAP
  | TRC_SNAP_BASE_LO
  | TRC_SNAP_BASE_HI
  | TRC_SNAP_BYTES
  -- BRK: 14, BRK registers
  | BRK_CTRL
  | BRK_CLAIM
  | BRK_CLAIMED
  | BRK_COMPLETE
  | BRK_STATUS
  | BRK_STRAY
  | BRK_STRAY_LAST
  | BRK_PENDING
  | BRK_SET
  | BRK_ENABLE
  | BRK_INSERVICE
  | BRK_RAISED
  deriving DecidableEq, Repr

/-! The fields, named REGISTER_FIELD. -/
namespace Fld
def BEAT_CTRL_SYNC_EN : Field := ⟨0, 1, .rw, 0⟩
def BEAT_CTRL_LOAD_ARM : Field := ⟨1, 1, .w1s, 0⟩
def BEAT_CTRL_HOLDOVER_FORCE : Field := ⟨2, 1, .rw, 0⟩
def BEAT_STATUS_REF_OK : Field := ⟨0, 1, .ro, 0⟩
def BEAT_STATUS_HOLDOVER : Field := ⟨1, 1, .ro, 0⟩
def BEAT_STATUS_REF_QUAL : Field := ⟨2, 1, .ro, 0⟩
def BEAT_STATUS_SYNC_LOCKED : Field := ⟨3, 1, .ro, 0⟩
def BEAT_STATUS_HOLD_ACTIVE : Field := ⟨4, 1, .ro, 0⟩
def BEAT_NOW_LO_BEAT : Field := ⟨0, 32, .ro, 0⟩
def BEAT_NOW_HI_BEAT : Field := ⟨0, 32, .ro, 0⟩
def BEAT_LOAD_LO_LOAD : Field := ⟨20, 12, .rw, 0⟩
def BEAT_LOAD_HI_LOAD : Field := ⟨0, 32, .rw, 0⟩
def CLK_ERR_BOUNDS : Field := ⟨0, 8, .rc, 0⟩
def CLK_ERR_BUSY_REJ : Field := ⟨8, 8, .rc, 0⟩
def CLK_ERR_LATE : Field := ⟨16, 8, .rc, 0⟩
def CLK_ERR_PLL_LOSS : Field := ⟨24, 8, .rc, 0⟩
def REF_LOSS_CNT_CNT : Field := ⟨0, 32, .rc, 0⟩
def SYNC_MISMATCH_CNT_CNT : Field := ⟨0, 32, .rc, 0⟩
def SYNC_LAST_OFFSET_OFFSET : Field := ⟨0, 32, .ro, 0⟩
def HALF_OPP_CUR : Field := ⟨0, 3, .ro, 2⟩
def HALF_OPP_NEXT : Field := ⟨8, 3, .rw, 2⟩
def HALF_OPP_COMMIT : Field := ⟨16, 1, .wo, 0⟩
def HALF_STATUS_BUSY : Field := ⟨0, 1, .ro, 0⟩
def HALF_STATUS_PLL_A_LOCK : Field := ⟨1, 1, .ro, 0⟩
def HALF_STATUS_PLL_B_LOCK : Field := ⟨2, 1, .ro, 0⟩
def HALF_STATUS_DRIVING : Field := ⟨3, 1, .ro, 0⟩
def HALF_STATUS_LATE : Field := ⟨4, 1, .ro, 0⟩
def HALF_STATUS_VOLT_OK : Field := ⟨5, 1, .ro, 0⟩
def HALF_CHANGE_BEAT_LO_BEAT : Field := ⟨0, 32, .rw, 0⟩
def HALF_CHANGE_BEAT_HI_BEAT : Field := ⟨0, 32, .rw, 0⟩
def HALF_THROTTLE_SKIP : Field := ⟨0, 6, .ro, 0⟩
def HALF_THROTTLE_SKIP_MAX : Field := ⟨16, 6, .rw, 48⟩
def OPP_ENTRY_FREQ_MHZ : Field := ⟨0, 11, .rw, 0⟩
def OPP_ENTRY_VOLT_MV : Field := ⟨16, 10, .rw, 0⟩
def OPP_ENTRY_VALID : Field := ⟨31, 1, .rw, 1⟩
def REGION_CLK_CTRL_GATE : Field := ⟨0, 1, .rw, 0⟩
def REGION_CLK_CTRL_STRETCH_EN : Field := ⟨1, 1, .rw, 1⟩
def REGION_CLK_CTRL_STRETCH_MAX : Field := ⟨12, 4, .rw, 4⟩
def REGION_CLK_STATUS_RUNNING : Field := ⟨0, 1, .ro, 0⟩
def REGION_CLK_STATUS_STOP_CAUSE : Field := ⟨1, 3, .ro, 0⟩
def REGION_CLK_STATUS_STRETCHING : Field := ⟨4, 1, .ro, 0⟩
def REGION_STRETCH_LO_STRETCH : Field := ⟨0, 32, .ro, 0⟩
def REGION_STRETCH_HI_STRETCH : Field := ⟨0, 32, .ro, 0⟩
def REGION_STRETCH_SAT_SAT : Field := ⟨0, 32, .rc, 0⟩
def TILE_ID_X : Field := ⟨0, 5, .ro, 0⟩
def TILE_ID_Y : Field := ⟨5, 5, .ro, 0⟩
def TILE_ID_LOGICAL : Field := ⟨10, 10, .ro, 0⟩
def TILE_ID_MAPPED : Field := ⟨20, 1, .ro, 0⟩
def TILE_ID_SPARE : Field := ⟨21, 1, .ro, 0⟩
def TILE_CTRL_RESET : Field := ⟨0, 1, .rw, 1⟩
def TILE_CTRL_RUN : Field := ⟨1, 1, .rw, 0⟩
def TILE_CTRL_CLEAR : Field := ⟨2, 1, .rw, 0⟩
def TILE_CTRL_REMAP_POST : Field := ⟨3, 1, .w1s, 0⟩
def TILE_STATUS_HALTED : Field := ⟨0, 1, .ro, 1⟩
def TILE_STATUS_HALT_CAUSE : Field := ⟨1, 3, .ro, 0⟩
def TILE_STATUS_WAITING : Field := ⟨4, 1, .ro, 0⟩
def TILE_STATUS_QUIESCENT : Field := ⟨5, 1, .ro, 1⟩
def TILE_STATUS_IN_EXC : Field := ⟨6, 1, .ro, 0⟩
def TILE_STATUS_SINCE_YIELD : Field := ⟨7, 25, .ro, 0⟩
def TILE_BOOT_PC : Field := ⟨2, 19, .rw, 0⟩
def EVENT_POST_PENDING : Field := ⟨0, 4, .w1s, 0⟩
def WAIT_STATE_KIND : Field := ⟨0, 3, .ro, 0⟩
def WAIT_STATE_INDEX : Field := ⟨3, 5, .ro, 0⟩
def WAIT_TARGET_LO_TARGET : Field := ⟨0, 32, .ro, 0⟩
def WAIT_TARGET_HI_TARGET : Field := ⟨0, 32, .ro, 0⟩
def WAIT_START_LO_START : Field := ⟨0, 32, .ro, 0⟩
def WAIT_START_HI_START : Field := ⟨0, 32, .ro, 0⟩
def SLOT_STATUS_SLOTS : Field := ⟨0, 7, .ro, 0⟩
def SLOT_STATUS_HIGH : Field := ⟨8, 7, .rc, 0⟩
def TILE_SLOT_STALL_STALL : Field := ⟨0, 32, .rc, 0⟩
def STRAY_REPLY_STRAY : Field := ⟨0, 32, .rc, 0⟩
def RESET_DROP_DROP : Field := ⟨0, 32, .rc, 0⟩
def FAULT_LOST_LOST : Field := ⟨0, 32, .rc, 0⟩
def SRAM_APERTURE_BASE : Field := ⟨0, 2, .rw, 0⟩
def QUEUE_STATUS_OCCUPANCY : Field := ⟨0, 7, .ro, 0⟩
def QUEUE_STATUS_BUSY : Field := ⟨7, 1, .ro, 0⟩
def QUEUE_STATUS_DEPTH : Field := ⟨8, 8, .ro, 0⟩
def QUEUE_ERR_MALFORMED : Field := ⟨0, 8, .rc, 0⟩
def QUEUE_ERR_DENIED : Field := ⟨8, 8, .rc, 0⟩
def QUEUE_ERR_BOUNDS : Field := ⟨16, 8, .rc, 0⟩
def QUEUE_ERR_OTHER : Field := ⟨24, 8, .rc, 0⟩
def AC_VALUE : Field := ⟨0, 32, .rw, 0⟩
def CC_VALUE : Field := ⟨0, 32, .rw, 0⟩
def GREG_LO_G : Field := ⟨0, 32, .rw, 0⟩
def GREG_HI_G : Field := ⟨0, 32, .rw, 0⟩
def RTR_CTRL_ROUTER_ONLY : Field := ⟨0, 1, .ro, 0⟩
def RTR_CTRL_SCHED_EN : Field := ⟨1, 1, .rw, 0⟩
def RTR_CTRL_GUARD : Field := ⟨2, 4, .rw, 2⟩
def RTR_CTRL_AGE_MAX : Field := ⟨16, 10, .rw, 512⟩
def RTR_STATUS_LATE : Field := ⟨0, 4, .ro, 0⟩
def RTR_STATUS_SCHED_ACTIVE : Field := ⟨4, 1, .ro, 0⟩
def RTR_STATUS_FWD_ACTIVE : Field := ⟨5, 1, .ro, 0⟩
def RTR_ERR_BOUNDS : Field := ⟨0, 8, .rc, 0⟩
def RTR_ERR_MALFORMED : Field := ⟨8, 8, .rc, 0⟩
def RTR_ERR_BUSY_REJ : Field := ⟨16, 8, .rc, 0⟩
def RTR_ERR_LANE_MISMATCH : Field := ⟨24, 8, .rc, 0⟩
def SCHED_START_LO_START : Field := ⟨0, 32, .rw, 0⟩
def SCHED_START_HI_START : Field := ⟨0, 32, .rw, 0⟩
def RTR_TAP_TAP_SITE : Field := ⟨0, 10, .rw, 0⟩
def RTR_FWD_SITE : Field := ⟨0, 10, .rw, 0⟩
def RTR_FWD_EN : Field := ⟨31, 1, .rw, 0⟩
def PORT_FLITS_LO_FLITS : Field := ⟨0, 32, .ro, 0⟩
def PORT_FLITS_HI_FLITS : Field := ⟨0, 32, .ro, 0⟩
def PORT_SCHED_FLITS_CNT : Field := ⟨0, 32, .rc, 0⟩
def PORT_CREDIT_STALL_CNT : Field := ⟨0, 32, .rc, 0⟩
def PORT_SLIP_CNT : Field := ⟨0, 32, .rc, 0⟩
def PORT_LATE_FRAMES_CNT : Field := ⟨0, 32, .rc, 0⟩
def PORT_GUARD_WAIT_CNT : Field := ⟨0, 32, .rc, 0⟩
def RPORT_MALFORMED_CNT : Field := ⟨0, 32, .rc, 0⟩
def PORT_ESC_PKTS_CNT : Field := ⟨0, 32, .rc, 0⟩
def PORT_ECC_CORR : Field := ⟨0, 16, .rc, 0⟩
def PORT_ECC_UNCORR : Field := ⟨16, 16, .rc, 0⟩
def PORT_BUF_VN0 : Field := ⟨0, 5, .ro, 0⟩
def PORT_BUF_VN1 : Field := ⟨5, 5, .ro, 0⟩
def PORT_BUF_VN2 : Field := ⟨10, 5, .ro, 0⟩
def PORT_BUF_VN3 : Field := ⟨15, 5, .ro, 0⟩
def PORT_BUF_ESC : Field := ⟨20, 6, .ro, 0⟩
def PORT_BUF_SCHED : Field := ⟨26, 4, .ro, 0⟩
def TAP_STATUS_IN_SERVICE : Field := ⟨0, 5, .ro, 0⟩
def TAP_STATUS_RETIRED_LIVE : Field := ⟨5, 5, .ro, 0⟩
def TAP_CRC_CRC : Field := ⟨0, 32, .rc, 0⟩
def TAP_REPLAY_REPLAY : Field := ⟨0, 32, .rc, 0⟩
def SCHED_SLOT_N_SEL : Field := ⟨0, 3, .rw, 0⟩
def SCHED_SLOT_N_ADD : Field := ⟨3, 1, .rw, 0⟩
def SCHED_SLOT_E_SEL : Field := ⟨4, 3, .rw, 0⟩
def SCHED_SLOT_E_ADD : Field := ⟨7, 1, .rw, 0⟩
def SCHED_SLOT_S_SEL : Field := ⟨8, 3, .rw, 0⟩
def SCHED_SLOT_S_ADD : Field := ⟨11, 1, .rw, 0⟩
def SCHED_SLOT_W_SEL : Field := ⟨12, 3, .rw, 0⟩
def SCHED_SLOT_W_ADD : Field := ⟨15, 1, .rw, 0⟩
def SCHED_SLOT_SINK_SEL : Field := ⟨16, 3, .rw, 0⟩
def SCHED_SLOT_SINK_ADD : Field := ⟨19, 1, .rw, 0⟩
def SCHED_SLOT_SINK : Field := ⟨20, 5, .rw, 0⟩
def SCHED_SLOT_FLOW : Field := ⟨25, 5, .rw, 0⟩
def SCHED_SLOT_CONT : Field := ⟨30, 1, .rw, 0⟩
def FLOW_SRC_SRC : Field := ⟨0, 21, .rw, 0⟩
def FLOW_LEN_LEN : Field := ⟨0, 11, .rw, 0⟩
def FLOW_LEN_FMT : Field := ⟨12, 4, .rw, 0⟩
def FLOW_RING_RING : Field := ⟨0, 22, .rw, 0⟩
def FLOW_PTR_PTR : Field := ⟨0, 22, .ro, 0⟩
def FLOW_AC_AC : Field := ⟨0, 5, .rw, 0⟩
def FLOW_AC_READY_EN : Field := ⟨5, 1, .rw, 0⟩
def FLOW_AC_ENABLE : Field := ⟨6, 1, .rw, 0⟩
def FLOW_TARGET_TARGET : Field := ⟨0, 32, .rw, 0⟩
def FLOW_SENT_SENT : Field := ⟨0, 32, .rc, 0⟩
def FLOW_SKIP_SKIP : Field := ⟨0, 32, .rc, 0⟩
def SINK_DST_DST : Field := ⟨0, 21, .rw, 0⟩
def SINK_RING_RING : Field := ⟨0, 22, .rw, 0⟩
def SINK_PTR_PTR : Field := ⟨0, 22, .ro, 0⟩
def SINK_CTR_ACTR : Field := ⟨0, 5, .rw, 0⟩
def SINK_CTR_ACT_EN : Field := ⟨5, 1, .rw, 0⟩
def SINK_CTR_ENABLE : Field := ⟨6, 1, .rw, 0⟩
def SINK_LEN_LEN : Field := ⟨0, 11, .rw, 0⟩
def SINK_RECV_RECV : Field := ⟨0, 32, .rc, 0⟩
def SINK_DROP_SINK_DROP : Field := ⟨0, 32, .rc, 0⟩
def MAP_SITE : Field := ⟨0, 10, .rw, 0⟩
def MAP_VALID : Field := ⟨31, 1, .rw, 0⟩
def ROUTE_TREE_PORT : Field := ⟨0, 3, .rw, 0⟩
def ROUTE_MODE : Field := ⟨3, 1, .rw, 0⟩
def LOFT_CTRL_MODE : Field := ⟨0, 1, .rw, 0⟩
def LOFT_CTRL_CACHE_MIB : Field := ⟨1, 5, .rw, 0⟩
def LOFT_CTRL_SCRUB_EN : Field := ⟨6, 1, .rw, 1⟩
def LOFT_STATUS_COIL_FAILED : Field := ⟨0, 4, .ro, 0⟩
def LOFT_STATUS_CACHE_ACTIVE : Field := ⟨4, 1, .ro, 0⟩
def LOFT_STATUS_INV_BUSY : Field := ⟨5, 1, .ro, 0⟩
def LOFT_ERR_BOUNDS : Field := ⟨0, 8, .rc, 0⟩
def LOFT_ERR_MALFORMED : Field := ⟨8, 8, .rc, 0⟩
def LOFT_ERR_BUSY_REJ : Field := ⟨16, 8, .rc, 0⟩
def LOFT_ERR_POISON : Field := ⟨24, 8, .rc, 0⟩
def LOFT_INV_INV : Field := ⟨0, 1, .wo, 0⟩
def LOFT_CACHE_BASE_LO_BASE : Field := ⟨10, 22, .rw, 0⟩
def LOFT_CACHE_BASE_HI_BASE : Field := ⟨0, 32, .rw, 0⟩
def LOFT_CACHE_LEN_LO_LEN : Field := ⟨10, 22, .rw, 0⟩
def LOFT_CACHE_LEN_HI_LEN : Field := ⟨0, 32, .rw, 0⟩
def LOFT_ECC_CORR : Field := ⟨0, 16, .rc, 0⟩
def LOFT_ECC_UNCORR : Field := ⟨16, 16, .rc, 0⟩
def LOFT_POISON_ADDR_OFFSET : Field := ⟨0, 24, .ro, 0⟩
def LOFT_COIL_CRC_L0 : Field := ⟨0, 8, .rc, 0⟩
def LOFT_COIL_CRC_L1 : Field := ⟨8, 8, .rc, 0⟩
def LOFT_COIL_CRC_L2 : Field := ⟨16, 8, .rc, 0⟩
def LOFT_COIL_CRC_L3 : Field := ⟨24, 8, .rc, 0⟩
def LOFT_COIL_REPLAY_REPLAY : Field := ⟨0, 32, .rc, 0⟩
def LOFT_CACHE_HIT_HIT : Field := ⟨0, 32, .rc, 0⟩
def LOFT_CACHE_MISS_MISS : Field := ⟨0, 32, .rc, 0⟩
def LOFT_READ_BYTES_LO_BYTES : Field := ⟨0, 32, .ro, 0⟩
def LOFT_READ_BYTES_HI_BYTES : Field := ⟨0, 32, .ro, 0⟩
def LOFT_WRITE_BYTES_LO_BYTES : Field := ⟨0, 32, .ro, 0⟩
def LOFT_WRITE_BYTES_HI_BYTES : Field := ⟨0, 32, .ro, 0⟩
def TRC_TILE_CTRL_MODE : Field := ⟨0, 2, .rw, 0⟩
def TRC_TILE_CTRL_KIND_MASK : Field := ⟨2, 9, .rw, 511⟩
def TRC_TILE_CTRL_QUEUE_MASK : Field := ⟨11, 6, .rw, 63⟩
def TRC_TILE_STATUS_HELD : Field := ⟨0, 11, .ro, 0⟩
def TRC_TILE_STATUS_DROPPING : Field := ⟨11, 1, .ro, 0⟩
def TRC_TILE_STATUS_OLDEST : Field := ⟨16, 10, .ro, 0⟩
def TRC_DROP_DROP : Field := ⟨0, 32, .rc, 0⟩
def TRC_TILE_ERR_MALFORMED : Field := ⟨0, 8, .rc, 0⟩
def TRC_TILE_ERR_BOUNDS : Field := ⟨8, 8, .rc, 0⟩
def TRC_TILE_ERR_BUSY_REJ : Field := ⟨16, 8, .rc, 0⟩
def TRC_LOCAL_BASE_BASE : Field := ⟨0, 21, .rw, 0⟩
def TRC_LOCAL_LEN_LEN : Field := ⟨0, 22, .rw, 0⟩
def TRC_UTIL_LO_COUNT : Field := ⟨0, 32, .ro, 0⟩
def TRC_UTIL_HI_COUNT : Field := ⟨0, 32, .ro, 0⟩
def SLOT_ENTRY0_ADDR : Field := ⟨0, 32, .ro, 0⟩
def SLOT_ENTRY1_ADDR : Field := ⟨0, 32, .ro, 0⟩
def SLOT_ENTRY2_VALID : Field := ⟨0, 1, .ro, 0⟩
def SLOT_ENTRY2_TYPE : Field := ⟨1, 4, .ro, 0⟩
def SLOT_ENTRY2_ATTEMPTS : Field := ⟨5, 5, .ro, 0⟩
def SLOT_ENTRY2_MARKED : Field := ⟨10, 1, .ro, 0⟩
def SLOT_ENTRY3_ISSUE : Field := ⟨0, 32, .ro, 0⟩
def TRC_BUFFER_RECORD : Field := ⟨0, 32, .ro, 0⟩
def RT_CTRL_LOAD : Field := ⟨0, 1, .w1s, 0⟩
def RT_STATUS_BUSY : Field := ⟨0, 1, .ro, 0⟩
def RT_STATUS_DONE : Field := ⟨1, 1, .ro, 0⟩
def RT_STATUS_NO_ROOT : Field := ⟨2, 1, .ro, 0⟩
def RT_STATUS_REJ : Field := ⟨8, 8, .rc, 0⟩
def RT_PARENT_PARENT : Field := ⟨0, 10, .rw, 0⟩
def RT_PARENT_IN_SERVICE : Field := ⟨31, 1, .rw, 0⟩
def RT_MAP_SITE : Field := ⟨0, 10, .rw, 0⟩
def RT_MAP_VALID : Field := ⟨31, 1, .rw, 0⟩
def STACK_CAP_CAP_W : Field := ⟨0, 10, .rw, 520⟩
def STACK_CAP_STEP_W : Field := ⟨16, 6, .rw, 8⟩
def STACK_CAP_HYST_W : Field := ⟨24, 6, .rw, 16⟩
def STACK_POWER_POWER : Field := ⟨0, 16, .ro, 0⟩
def STACK_POWER_CAP_SKIP : Field := ⟨16, 6, .ro, 0⟩
def STACK_POWER_MAX_MAX : Field := ⟨0, 16, .rc, 0⟩
def STACK_CAP_EVT_OVER : Field := ⟨0, 16, .rc, 0⟩
def STACK_CAP_EVT_CAP_SAT : Field := ⟨16, 16, .rc, 0⟩
def STACK_ERR_BOUNDS : Field := ⟨0, 8, .rc, 0⟩
def STACK_ERR_MALFORMED : Field := ⟨8, 8, .rc, 0⟩
def STACK_SVC_SVC : Field := ⟨0, 20, .rw, 0xFFFFF⟩
def HBM_CTRL_ACCEPT : Field := ⟨0, 1, .rw, 0⟩
def HBM_CTRL_TRACK_EN : Field := ⟨1, 1, .rw, 1⟩
def HBM_CTRL_SCRUB_EN : Field := ⟨2, 1, .rw, 1⟩
def HBM_CTRL_RETIRE : Field := ⟨3, 1, .w1s, 0⟩
def HBM_STATUS_TRAINED : Field := ⟨0, 1, .ro, 0⟩
def HBM_STATUS_RETIRED : Field := ⟨1, 1, .ro, 0⟩
def HBM_STATUS_HOT : Field := ⟨2, 1, .ro, 0⟩
def HBM_STATUS_LIMITING : Field := ⟨3, 1, .ro, 0⟩
def HBM_STATUS_DISAGREE : Field := ⟨4, 1, .ro, 0⟩
def HBM_STATUS_OUTSTANDING : Field := ⟨16, 12, .ro, 0⟩
def HBM_ERR_BOUNDS : Field := ⟨0, 8, .rc, 0⟩
def HBM_ERR_DENIED : Field := ⟨8, 8, .rc, 0⟩
def HBM_ERR_REG_REJ : Field := ⟨16, 8, .rc, 0⟩
def HBM_ERR_POISON : Field := ⟨24, 8, .rc, 0⟩
def HBM_ECC_CORR_LO_CORR : Field := ⟨0, 32, .ro, 0⟩
def HBM_ECC_CORR_HI_CORR : Field := ⟨0, 32, .ro, 0⟩
def HBM_ECC_UNCORR_UNCORR : Field := ⟨0, 32, .rc, 0⟩
def HBM_ECC_LAST_LO_ADDR : Field := ⟨0, 32, .ro, 0⟩
def HBM_ECC_LAST_HI_ADDR : Field := ⟨0, 5, .ro, 0⟩
def HBM_UE_LIMIT_LIMIT : Field := ⟨0, 8, .rw, 8⟩
def HBM_SCRUB_PERIOD : Field := ⟨0, 24, .rw, 0x20000⟩
def HBM_TEMP_MODEL : Field := ⟨0, 8, .ro, 0⟩
def HBM_TEMP_STACK : Field := ⟨8, 8, .ro, 0⟩
def HBM_TEMP_USED : Field := ⟨16, 8, .ro, 0⟩
def HBM_PPR_SOFT : Field := ⟨0, 16, .rc, 0⟩
def HBM_PPR_HARD_PENDING : Field := ⟨16, 8, .ro, 0⟩
def HBM_READ_BYTES_LO_BYTES : Field := ⟨0, 32, .ro, 0⟩
def HBM_READ_BYTES_HI_BYTES : Field := ⟨0, 32, .ro, 0⟩
def HBM_WRITE_BYTES_LO_BYTES : Field := ⟨0, 32, .ro, 0⟩
def HBM_WRITE_BYTES_HI_BYTES : Field := ⟨0, 32, .ro, 0⟩
def HBM_WP0_EN : Field := ⟨0, 1, .rw, 0⟩
def HBM_WP0_BASE : Field := ⟨10, 22, .rw, 0⟩
def HBM_WP1_BASE : Field := ⟨0, 5, .rw, 0⟩
def HBM_WP2_LEN : Field := ⟨10, 22, .rw, 0⟩
def HBM_WP3_LEN : Field := ⟨0, 5, .rw, 0⟩
def TRK_CTRL_DEPTH : Field := ⟨0, 10, .rw, 32⟩
def TRK_CTRL_PF_SHARE : Field := ⟨16, 7, .rw, 50⟩
def TRK_TIME_LINE_TTL : Field := ⟨0, 16, .rw, 0x7D0⟩
def TRK_TIME_IDLE : Field := ⟨16, 16, .rw, 0x1388⟩
def TRK_REGION0_EN : Field := ⟨0, 1, .rw, 0⟩
def TRK_REGION0_BASE : Field := ⟨10, 22, .rw, 0⟩
def TRK_REGION1_BASE : Field := ⟨0, 5, .rw, 0⟩
def TRK_REGION1_SHIFT : Field := ⟨16, 3, .rw, 0⟩
def TRK_REGION2_LEN : Field := ⟨10, 22, .rw, 0⟩
def TRK_REGION3_LEN : Field := ⟨0, 5, .rw, 0⟩
def TRK_HIT_HIT : Field := ⟨0, 32, .rc, 0⟩
def TRK_MISS_MISS : Field := ⟨0, 32, .rc, 0⟩
def TRK_PF_LINES_LINES : Field := ⟨0, 32, .rc, 0⟩
def TRK_PF_UNUSED_UNUSED : Field := ⟨0, 32, .rc, 0⟩
def TRK_STEAL_STEAL : Field := ⟨0, 32, .rc, 0⟩
def TRK_STATUS_BUF_LINES : Field := ⟨0, 16, .ro, 0⟩
def TRK_STATUS_TRACKERS : Field := ⟨16, 7, .ro, 0⟩
def WIN_MASK_MASK : Field := ⟨0, 20, .rw, 0xFFFFF⟩
def WIN_IN_FORCE_MASK : Field := ⟨0, 20, .ro, 0xFFFFF⟩
def WIN_APPLY_LO_BEAT : Field := ⟨0, 32, .rw, 0⟩
def WIN_APPLY_HI_BEAT : Field := ⟨0, 32, .rw, 0⟩
def WIN_CTRL_COMMIT : Field := ⟨0, 1, .wo, 0⟩
def WIN_CTRL_PENDING : Field := ⟨1, 1, .ro, 0⟩
def WIN_ERR_BOUNDS : Field := ⟨0, 8, .rc, 0⟩
def WIN_ERR_MALFORMED : Field := ⟨8, 8, .rc, 0⟩
def WIN_ERR_BUSY_REJ : Field := ⟨16, 8, .rc, 0⟩
def WG_INFO_CLASS : Field := ⟨0, 3, .ro, 0⟩
def WG_INFO_END0 : Field := ⟨3, 5, .ro, 0⟩
def WG_INFO_END1 : Field := ⟨8, 5, .ro, 0⟩
def WG_INFO_INDEX : Field := ⟨13, 3, .ro, 0⟩
def WG_CTRL_MASK0 : Field := ⟨0, 16, .rw, 0xFFFF⟩
def WG_CTRL_MASK1 : Field := ⟨16, 16, .rw, 0xFFFF⟩
def WG_STATUS_IN0 : Field := ⟨0, 16, .ro, 0⟩
def WG_STATUS_IN1 : Field := ⟨16, 14, .ro, 0⟩
def WG_STATUS_FAILED : Field := ⟨30, 1, .ro, 0⟩
def WG_ROT_TX0 : Field := ⟨0, 4, .ro, 0⟩
def WG_ROT_RX0 : Field := ⟨4, 4, .ro, 0⟩
def WG_ROT_TX1 : Field := ⟨8, 4, .ro, 0⟩
def WG_ROT_RX1 : Field := ⟨12, 4, .ro, 0⟩
def WG_EVT_LOCK_LOSS : Field := ⟨0, 8, .rc, 0⟩
def WG_EVT_REHOP : Field := ⟨8, 8, .rc, 0⟩
def WG_EVT_RETRAIN : Field := ⟨16, 8, .rc, 0⟩
def WG_EVT_NARROW : Field := ⟨24, 8, .rc, 0⟩
def WG_CRC_CRC : Field := ⟨0, 32, .rc, 0⟩
def WG_REPLAY_REPLAY : Field := ⟨0, 32, .rc, 0⟩
def WG_STATUS2_IN1H : Field := ⟨0, 2, .ro, 0⟩
def RING_TX_HEAT : Field := ⟨0, 12, .ro, 0⟩
def RING_TX_LOCKED : Field := ⟨12, 1, .ro, 0⟩
def RING_TX_MARGIN : Field := ⟨16, 8, .ro, 0⟩
def RING_RX_HEAT : Field := ⟨0, 12, .ro, 0⟩
def RING_RX_LOCKED : Field := ⟨12, 1, .ro, 0⟩
def RING_RX_MARGIN : Field := ⟨16, 8, .ro, 0⟩
def LANE_CTRL_FF_EN : Field := ⟨0, 1, .rw, 1⟩
def LANE_CTRL_REHOP_EN : Field := ⟨1, 1, .rw, 1⟩
def LANE_THRESH_REHOP_LO : Field := ⟨0, 10, .rw, 20⟩
def LANE_THRESH_REHOP_HI : Field := ⟨10, 10, .rw, 780⟩
def LANE_THRESH_LOCK_WIN : Field := ⟨20, 4, .rw, 6⟩
def LANE_LINKDOWN_LINK_DOWN_MAX : Field := ⟨0, 32, .rw, 0x186A0⟩
def LANE_TOTAL_IN_SERVICE : Field := ⟨0, 14, .ro, 0⟩
def LANE_LOCKLOSS_LO_COUNT : Field := ⟨0, 32, .ro, 0⟩
def LANE_LOCKLOSS_HI_COUNT : Field := ⟨0, 32, .ro, 0⟩
def LANE_ERR_REJ : Field := ⟨0, 8, .rc, 0⟩
def LANT_CTRL_APC_EN : Field := ⟨0, 1, .rw, 1⟩
def LANT_CTRL_AUTO_SPARE : Field := ⟨1, 1, .rw, 1⟩
def LANT_CTRL_I2C_SPEED : Field := ⟨2, 2, .rw, 2⟩
def LANT_APC_MARGIN_TGT : Field := ⟨0, 8, .rw, 45⟩
def LANT_APC_APC_STEP : Field := ⟨8, 8, .rw, 5⟩
def LANT_THRESH_WATCH_BIAS : Field := ⟨0, 8, .rw, 80⟩
def LANT_THRESH_REPLACE_BIAS : Field := ⟨8, 8, .rw, 92⟩
def LANT_THRESH_WATCH_MARGIN : Field := ⟨16, 8, .rw, 30⟩
def LANT_THRESH_REPLACE_MARGIN : Field := ⟨24, 8, .rw, 15⟩
def LANT_ERR_REJ : Field := ⟨0, 8, .rc, 0⟩
def LANT_ERR_I2C_NACK : Field := ⟨8, 8, .rc, 0⟩
def MOD_STATUS_PRESENT : Field := ⟨0, 1, .ro, 0⟩
def MOD_STATUS_READY : Field := ⟨1, 1, .ro, 0⟩
def MOD_STATUS_REQ : Field := ⟨2, 1, .ro, 0⟩
def MOD_STATUS_OK : Field := ⟨3, 1, .ro, 0⟩
def MOD_STATUS_CODE_MISMATCH : Field := ⟨4, 1, .ro, 0⟩
def MOD_STATUS_FAULT : Field := ⟨5, 1, .ro, 0⟩
def MOD_STATUS_LIT : Field := ⟨6, 6, .ro, 0⟩
def MOD_CTRL_RELEASE : Field := ⟨0, 1, .w1s, 0⟩
def MOD_EVT_SWITCH : Field := ⟨0, 8, .rc, 0⟩
def MOD_EVT_WATCH : Field := ⟨8, 8, .rc, 0⟩
def MOD_EVT_NO_SPARE : Field := ⟨16, 8, .rc, 0⟩
def MOD_EVT_UNPLANNED : Field := ⟨24, 8, .rc, 0⟩
def FEED_BIAS : Field := ⟨0, 10, .ro, 0⟩
def FEED_STATE : Field := ⟨10, 3, .ro, 0⟩
def FEED_GROUP : Field := ⟨13, 5, .ro, 31⟩
def FEED_MARGIN : Field := ⟨18, 8, .ro, 0⟩
def FEED_SEL_SRC : Field := ⟨0, 5, .rw, 0⟩
def LANT_I2C_SOCKET : Field := ⟨0, 3, .rw, 0⟩
def LANT_I2C_READ : Field := ⟨3, 1, .rw, 0⟩
def LANT_I2C_REG : Field := ⟨4, 8, .rw, 0⟩
def LANT_I2C_COUNT : Field := ⟨12, 3, .rw, 1⟩
def LANT_I2C_GO : Field := ⟨15, 1, .w1s, 0⟩
def LANT_I2C_NACK : Field := ⟨16, 1, .ro, 0⟩
def LANT_I2C_DATA_DATA : Field := ⟨0, 32, .rw, 0⟩
def YARD_CTRL_JOIN_EN : Field := ⟨0, 1, .rw, 0⟩
def YARD_CTRL_LEAVE : Field := ⟨1, 1, .w1s, 0⟩
def YARD_CTRL_MEMBER : Field := ⟨2, 4, .rw, 0⟩
def YARD_ID_ID : Field := ⟨0, 32, .rw, 0⟩
def YARD_STATUS_STATE : Field := ⟨0, 2, .ro, 0⟩
def YARD_STATUS_MEMBERS : Field := ⟨16, 16, .ro, 1⟩
def YARD_TIMING_REMOTE_TO : Field := ⟨0, 16, .rw, 0x4E20⟩
def YARD_TIMING_LIFETIME : Field := ⟨16, 16, .rw, 0x2710⟩
def YARD_LEDGER_RETAIN : Field := ⟨0, 20, .rw, 0x186A0⟩
def YARD_LEDGER_RETRY_MAX : Field := ⟨20, 4, .rw, 3⟩
def YARD_LEDGER_SRC_CREDITS : Field := ⟨24, 5, .rw, 16⟩
def YARD_HB_HB_PERIOD : Field := ⟨0, 16, .rw, 0x2710⟩
def YARD_HB_HB_LOSS : Field := ⟨16, 16, .rw, 50⟩
def YARD_JOIN_JOIN_WAIT : Field := ⟨0, 32, .rw, 0x400000⟩
def YARD_ERR_BOUNDS : Field := ⟨0, 8, .rc, 0⟩
def YARD_ERR_IDENT : Field := ⟨8, 8, .rc, 0⟩
def YARD_ERR_SPLIT : Field := ⟨16, 8, .rc, 0⟩
def YARD_ERR_MALFORMED : Field := ⟨24, 8, .rc, 0⟩
def GATE_STACK_SVC_SVC : Field := ⟨0, 20, .rw, 0xFFFFF⟩
def GATE_STACK_SVC_DENIED : Field := ⟨20, 8, .rc, 0⟩
def YLINK_CTRL_ENABLE : Field := ⟨0, 1, .rw, 1⟩
def YLINK_CTRL_RETRAIN : Field := ⟨1, 1, .w1s, 0⟩
def YLINK_CTRL_MASK : Field := ⟨8, 8, .rw, 255⟩
def YLINK_STATUS_STATE : Field := ⟨0, 2, .ro, 0⟩
def YLINK_STATUS_PEER_MEMBER : Field := ⟨2, 4, .ro, 0⟩
def YLINK_STATUS_PEER_LINK : Field := ⟨6, 5, .ro, 0⟩
def YLINK_STATUS_PEER_HOLDOVER : Field := ⟨11, 1, .ro, 0⟩
def YLINK_STATUS_FAILED : Field := ⟨12, 1, .ro, 0⟩
def YLINK_STATUS_IN_SERVICE : Field := ⟨16, 8, .ro, 0⟩
def YLINK_STATUS_BAD_CTL : Field := ⟨24, 8, .rc, 0⟩
def YLINK_FEC_CORR_CNT : Field := ⟨0, 32, .rc, 0⟩
def YLINK_FEC_UNCORR_CNT : Field := ⟨0, 32, .rc, 0⟩
def YLINK_REPLAY_CNT : Field := ⟨0, 32, .rc, 0⟩
def YLINK_CH_DROP_CNT : Field := ⟨0, 8, .rc, 0⟩
def YLINK_FLITS_LO_FLITS : Field := ⟨0, 32, .ro, 0⟩
def YLINK_FLITS_HI_FLITS : Field := ⟨0, 32, .ro, 0⟩
def PEER_STATUS_PRESENT : Field := ⟨0, 1, .ro, 0⟩
def PEER_STATUS_DIRECT : Field := ⟨1, 1, .ro, 0⟩
def PEER_STATUS_RELAYED : Field := ⟨2, 1, .ro, 0⟩
def PEER_STATUS_RELAY : Field := ⟨3, 4, .ro, 0⟩
def PEER_STATUS_HOLDOVER : Field := ⟨7, 1, .ro, 0⟩
def PEER_STATUS_LINKS_TO : Field := ⟨16, 16, .ro, 0⟩
def PEER_HB_LO_BEAT : Field := ⟨0, 32, .ro, 0⟩
def PEER_HB_HI_BEAT : Field := ⟨0, 32, .ro, 0⟩
def MCAST_GROUP_MASK : Field := ⟨0, 16, .rw, 0⟩
def MCAST_GROUP_VALID : Field := ⟨31, 1, .rw, 0⟩
def YSCHED_CTRL_EN : Field := ⟨0, 1, .rw, 0⟩
def YSCHED_START_LO_START : Field := ⟨0, 32, .rw, 0⟩
def YSCHED_START_HI_START : Field := ⟨0, 32, .rw, 0⟩
def YSCHED_STREAM : Field := ⟨0, 3, .rw, 0⟩
def PORT_CTRL_RESET : Field := ⟨0, 1, .w1s, 0⟩
def PORT_CTRL_HOT_EN : Field := ⟨1, 1, .rw, 1⟩
def PORT_STATUS_TAGS : Field := ⟨0, 14, .ro, 0⟩
def PORT_STATUS_LEDGER : Field := ⟨14, 13, .ro, 0⟩
def PORT_STATUS_LEDGER_HOLD : Field := ⟨27, 1, .ro, 0⟩
def PORT_STATUS_LOSS_OVF : Field := ⟨28, 1, .ro, 0⟩
def PORT_STATUS_RESET_SEEN : Field := ⟨29, 1, .ro, 0⟩
def PORT_RESET_BEAT_LO_BEAT : Field := ⟨0, 32, .ro, 0⟩
def PORT_RESET_BEAT_HI_BEAT : Field := ⟨0, 32, .ro, 0⟩
def TAG_STALL_CNT : Field := ⟨0, 32, .rc, 0⟩
def LEDGER_HIT_CNT : Field := ⟨0, 32, .rc, 0⟩
def LEDGER_UNKNOWN_CNT : Field := ⟨0, 32, .rc, 0⟩
def RETRY_APPLIED_CNT : Field := ⟨0, 32, .rc, 0⟩
def LEDGER_EXPIRED_CNT : Field := ⟨0, 32, .rc, 0⟩
def LEDGER_HOLD_BEATS_CNT : Field := ⟨0, 32, .rc, 0⟩
def PORT_MALFORMED_CNT : Field := ⟨0, 32, .rc, 0⟩
def SRC_CREDIT_STALL_CNT : Field := ⟨0, 32, .rc, 0⟩
def HOT_CNT : Field := ⟨0, 32, .rc, 0⟩
def HOT_ADDR_LO_ADDR : Field := ⟨0, 32, .ro, 0⟩
def HOT_ADDR_HI_ADDR : Field := ⟨0, 32, .ro, 0⟩
def HOT_THRESH_THRESH : Field := ⟨0, 32, .rw, 0x3E8⟩
def PORT_LOSS0_SOURCE : Field := ⟨0, 17, .ro, 0⟩
def PORT_LOSS0_VALID : Field := ⟨31, 1, .w1c, 0⟩
def PORT_LOSS1_FIRST_SEQ : Field := ⟨0, 32, .ro, 0⟩
def PORT_LOSS2_LAST_SEQ : Field := ⟨0, 32, .ro, 0⟩
def PORT_LOSS3_COUNT : Field := ⟨0, 32, .ro, 0⟩
def ETH_CTRL_ENABLE : Field := ⟨0, 1, .rw, 0⟩
def ETH_CTRL_RATE : Field := ⟨1, 2, .rw, 0⟩
def ETH_CTRL_MEDIA : Field := ⟨3, 2, .rw, 0⟩
def ETH_CTRL_PFC_EN : Field := ⟨5, 1, .rw, 1⟩
def ETH_CTRL_VLAN_EN : Field := ⟨6, 1, .rw, 0⟩
def ETH_STATUS_LINK_UP : Field := ⟨0, 1, .ro, 0⟩
def ETH_STATUS_RATE_UP : Field := ⟨1, 2, .ro, 0⟩
def ETH_STATUS_XOFF_SENT : Field := ⟨3, 1, .ro, 0⟩
def ETH_STATUS_PAUSED : Field := ⟨4, 8, .ro, 0⟩
def ETH_STATUS_QPS : Field := ⟨12, 12, .ro, 0⟩
def ETH_STATUS_FULL : Field := ⟨24, 1, .ro, 0⟩
def ETH_VLAN_VID : Field := ⟨0, 12, .rw, 0⟩
def ETH_VLAN_ROCE_PCP : Field := ⟨12, 3, .rw, 3⟩
def ETH_VLAN_CNP_PCP : Field := ⟨15, 3, .rw, 6⟩
def ETH_VLAN_ROCE_DSCP : Field := ⟨18, 6, .rw, 26⟩
def ETH_VLAN_CNP_DSCP : Field := ⟨24, 6, .rw, 48⟩
def ETH_MTU_ETH_MTU : Field := ⟨0, 14, .rw, 0x2400⟩
def ETH_PFC_XOFF_KB : Field := ⟨0, 12, .rw, 0x600⟩
def ETH_PFC_XON_KB : Field := ⟨12, 12, .rw, 0x400⟩
def ETH_CC_CNP_GAP : Field := ⟨0, 16, .rw, 0x1388⟩
def ETH_CC_RECOVER : Field := ⟨16, 16, .rw, 0x157C⟩
def ETH_IP4_IP4 : Field := ⟨0, 32, .rw, 0⟩
def ETH_GW4_GW4 : Field := ⟨0, 32, .rw, 0⟩
def ETH_PREFIX_PREFIX4 : Field := ⟨0, 8, .rw, 0⟩
def ETH_PREFIX_PREFIX6 : Field := ⟨8, 8, .rw, 0⟩
def ETH_IP6_IP6 : Field := ⟨0, 32, .rw, 0⟩
def ETH_GW6_GW6 : Field := ⟨0, 32, .rw, 0⟩
def ETH_RX_FRAMES_LO_FRAMES : Field := ⟨0, 32, .ro, 0⟩
def ETH_RX_FRAMES_HI_FRAMES : Field := ⟨0, 32, .ro, 0⟩
def ETH_TX_FRAMES_LO_FRAMES : Field := ⟨0, 32, .ro, 0⟩
def ETH_TX_FRAMES_HI_FRAMES : Field := ⟨0, 32, .ro, 0⟩
def ETH_FEC_CORR_CNT : Field := ⟨0, 32, .rc, 0⟩
def ETH_FEC_UNCORR_CNT : Field := ⟨0, 32, .rc, 0⟩
def ETH_DROPS_FCS : Field := ⟨0, 8, .rc, 0⟩
def ETH_DROPS_VLAN : Field := ⟨8, 8, .rc, 0⟩
def ETH_DROPS_NOT_ROCE : Field := ⟨16, 8, .rc, 0⟩
def ETH_DROPS_BUF_FULL : Field := ⟨24, 8, .rc, 0⟩
def ETH_PFC_CNT_PFC_RX : Field := ⟨0, 16, .rc, 0⟩
def ETH_PFC_CNT_PFC_TX : Field := ⟨16, 16, .rc, 0⟩
def ETH_CNP_CNT_CE_RX : Field := ⟨0, 16, .rc, 0⟩
def ETH_CNP_CNT_CNP_TX : Field := ⟨16, 16, .rc, 0⟩
def ETH_CNP_ICRC_CNP_RX : Field := ⟨0, 16, .rc, 0⟩
def ETH_CNP_ICRC_ICRC : Field := ⟨16, 16, .rc, 0⟩
def ETH_LEASE_LEASE : Field := ⟨0, 32, .rw, 0x1DCD6500⟩
def ETH_ADOPT_ADOPT_HOLD : Field := ⟨0, 16, .rw, 60⟩
def ETH_RDMA_ERR_BOUNDS : Field := ⟨0, 8, .rc, 0⟩
def ETH_RDMA_ERR_DENIED : Field := ⟨8, 8, .rc, 0⟩
def ETH_RDMA_ERR_MALFORMED : Field := ⟨16, 8, .rc, 0⟩
def ETH_RDMA_ERR_REJ : Field := ⟨24, 8, .rc, 0⟩
def ETH_ERR_REJ : Field := ⟨0, 8, .rc, 0⟩
def ETH_SESSION_LOST_LOST : Field := ⟨0, 32, .rc, 0⟩
def HEAD_ERR_HEAD_ERR : Field := ⟨0, 32, .rc, 0⟩
def OWNER_ADDR_ADDR : Field := ⟨0, 32, .rw, 0⟩
def OWNER_CTL_PREFIX : Field := ⟨0, 8, .rw, 0⟩
def OWNER_CTL_V6 : Field := ⟨8, 1, .rw, 0⟩
def OWNER_CTL_VALID : Field := ⟨31, 1, .rw, 0⟩
def PWR_CTRL_PKG_EN : Field := ⟨0, 1, .rw, 1⟩
def PWR_CTRL_DIODE_EN : Field := ⟨1, 1, .rw, 1⟩
def PWR_CTRL_COOL_EN : Field := ⟨2, 1, .rw, 1⟩
def PWR_STATUS_COOL_VALID : Field := ⟨0, 1, .ro, 0⟩
def PWR_STATUS_COOL_FAILSAFE : Field := ⟨1, 1, .ro, 0⟩
def PWR_STATUS_DISAGREE : Field := ⟨2, 1, .ro, 0⟩
def PWR_STATUS_PKG_ACTIVE : Field := ⟨3, 1, .ro, 0⟩
def PWR_STATUS_RAIL_FAULT : Field := ⟨4, 1, .ro, 0⟩
def PWR_STATUS_BASE_HOT : Field := ⟨5, 1, .ro, 0⟩
def PWR_STATUS_TRIPPED : Field := ⟨6, 8, .ro, 0⟩
def PWR_STATUS_PKG_TRIP : Field := ⟨14, 1, .ro, 0⟩
def PWR_THR_THR_BARN : Field := ⟨0, 8, .rw, 95⟩
def PWR_THR_THR_LOFT : Field := ⟨8, 8, .rw, 90⟩
def PWR_THR_THR_GAIN : Field := ⟨16, 8, .rw, 15⟩
def PWR_THR_TRIP_T : Field := ⟨24, 8, .rw, 110⟩
def PWR_PKG_TDP_W : Field := ⟨0, 13, .rw, 0x16A8⟩
def PWR_PKG_HOLD : Field := ⟨13, 8, .rw, 250⟩
def PWR_PKG_STEP_W : Field := ⟨21, 8, .rw, 64⟩
def PWR_DIODE_CFG_DIODE_TOL : Field := ⟨0, 8, .rw, 8⟩
def PWR_DIODE_CFG_DISAGREE_SKIP : Field := ⟨8, 6, .rw, 16⟩
def PWR_COOL_ADDR : Field := ⟨0, 7, .rw, 72⟩
def PWR_COOL_REG : Field := ⟨8, 8, .rw, 0⟩
def PWR_COOL_FAILSAFE : Field := ⟨16, 8, .rw, 45⟩
def PWR_COOL_T_INLET : Field := ⟨0, 16, .ro, 0⟩
def PWR_COOL_T_NACK : Field := ⟨16, 8, .rc, 0⟩
def PWR_COOL_T_IMPLAUS : Field := ⟨24, 8, .rc, 0⟩
def PWR_PKG_POWER_POWER : Field := ⟨0, 16, .ro, 0⟩
def PWR_PKG_POWER_PKG_SKIP : Field := ⟨16, 6, .ro, 0⟩
def PWR_PKG_MAX_MAX : Field := ⟨0, 16, .rc, 0⟩
def PWR_PKG_OVER_OVER : Field := ⟨0, 32, .rc, 0⟩
def PWR_ERR_BOUNDS : Field := ⟨0, 8, .rc, 0⟩
def PWR_ERR_TRIPS : Field := ⟨16, 8, .rc, 0⟩
def PWR_ERR_RAIL_FAULTS : Field := ⟨24, 8, .rc, 0⟩
def RAIL_V_V : Field := ⟨0, 16, .ro, 0⟩
def RAIL_I_I : Field := ⟨0, 16, .ro, 0⟩
def RAIL_P_P : Field := ⟨0, 16, .ro, 0⟩
def RAIL_STATUS_TARGET : Field := ⟨0, 12, .ro, 0⟩
def RAIL_STATUS_AT_LIMIT : Field := ⟨12, 1, .ro, 0⟩
def RAIL_STATUS_FAULT : Field := ⟨13, 1, .ro, 0⟩
def RAIL_FAULTS_CNT : Field := ⟨0, 32, .rc, 0⟩
def RAIL_ENERGY_LO_ENERGY : Field := ⟨0, 32, .ro, 0⟩
def RAIL_ENERGY_HI_ENERGY : Field := ⟨0, 32, .ro, 0⟩
def HALF_THERMAL0_HOT_T : Field := ⟨0, 12, .ro, 0⟩
def HALF_THERMAL0_HOT_NODE : Field := ⟨12, 8, .ro, 0⟩
def HALF_THERMAL1_TEMP_TERM : Field := ⟨0, 6, .ro, 0⟩
def HALF_THERMAL1_FLOOR : Field := ⟨8, 6, .ro, 0⟩
def HALF_THERMAL1_FAULT_TERM : Field := ⟨16, 6, .ro, 0⟩
def HALF_THERMAL1_THERMAL_SKIP : Field := ⟨24, 6, .ro, 0⟩
def HALF_THERMAL2_THROTTLED : Field := ⟨0, 32, .rc, 0⟩
def NODE_T_T : Field := ⟨0, 12, .ro, 0⟩
def DIODE0_DIODE_T : Field := ⟨0, 12, .ro, 0⟩
def DIODE0_MODEL_T : Field := ⟨12, 12, .ro, 0⟩
def DIODE0_DISAGREE : Field := ⟨24, 1, .ro, 0⟩
def DIODE1_MISMATCH : Field := ⟨0, 8, .rc, 0⟩
def CAL_CTRL_START : Field := ⟨0, 1, .w1s, 0⟩
def CAL_CTRL_ABORT : Field := ⟨1, 1, .w1s, 0⟩
def CAL_CTRL_COMMIT : Field := ⟨2, 1, .wo, 0⟩
def CAL_STATUS_STATE : Field := ⟨0, 3, .ro, 0⟩
def CAL_STATUS_REASON : Field := ⟨3, 4, .ro, 0⟩
def CAL_STATUS_CHAIN : Field := ⟨8, 7, .ro, 0⟩
def CAL_STATUS_CALREF_PRESENT : Field := ⟨15, 1, .ro, 0⟩
def CAL_APPLY_LO_BEAT : Field := ⟨0, 32, .rw, 0⟩
def CAL_APPLY_HI_BEAT : Field := ⟨0, 32, .rw, 0⟩
def CAL_IN_FORCE_LO_BEAT : Field := ⟨0, 32, .ro, 0⟩
def CAL_IN_FORCE_HI_BEAT : Field := ⟨0, 32, .ro, 0⟩
def CAL_ERR_BOUNDS : Field := ⟨0, 8, .rc, 0⟩
def CAL_ERR_BUSY_REJ : Field := ⟨8, 8, .rc, 0⟩
def CAL_ERR_REJECTED : Field := ⟨16, 8, .rc, 0⟩
def CAL_ERR_ACCEPTED : Field := ⟨24, 8, .rc, 0⟩
def CAL_RESULT0_GAIN : Field := ⟨0, 32, .ro, 0⟩
def CAL_RESULT1_OFFSET : Field := ⟨0, 32, .ro, 0⟩
def CAL_RESULT2_SPREAD : Field := ⟨0, 32, .ro, 0⟩
def CAL_RESULT3_FAIL : Field := ⟨0, 1, .ro, 0⟩
def TACK_STATUS_ID_READY : Field := ⟨0, 1, .ro, 0⟩
def TACK_STATUS_PUF_FAIL : Field := ⟨1, 1, .ro, 0⟩
def TACK_STATUS_ZEROISED : Field := ⟨2, 1, .ro, 0⟩
def TACK_STATUS_BOOT_HALT : Field := ⟨3, 1, .ro, 0⟩
def TACK_STATUS_SLOT : Field := ⟨4, 1, .ro, 0⟩
def TACK_STATUS_OTHER_VALID : Field := ⟨5, 1, .ro, 0⟩
def TACK_STATUS_FIELD_CAL : Field := ⟨6, 1, .ro, 0⟩
def TACK_STATUS_SCAN_OPEN : Field := ⟨7, 1, .ro, 0⟩
def TACK_STATUS_SLOT0_RESULT : Field := ⟨8, 4, .ro, 12⟩
def TACK_STATUS_SLOT1_RESULT : Field := ⟨12, 4, .ro, 12⟩
def TACK_STATUS_START_PHASE : Field := ⟨16, 3, .ro, 0⟩
def TACK_ID_DEVICE_ID : Field := ⟨0, 32, .ro, 0⟩
def TACK_IMAGE_SEQ_LO_SEQ : Field := ⟨0, 32, .ro, 0⟩
def TACK_IMAGE_SEQ_HI_SEQ : Field := ⟨0, 32, .ro, 0⟩
def TACK_FW_VERSION_VERSION : Field := ⟨0, 32, .ro, 0⟩
def TACK_CONFIG_RECORDS_APPLIED : Field := ⟨0, 17, .ro, 0⟩
def TACK_CONFIG_CONFIG_FAIL : Field := ⟨17, 1, .ro, 0⟩
def TACK_CTRL_ZEROISE : Field := ⟨0, 1, .w1s, 0⟩
def TACK_CTRL_SIGN_GO : Field := ⟨1, 1, .w1s, 0⟩
def TACK_CTRL_DOMAIN : Field := ⟨2, 2, .rw, 0⟩
def TACK_SIGN_STATUS_BUSY : Field := ⟨0, 1, .ro, 0⟩
def TACK_SIGN_STATUS_DONE : Field := ⟨1, 1, .ro, 0⟩
def TACK_SIGN_STATUS_REFUSED : Field := ⟨2, 1, .ro, 0⟩
def TACK_ERR_REJ : Field := ⟨0, 8, .rc, 0⟩
def TACK_ERR_SIGN_REFUSED : Field := ⟨8, 8, .rc, 0⟩
def TACK_ERR_FLASH : Field := ⟨16, 8, .rc, 0⟩
def TACK_SIGN_HASH_H : Field := ⟨0, 32, .rw, 0⟩
def TACK_SIGN_OUT_SIG : Field := ⟨0, 32, .ro, 0⟩
def TACK_PHASE_BEAT_LO_BEAT : Field := ⟨0, 32, .ro, 0⟩
def TACK_PHASE_BEAT_HI_BEAT : Field := ⟨0, 32, .ro, 0⟩
def RM_CTRL_SWITCHBACK : Field := ⟨0, 1, .rw, 1⟩
def RM_CTRL_HOME : Field := ⟨1, 1, .rw, 0⟩
def RM_CTRL_CAROUSEL_EN : Field := ⟨2, 1, .rw, 1⟩
def RM_CTRL_SWAP_NOW : Field := ⟨3, 1, .w1s, 0⟩
def RM_STATUS_ACTIVE : Field := ⟨0, 2, .ro, 0⟩
def RM_STATUS_IN_STEP : Field := ⟨2, 1, .ro, 0⟩
def RM_STATUS_A_STATE : Field := ⟨3, 2, .ro, 0⟩
def RM_STATUS_B_STATE : Field := ⟨5, 2, .ro, 0⟩
def RM_STATUS_UPDATE : Field := ⟨7, 1, .ro, 0⟩
def RM_STATUS_NO_MASTER : Field := ⟨8, 1, .ro, 0⟩
def RM_STATUS_SERVICE_LEVEL : Field := ⟨9, 3, .ro, 0⟩
def RM_KICK_KICK : Field := ⟨0, 32, .wo, 0⟩
def RM_TIMING_WD_TIMEOUT : Field := ⟨0, 16, .rw, 0x1388⟩
def RM_TIMING_WD_GRACE : Field := ⟨16, 16, .rw, 500⟩
def RM_CAROUSEL_CAROUSEL_PERIOD : Field := ⟨0, 24, .rw, 0x10000⟩
def RM_CAROUSEL_RETURN_HOLD : Field := ⟨24, 8, .rw, 100⟩
def RM_CONFIRM_UPDATE_CONFIRM : Field := ⟨0, 16, .rw, 100⟩
def RM_SWAP_NONCE_NONCE : Field := ⟨0, 32, .ro, 0⟩
def RM_SWAP_CHECK_CHECK : Field := ⟨0, 32, .wo, 0⟩
def RM_EVT_DIVERGE : Field := ⟨0, 8, .rc, 0⟩
def RM_EVT_TAKEOVER : Field := ⟨8, 8, .rc, 0⟩
def RM_EVT_SWAP_FAIL : Field := ⟨16, 8, .rc, 0⟩
def RM_EVT_WATCHDOG : Field := ⟨24, 8, .rc, 0⟩
def RM_SWAPS_SWAPS : Field := ⟨0, 16, .rc, 0⟩
def RM_SWAPS_SWAP_SKIP : Field := ⟨16, 16, .rc, 0⟩
def RM_ERR_REJ : Field := ⟨0, 8, .rc, 0⟩
def RM_DECODE_LO_ADDR : Field := ⟨0, 32, .ro, 0⟩
def RM_DECODE_HI_ADDR : Field := ⟨0, 8, .ro, 0⟩
def RM_DECODE_HI_WRITE : Field := ⟨8, 1, .ro, 0⟩
def RM_DECODE_CNT_COUNT : Field := ⟨0, 32, .rc, 0⟩
def RM_ABORT_LO_ADDR : Field := ⟨0, 32, .ro, 0⟩
def RM_ABORT_HI_ADDR : Field := ⟨0, 8, .ro, 0⟩
def RM_UPDATE_GO : Field := ⟨0, 1, .w1s, 0⟩
def RM_UPDATE_ABORT : Field := ⟨1, 1, .w1s, 0⟩
def RM_UPDATE_STEP : Field := ⟨2, 3, .ro, 0⟩
def RM_UPDATE_RESULT : Field := ⟨5, 4, .ro, 0⟩
def RM_FW_VERSION_VERSION : Field := ⟨0, 32, .ro, 0⟩
def RM_LOSS0_SOURCE : Field := ⟨0, 17, .ro, 0⟩
def RM_LOSS0_PORT : Field := ⟨17, 5, .ro, 0⟩
def RM_LOSS0_VALID : Field := ⟨31, 1, .w1c, 0⟩
def RM_LOSS1_FIRST_SEQ : Field := ⟨0, 32, .ro, 0⟩
def RM_LOSS2_LAST_SEQ : Field := ⟨0, 32, .ro, 0⟩
def RM_LOSS3_COUNT : Field := ⟨0, 32, .ro, 0⟩
def RM_LOSS_LOST_LOST : Field := ⟨0, 32, .rc, 0⟩
def RM_HANDOFF_DATA : Field := ⟨0, 32, .rw, 0⟩
def FAR_CTRL_INSVC_EN : Field := ⟨0, 1, .rw, 0⟩
def FAR_CTRL_MOVE_EN : Field := ⟨1, 1, .rw, 1⟩
def FAR_PERIOD_PERIOD : Field := ⟨0, 24, .rw, 0x1000⟩
def FAR_STATUS_TEST_BUSY : Field := ⟨0, 1, .ro, 0⟩
def FAR_STATUS_REGION : Field := ⟨1, 6, .ro, 0⟩
def FAR_STATUS_MOVE_BUSY : Field := ⟨7, 1, .ro, 0⟩
def FAR_EVT_SIG_FAIL : Field := ⟨0, 8, .rc, 0⟩
def FAR_EVT_MOVES : Field := ⟨8, 8, .rc, 0⟩
def FAR_EVT_NO_SPARE : Field := ⟨16, 8, .rc, 0⟩
def FAR_MOVE_LAST_FROM : Field := ⟨0, 10, .ro, 0⟩
def FAR_MOVE_LAST_TO : Field := ⟨10, 10, .ro, 0⟩
def FAR_MOVE_LAST_BARN : Field := ⟨20, 3, .ro, 0⟩
def FAR_MOVE_BEATS_BEATS : Field := ⟨0, 32, .ro, 0⟩
def FAR_ERR_REJ : Field := ⟨0, 8, .rc, 0⟩
def FAR_LIMITS_FAULT_LIMIT : Field := ⟨0, 4, .rw, 4⟩
def FAR_LIMITS_PORT_HANG_LIMIT : Field := ⟨8, 24, .rw, 0x4C4B40⟩
def FAR_BARN_SPARES : Field := ⟨0, 7, .ro, 0⟩
def FAR_BARN_RETIRED : Field := ⟨7, 7, .ro, 0⟩
def FAR_BARN_HOLES : Field := ⟨14, 7, .ro, 0⟩
def FAR_SITE_STATE : Field := ⟨0, 2, .ro, 0⟩
def FAR_SITE_ASSEMBLY : Field := ⟨2, 1, .ro, 0⟩
def FAR_SITE_COIL_SPARE : Field := ⟨3, 4, .ro, 0⟩
def FAR_SITE_COIL_FAILED : Field := ⟨7, 4, .ro, 0⟩
def FAR_SITE_MOVE_POSTED : Field := ⟨11, 1, .ro, 0⟩
def FAR_TAP_CHOSEN : Field := ⟨0, 5, .ro, 0⟩
def FAR_TAP_SPARE_WIRES : Field := ⟨5, 20, .ro, 0⟩
def RST_CTRL_FLUSH : Field := ⟨0, 16, .rw, 0x2710⟩
def RST_BASE_LO_BASE : Field := ⟨10, 22, .rw, 0⟩
def RST_BASE_HI_BASE : Field := ⟨0, 11, .rw, 0⟩
def RST_SEG_SEG : Field := ⟨10, 22, .rw, 64⟩
def RST_INTERVAL_RST_INTERVAL : Field := ⟨0, 16, .rw, 0⟩
def RST_INTERVAL_IN_FORCE : Field := ⟨16, 16, .ro, 0⟩
def RST_STATUS_TRACING : Field := ⟨0, 10, .ro, 0⟩
def RST_CHUNKS_LO_COUNT : Field := ⟨0, 32, .ro, 0⟩
def RST_CHUNKS_HI_COUNT : Field := ⟨0, 32, .ro, 0⟩
def RST_DROP_DROP : Field := ⟨0, 32, .rc, 0⟩
def RST_ERR_BOUNDS : Field := ⟨0, 8, .rc, 0⟩
def RST_ERR_MALFORMED : Field := ⟨8, 8, .rc, 0⟩
def RST_ERR_BUSY_REJ : Field := ⟨16, 8, .rc, 0⟩
def TRC_HANG_CTRL_EN : Field := ⟨0, 1, .rw, 1⟩
def TRC_HANG_CTRL_HANG : Field := ⟨8, 24, .rw, 0x3E8⟩
def TRC_HANG_CONFIRM_HANG_CONFIRM : Field := ⟨0, 32, .rw, 0x186A0⟩
def TRC_HANG_MAP_SITES : Field := ⟨0, 32, .w1c, 0⟩
def TRC_SNAP_BASE_LO_ADDR : Field := ⟨0, 32, .rw, 0⟩
def TRC_SNAP_BASE_HI_ADDR : Field := ⟨0, 32, .rw, 0⟩
def TRC_SNAP_BYTES_BYTES : Field := ⟨0, 32, .rw, 0x100000⟩
def BRK_CTRL_EN : Field := ⟨0, 1, .rw, 1⟩
def BRK_CTRL_THRESH : Field := ⟨8, 9, .rw, 0⟩
def BRK_CLAIM_CLAIM : Field := ⟨0, 32, .wo, 0⟩
def BRK_CLAIMED_SOURCE : Field := ⟨0, 9, .ro, 0⟩
def BRK_COMPLETE_SOURCE : Field := ⟨0, 32, .wo, 0⟩
def BRK_STATUS_LINE : Field := ⟨0, 1, .ro, 0⟩
def BRK_STATUS_HIGHEST : Field := ⟨1, 9, .ro, 0⟩
def BRK_STRAY_STRAY : Field := ⟨0, 32, .rc, 0⟩
def BRK_STRAY_LAST_VALUE : Field := ⟨0, 32, .ro, 0⟩
def BRK_PENDING_PENDING : Field := ⟨0, 32, .w1c, 0⟩
def BRK_SET_SET : Field := ⟨0, 32, .w1s, 0⟩
def BRK_ENABLE_ENABLE : Field := ⟨0, 32, .rw, 0xFFFFFFFF⟩
def BRK_INSERVICE_INSERVICE : Field := ⟨0, 32, .ro, 0⟩
def BRK_RAISED_RAISED : Field := ⟨0, 32, .rc, 0⟩
end Fld

/-- The management address of the register's first word (R27, R28). -/
def RegName.base : RegName → Nat
  | .BEAT_CTRL => 0x100000000
  | .BEAT_STATUS => 0x100000004
  | .BEAT_NOW_LO => 0x100000008
  | .BEAT_NOW_HI => 0x10000000C
  | .BEAT_LOAD_LO => 0x100000010
  | .BEAT_LOAD_HI => 0x100000014
  | .CLK_ERR => 0x100000018
  | .REF_LOSS_CNT => 0x100000020
  | .SYNC_MISMATCH_CNT => 0x100000024
  | .SYNC_LAST_OFFSET => 0x100000028
  | .HALF_OPP => 0x100001000
  | .HALF_STATUS => 0x100001004
  | .HALF_CHANGE_BEAT_LO => 0x100001008
  | .HALF_CHANGE_BEAT_HI => 0x10000100C
  | .HALF_THROTTLE => 0x100001010
  | .OPP_ENTRY => 0x100002000
  | .REGION_CLK_CTRL => 0x100003000
  | .REGION_CLK_STATUS => 0x100003004
  | .REGION_STRETCH_LO => 0x100003008
  | .REGION_STRETCH_HI => 0x10000300C
  | .REGION_STRETCH_SAT => 0x100003010
  | .TILE_ID => 0x1000000000
  | .TILE_CTRL => 0x1000000004
  | .TILE_STATUS => 0x1000000008
  | .TILE_BOOT => 0x100000000C
  | .EVENT_POST => 0x1000000010
  | .WAIT_STATE => 0x1000000020
  | .WAIT_TARGET_LO => 0x1000000024
  | .WAIT_TARGET_HI => 0x1000000028
  | .WAIT_START_LO => 0x100000002C
  | .WAIT_START_HI => 0x1000000030
  | .SLOT_STATUS => 0x1000000040
  | .TILE_SLOT_STALL => 0x1000000044
  | .STRAY_REPLY => 0x1000000048
  | .RESET_DROP => 0x100000004C
  | .FAULT_LOST => 0x1000000050
  | .SRAM_APERTURE => 0x1000000060
  | .QUEUE_STATUS => 0x1000000100
  | .QUEUE_ERR => 0x1000000104
  | .AC => 0x1000001000
  | .CC => 0x1000001100
  | .GREG_LO => 0x1000002000
  | .GREG_HI => 0x1000002004
  | .RTR_CTRL => 0x1000040000
  | .RTR_STATUS => 0x1000040004
  | .RTR_ERR => 0x1000040008
  | .SCHED_START_LO => 0x1000040010
  | .SCHED_START_HI => 0x1000040014
  | .RTR_TAP => 0x1000040018
  | .RTR_FWD => 0x100004001C
  | .PORT_FLITS_LO => 0x1000040100
  | .PORT_FLITS_HI => 0x1000040104
  | .PORT_SCHED_FLITS => 0x1000040108
  | .PORT_CREDIT_STALL => 0x100004010C
  | .PORT_SLIP => 0x1000040110
  | .PORT_LATE_FRAMES => 0x1000040114
  | .PORT_GUARD_WAIT => 0x1000040118
  | .RPORT_MALFORMED => 0x100004011C
  | .PORT_ESC_PKTS => 0x1000040120
  | .PORT_ECC => 0x1000040124
  | .PORT_BUF => 0x1000040128
  | .TAP_STATUS => 0x1000040400
  | .TAP_CRC => 0x1000040404
  | .TAP_REPLAY => 0x1000040408
  | .SCHED_SLOT => 0x1000041000
  | .FLOW_SRC => 0x1000042000
  | .FLOW_LEN => 0x1000042004
  | .FLOW_RING => 0x1000042008
  | .FLOW_PTR => 0x100004200C
  | .FLOW_AC => 0x1000042010
  | .FLOW_TARGET => 0x1000042014
  | .FLOW_SENT => 0x1000042018
  | .FLOW_SKIP => 0x100004201C
  | .SINK_DST => 0x1000043000
  | .SINK_RING => 0x1000043004
  | .SINK_PTR => 0x1000043008
  | .SINK_CTR => 0x100004300C
  | .SINK_LEN => 0x1000043010
  | .SINK_RECV => 0x1000043014
  | .SINK_DROP => 0x1000043018
  | .MAP => 0x1000048000
  | .ROUTE => 0x100004C000
  | .LOFT_CTRL => 0x1000060000
  | .LOFT_STATUS => 0x1000060004
  | .LOFT_ERR => 0x1000060008
  | .LOFT_INV => 0x100006000C
  | .LOFT_CACHE_BASE_LO => 0x1000060010
  | .LOFT_CACHE_BASE_HI => 0x1000060014
  | .LOFT_CACHE_LEN_LO => 0x1000060018
  | .LOFT_CACHE_LEN_HI => 0x100006001C
  | .LOFT_ECC => 0x1000060020
  | .LOFT_POISON_ADDR => 0x1000060024
  | .LOFT_COIL_CRC => 0x1000060028
  | .LOFT_COIL_REPLAY => 0x100006002C
  | .LOFT_CACHE_HIT => 0x1000060030
  | .LOFT_CACHE_MISS => 0x1000060034
  | .LOFT_READ_BYTES_LO => 0x1000060040
  | .LOFT_READ_BYTES_HI => 0x1000060044
  | .LOFT_WRITE_BYTES_LO => 0x1000060048
  | .LOFT_WRITE_BYTES_HI => 0x100006004C
  | .TRC_TILE_CTRL => 0x1000050000
  | .TRC_TILE_STATUS => 0x1000050004
  | .TRC_DROP => 0x1000050008
  | .TRC_TILE_ERR => 0x100005000C
  | .TRC_LOCAL_BASE => 0x1000050010
  | .TRC_LOCAL_LEN => 0x1000050014
  | .TRC_UTIL_LO => 0x1000050100
  | .TRC_UTIL_HI => 0x1000050104
  | .SLOT_ENTRY0 => 0x1000051000
  | .SLOT_ENTRY1 => 0x1000051004
  | .SLOT_ENTRY2 => 0x1000051008
  | .SLOT_ENTRY3 => 0x100005100C
  | .TRC_BUFFER => 0x1000054000
  | .RT_CTRL => 0x10F2000000
  | .RT_STATUS => 0x10F2000004
  | .RT_PARENT => 0x10F2001000
  | .RT_MAP => 0x10F2004000
  | .STACK_CAP => 0x10F1000000
  | .STACK_POWER => 0x10F1000004
  | .STACK_POWER_MAX => 0x10F1000008
  | .STACK_CAP_EVT => 0x10F100000C
  | .STACK_ERR => 0x10F1000010
  | .STACK_SVC => 0x10F1000020
  | .HBM_CTRL => 0x110000000
  | .HBM_STATUS => 0x110000004
  | .HBM_ERR => 0x110000008
  | .HBM_ECC_CORR_LO => 0x110000010
  | .HBM_ECC_CORR_HI => 0x110000014
  | .HBM_ECC_UNCORR => 0x110000018
  | .HBM_ECC_LAST_LO => 0x11000001C
  | .HBM_ECC_LAST_HI => 0x110000020
  | .HBM_UE_LIMIT => 0x110000024
  | .HBM_SCRUB => 0x110000028
  | .HBM_TEMP => 0x11000002C
  | .HBM_PPR => 0x110000030
  | .HBM_READ_BYTES_LO => 0x110000040
  | .HBM_READ_BYTES_HI => 0x110000044
  | .HBM_WRITE_BYTES_LO => 0x110000048
  | .HBM_WRITE_BYTES_HI => 0x11000004C
  | .HBM_WP0 => 0x110000100
  | .HBM_WP1 => 0x110000104
  | .HBM_WP2 => 0x110000108
  | .HBM_WP3 => 0x11000010C
  | .TRK_CTRL => 0x110000200
  | .TRK_TIME => 0x110000204
  | .TRK_REGION0 => 0x110000300
  | .TRK_REGION1 => 0x110000304
  | .TRK_REGION2 => 0x110000308
  | .TRK_REGION3 => 0x11000030C
  | .TRK_HIT => 0x110000400
  | .TRK_MISS => 0x110000404
  | .TRK_PF_LINES => 0x110000408
  | .TRK_PF_UNUSED => 0x11000040C
  | .TRK_STEAL => 0x110000410
  | .TRK_STATUS => 0x110000414
  | .WIN_MASK => 0x108F00000
  | .WIN_IN_FORCE => 0x108F00004
  | .WIN_APPLY_LO => 0x108F00008
  | .WIN_APPLY_HI => 0x108F0000C
  | .WIN_CTRL => 0x108F00010
  | .WIN_ERR => 0x108F00014
  | .WG_INFO => 0x105000000
  | .WG_CTRL => 0x105000004
  | .WG_STATUS => 0x105000008
  | .WG_ROT => 0x10500000C
  | .WG_EVT => 0x105000010
  | .WG_CRC => 0x105000014
  | .WG_REPLAY => 0x105000018
  | .WG_STATUS2 => 0x10500001C
  | .RING_TX => 0x105000100
  | .RING_RX => 0x105000104
  | .LANE_CTRL => 0x105800000
  | .LANE_THRESH => 0x105800004
  | .LANE_LINKDOWN => 0x105800008
  | .LANE_TOTAL => 0x10580000C
  | .LANE_LOCKLOSS_LO => 0x105800010
  | .LANE_LOCKLOSS_HI => 0x105800014
  | .LANE_ERR => 0x105800018
  | .LANT_CTRL => 0x104000000
  | .LANT_APC => 0x104000004
  | .LANT_THRESH => 0x104000008
  | .LANT_ERR => 0x10400000C
  | .MOD_STATUS => 0x104000100
  | .MOD_CTRL => 0x104000104
  | .MOD_EVT => 0x104000108
  | .FEED => 0x104001000
  | .FEED_SEL => 0x104008000
  | .LANT_I2C => 0x104009000
  | .LANT_I2C_DATA => 0x104009004
  | .YARD_CTRL => 0x107000000
  | .YARD_ID => 0x107000004
  | .YARD_STATUS => 0x107000008
  | .YARD_TIMING => 0x10700000C
  | .YARD_LEDGER => 0x107000010
  | .YARD_HB => 0x107000014
  | .YARD_JOIN => 0x107000018
  | .YARD_ERR => 0x10700001C
  | .GATE_STACK_SVC => 0x107000020
  | .YLINK_CTRL => 0x107001000
  | .YLINK_STATUS => 0x107001004
  | .YLINK_FEC_CORR => 0x107001008
  | .YLINK_FEC_UNCORR => 0x10700100C
  | .YLINK_REPLAY => 0x107001010
  | .YLINK_CH_DROP => 0x107001014
  | .YLINK_FLITS_LO => 0x107001018
  | .YLINK_FLITS_HI => 0x10700101C
  | .PEER_STATUS => 0x107002000
  | .PEER_HB_LO => 0x107002004
  | .PEER_HB_HI => 0x107002008
  | .MCAST_GROUP => 0x107004000
  | .YSCHED_CTRL => 0x107007000
  | .YSCHED_START_LO => 0x107007004
  | .YSCHED_START_HI => 0x107007008
  | .YSCHED => 0x107008000
  | .PORT_CTRL => 0x108000000
  | .PORT_STATUS => 0x108000004
  | .PORT_RESET_BEAT_LO => 0x108000008
  | .PORT_RESET_BEAT_HI => 0x10800000C
  | .TAG_STALL => 0x108000010
  | .LEDGER_HIT => 0x108000014
  | .LEDGER_UNKNOWN => 0x108000018
  | .RETRY_APPLIED => 0x10800001C
  | .LEDGER_EXPIRED => 0x108000020
  | .LEDGER_HOLD_BEATS => 0x108000024
  | .PORT_MALFORMED => 0x108000028
  | .SRC_CREDIT_STALL => 0x10800002C
  | .HOT => 0x108000030
  | .HOT_ADDR_LO => 0x108000034
  | .HOT_ADDR_HI => 0x108000038
  | .HOT_THRESH => 0x10800003C
  | .PORT_LOSS0 => 0x108000100
  | .PORT_LOSS1 => 0x108000104
  | .PORT_LOSS2 => 0x108000108
  | .PORT_LOSS3 => 0x10800010C
  | .ETH_CTRL => 0x106000000
  | .ETH_STATUS => 0x106000004
  | .ETH_VLAN => 0x106000008
  | .ETH_MTU => 0x10600000C
  | .ETH_PFC => 0x106000010
  | .ETH_CC => 0x106000014
  | .ETH_IP4 => 0x106000040
  | .ETH_GW4 => 0x106000044
  | .ETH_PREFIX => 0x106000048
  | .ETH_IP6 => 0x106000050
  | .ETH_GW6 => 0x106000060
  | .ETH_RX_FRAMES_LO => 0x106000100
  | .ETH_RX_FRAMES_HI => 0x106000104
  | .ETH_TX_FRAMES_LO => 0x106000108
  | .ETH_TX_FRAMES_HI => 0x10600010C
  | .ETH_FEC_CORR => 0x106000110
  | .ETH_FEC_UNCORR => 0x106000114
  | .ETH_DROPS => 0x106000118
  | .ETH_PFC_CNT => 0x10600011C
  | .ETH_CNP_CNT => 0x106000120
  | .ETH_CNP_ICRC => 0x106000124
  | .ETH_LEASE => 0x106008000
  | .ETH_ADOPT => 0x106008004
  | .ETH_RDMA_ERR => 0x106008008
  | .ETH_ERR => 0x10600800C
  | .ETH_SESSION_LOST => 0x106008010
  | .HEAD_ERR => 0x106008014
  | .OWNER_ADDR => 0x106008100
  | .OWNER_CTL => 0x106008110
  | .PWR_CTRL => 0x101000000
  | .PWR_STATUS => 0x101000004
  | .PWR_THR => 0x101000008
  | .PWR_PKG => 0x10100000C
  | .PWR_DIODE_CFG => 0x101000010
  | .PWR_COOL => 0x101000014
  | .PWR_COOL_T => 0x101000018
  | .PWR_PKG_POWER => 0x101000020
  | .PWR_PKG_MAX => 0x101000024
  | .PWR_PKG_OVER => 0x101000028
  | .PWR_ERR => 0x10100002C
  | .RAIL_V => 0x101001000
  | .RAIL_I => 0x101001004
  | .RAIL_P => 0x101001008
  | .RAIL_STATUS => 0x10100100C
  | .RAIL_FAULTS => 0x101001010
  | .RAIL_ENERGY_LO => 0x101001014
  | .RAIL_ENERGY_HI => 0x101001018
  | .HALF_THERMAL0 => 0x101002000
  | .HALF_THERMAL1 => 0x101002004
  | .HALF_THERMAL2 => 0x101002008
  | .NODE_T => 0x101004000
  | .DIODE0 => 0x101006000
  | .DIODE1 => 0x101006004
  | .CAL_CTRL => 0x132000000
  | .CAL_STATUS => 0x132000004
  | .CAL_APPLY_LO => 0x132000008
  | .CAL_APPLY_HI => 0x13200000C
  | .CAL_IN_FORCE_LO => 0x132000010
  | .CAL_IN_FORCE_HI => 0x132000014
  | .CAL_ERR => 0x132000018
  | .CAL_RESULT0 => 0x132001000
  | .CAL_RESULT1 => 0x132001004
  | .CAL_RESULT2 => 0x132001008
  | .CAL_RESULT3 => 0x13200100C
  | .TACK_STATUS => 0x103000000
  | .TACK_ID => 0x103000010
  | .TACK_IMAGE_SEQ_LO => 0x103000020
  | .TACK_IMAGE_SEQ_HI => 0x103000024
  | .TACK_FW_VERSION => 0x103000028
  | .TACK_CONFIG => 0x10300002C
  | .TACK_CTRL => 0x103000030
  | .TACK_SIGN_STATUS => 0x103000034
  | .TACK_ERR => 0x103000038
  | .TACK_SIGN_HASH => 0x103000040
  | .TACK_SIGN_OUT => 0x103000080
  | .TACK_PHASE_BEAT_LO => 0x103000100
  | .TACK_PHASE_BEAT_HI => 0x103000104
  | .RM_CTRL => 0x131000000
  | .RM_STATUS => 0x131000004
  | .RM_KICK => 0x131000008
  | .RM_TIMING => 0x13100000C
  | .RM_CAROUSEL => 0x131000010
  | .RM_CONFIRM => 0x131000014
  | .RM_SWAP_NONCE => 0x131000018
  | .RM_SWAP_CHECK => 0x13100001C
  | .RM_EVT => 0x131000020
  | .RM_SWAPS => 0x131000024
  | .RM_ERR => 0x131000028
  | .RM_DECODE_LO => 0x131000030
  | .RM_DECODE_HI => 0x131000034
  | .RM_DECODE_CNT => 0x131000038
  | .RM_ABORT_LO => 0x131000040
  | .RM_ABORT_HI => 0x131000044
  | .RM_UPDATE => 0x131000050
  | .RM_FW_VERSION => 0x131000054
  | .RM_LOSS0 => 0x131002000
  | .RM_LOSS1 => 0x131002004
  | .RM_LOSS2 => 0x131002008
  | .RM_LOSS3 => 0x13100200C
  | .RM_LOSS_LOST => 0x131002400
  | .RM_HANDOFF => 0x131010000
  | .FAR_CTRL => 0x133000000
  | .FAR_PERIOD => 0x133000004
  | .FAR_STATUS => 0x133000008
  | .FAR_EVT => 0x13300000C
  | .FAR_MOVE_LAST => 0x133000010
  | .FAR_MOVE_BEATS => 0x133000014
  | .FAR_ERR => 0x133000018
  | .FAR_LIMITS => 0x133000020
  | .FAR_BARN => 0x133000100
  | .FAR_SITE => 0x133100000
  | .FAR_TAP => 0x133200000
  | .RST_CTRL => 0x130000000
  | .RST_BASE_LO => 0x130000004
  | .RST_BASE_HI => 0x130000008
  | .RST_SEG => 0x13000000C
  | .RST_INTERVAL => 0x130000010
  | .RST_STATUS => 0x130000014
  | .RST_CHUNKS_LO => 0x130000018
  | .RST_CHUNKS_HI => 0x13000001C
  | .RST_DROP => 0x130000020
  | .RST_ERR => 0x130000024
  | .TRC_HANG_CTRL => 0x130001000
  | .TRC_HANG_CONFIRM => 0x130001004
  | .TRC_HANG_MAP => 0x130001100
  | .TRC_SNAP_BASE_LO => 0x130002000
  | .TRC_SNAP_BASE_HI => 0x130002004
  | .TRC_SNAP_BYTES => 0x130002008
  | .BRK_CTRL => 0x102000000
  | .BRK_CLAIM => 0x102000004
  | .BRK_CLAIMED => 0x102000008
  | .BRK_COMPLETE => 0x10200000C
  | .BRK_STATUS => 0x102000010
  | .BRK_STRAY => 0x102000014
  | .BRK_STRAY_LAST => 0x102000018
  | .BRK_PENDING => 0x102001000
  | .BRK_SET => 0x102001100
  | .BRK_ENABLE => 0x102001200
  | .BRK_INSERVICE => 0x102001300
  | .BRK_RAISED => 0x102002000

/-- The index dimensions: how many, and how far apart; outermost first. -/
def RegName.dims : RegName → List (Nat × Nat)
  | .BEAT_CTRL => []
  | .BEAT_STATUS => []
  | .BEAT_NOW_LO => []
  | .BEAT_NOW_HI => []
  | .BEAT_LOAD_LO => []
  | .BEAT_LOAD_HI => []
  | .CLK_ERR => []
  | .REF_LOSS_CNT => []
  | .SYNC_MISMATCH_CNT => []
  | .SYNC_LAST_OFFSET => []
  | .HALF_OPP => [(16, 0x40)]
  | .HALF_STATUS => [(16, 0x40)]
  | .HALF_CHANGE_BEAT_LO => [(16, 0x40)]
  | .HALF_CHANGE_BEAT_HI => [(16, 0x40)]
  | .HALF_THROTTLE => [(16, 0x40)]
  | .OPP_ENTRY => [(16, 0x20), (8, 0x4)]
  | .REGION_CLK_CTRL => [(64, 0x20)]
  | .REGION_CLK_STATUS => [(64, 0x20)]
  | .REGION_STRETCH_LO => [(64, 0x20)]
  | .REGION_STRETCH_HI => [(64, 0x20)]
  | .REGION_STRETCH_SAT => [(64, 0x20)]
  | .TILE_ID => [(8, 0x100000000), (768, 0x100000)]
  | .TILE_CTRL => [(8, 0x100000000), (768, 0x100000)]
  | .TILE_STATUS => [(8, 0x100000000), (768, 0x100000)]
  | .TILE_BOOT => [(8, 0x100000000), (768, 0x100000)]
  | .EVENT_POST => [(8, 0x100000000), (768, 0x100000)]
  | .WAIT_STATE => [(8, 0x100000000), (768, 0x100000)]
  | .WAIT_TARGET_LO => [(8, 0x100000000), (768, 0x100000)]
  | .WAIT_TARGET_HI => [(8, 0x100000000), (768, 0x100000)]
  | .WAIT_START_LO => [(8, 0x100000000), (768, 0x100000)]
  | .WAIT_START_HI => [(8, 0x100000000), (768, 0x100000)]
  | .SLOT_STATUS => [(8, 0x100000000), (768, 0x100000)]
  | .TILE_SLOT_STALL => [(8, 0x100000000), (768, 0x100000)]
  | .STRAY_REPLY => [(8, 0x100000000), (768, 0x100000)]
  | .RESET_DROP => [(8, 0x100000000), (768, 0x100000)]
  | .FAULT_LOST => [(8, 0x100000000), (768, 0x100000)]
  | .SRAM_APERTURE => [(8, 0x100000000), (768, 0x100000)]
  | .QUEUE_STATUS => [(8, 0x100000000), (768, 0x100000), (6, 0x10)]
  | .QUEUE_ERR => [(8, 0x100000000), (768, 0x100000), (6, 0x10)]
  | .AC => [(8, 0x100000000), (768, 0x100000), (32, 0x4)]
  | .CC => [(8, 0x100000000), (768, 0x100000), (16, 0x4)]
  | .GREG_LO => [(8, 0x100000000), (768, 0x100000), (32, 0x8)]
  | .GREG_HI => [(8, 0x100000000), (768, 0x100000), (32, 0x8)]
  | .RTR_CTRL => [(8, 0x100000000), (768, 0x100000)]
  | .RTR_STATUS => [(8, 0x100000000), (768, 0x100000)]
  | .RTR_ERR => [(8, 0x100000000), (768, 0x100000)]
  | .SCHED_START_LO => [(8, 0x100000000), (768, 0x100000)]
  | .SCHED_START_HI => [(8, 0x100000000), (768, 0x100000)]
  | .RTR_TAP => [(8, 0x100000000), (768, 0x100000)]
  | .RTR_FWD => [(8, 0x100000000), (768, 0x100000)]
  | .PORT_FLITS_LO => [(8, 0x100000000), (768, 0x100000), (6, 0x40)]
  | .PORT_FLITS_HI => [(8, 0x100000000), (768, 0x100000), (6, 0x40)]
  | .PORT_SCHED_FLITS => [(8, 0x100000000), (768, 0x100000), (6, 0x40)]
  | .PORT_CREDIT_STALL => [(8, 0x100000000), (768, 0x100000), (6, 0x40)]
  | .PORT_SLIP => [(8, 0x100000000), (768, 0x100000), (6, 0x40)]
  | .PORT_LATE_FRAMES => [(8, 0x100000000), (768, 0x100000), (6, 0x40)]
  | .PORT_GUARD_WAIT => [(8, 0x100000000), (768, 0x100000), (6, 0x40)]
  | .RPORT_MALFORMED => [(8, 0x100000000), (768, 0x100000), (6, 0x40)]
  | .PORT_ESC_PKTS => [(8, 0x100000000), (768, 0x100000), (6, 0x40)]
  | .PORT_ECC => [(8, 0x100000000), (768, 0x100000), (6, 0x40)]
  | .PORT_BUF => [(8, 0x100000000), (768, 0x100000), (6, 0x40)]
  | .TAP_STATUS => [(8, 0x100000000), (768, 0x100000)]
  | .TAP_CRC => [(8, 0x100000000), (768, 0x100000)]
  | .TAP_REPLAY => [(8, 0x100000000), (768, 0x100000)]
  | .SCHED_SLOT => [(8, 0x100000000), (768, 0x100000), (64, 0x4)]
  | .FLOW_SRC => [(8, 0x100000000), (768, 0x100000), (32, 0x20)]
  | .FLOW_LEN => [(8, 0x100000000), (768, 0x100000), (32, 0x20)]
  | .FLOW_RING => [(8, 0x100000000), (768, 0x100000), (32, 0x20)]
  | .FLOW_PTR => [(8, 0x100000000), (768, 0x100000), (32, 0x20)]
  | .FLOW_AC => [(8, 0x100000000), (768, 0x100000), (32, 0x20)]
  | .FLOW_TARGET => [(8, 0x100000000), (768, 0x100000), (32, 0x20)]
  | .FLOW_SENT => [(8, 0x100000000), (768, 0x100000), (32, 0x20)]
  | .FLOW_SKIP => [(8, 0x100000000), (768, 0x100000), (32, 0x20)]
  | .SINK_DST => [(8, 0x100000000), (768, 0x100000), (32, 0x20)]
  | .SINK_RING => [(8, 0x100000000), (768, 0x100000), (32, 0x20)]
  | .SINK_PTR => [(8, 0x100000000), (768, 0x100000), (32, 0x20)]
  | .SINK_CTR => [(8, 0x100000000), (768, 0x100000), (32, 0x20)]
  | .SINK_LEN => [(8, 0x100000000), (768, 0x100000), (32, 0x20)]
  | .SINK_RECV => [(8, 0x100000000), (768, 0x100000), (32, 0x20)]
  | .SINK_DROP => [(8, 0x100000000), (768, 0x100000), (32, 0x20)]
  | .MAP => [(8, 0x100000000), (768, 0x100000), (704, 0x4)]
  | .ROUTE => [(8, 0x100000000), (768, 0x100000), (768, 0x4)]
  | .LOFT_CTRL => [(8, 0x100000000), (768, 0x100000)]
  | .LOFT_STATUS => [(8, 0x100000000), (768, 0x100000)]
  | .LOFT_ERR => [(8, 0x100000000), (768, 0x100000)]
  | .LOFT_INV => [(8, 0x100000000), (768, 0x100000)]
  | .LOFT_CACHE_BASE_LO => [(8, 0x100000000), (768, 0x100000)]
  | .LOFT_CACHE_BASE_HI => [(8, 0x100000000), (768, 0x100000)]
  | .LOFT_CACHE_LEN_LO => [(8, 0x100000000), (768, 0x100000)]
  | .LOFT_CACHE_LEN_HI => [(8, 0x100000000), (768, 0x100000)]
  | .LOFT_ECC => [(8, 0x100000000), (768, 0x100000)]
  | .LOFT_POISON_ADDR => [(8, 0x100000000), (768, 0x100000)]
  | .LOFT_COIL_CRC => [(8, 0x100000000), (768, 0x100000)]
  | .LOFT_COIL_REPLAY => [(8, 0x100000000), (768, 0x100000)]
  | .LOFT_CACHE_HIT => [(8, 0x100000000), (768, 0x100000)]
  | .LOFT_CACHE_MISS => [(8, 0x100000000), (768, 0x100000)]
  | .LOFT_READ_BYTES_LO => [(8, 0x100000000), (768, 0x100000)]
  | .LOFT_READ_BYTES_HI => [(8, 0x100000000), (768, 0x100000)]
  | .LOFT_WRITE_BYTES_LO => [(8, 0x100000000), (768, 0x100000)]
  | .LOFT_WRITE_BYTES_HI => [(8, 0x100000000), (768, 0x100000)]
  | .TRC_TILE_CTRL => [(8, 0x100000000), (768, 0x100000)]
  | .TRC_TILE_STATUS => [(8, 0x100000000), (768, 0x100000)]
  | .TRC_DROP => [(8, 0x100000000), (768, 0x100000)]
  | .TRC_TILE_ERR => [(8, 0x100000000), (768, 0x100000)]
  | .TRC_LOCAL_BASE => [(8, 0x100000000), (768, 0x100000)]
  | .TRC_LOCAL_LEN => [(8, 0x100000000), (768, 0x100000)]
  | .TRC_UTIL_LO => [(8, 0x100000000), (768, 0x100000), (9, 0x8)]
  | .TRC_UTIL_HI => [(8, 0x100000000), (768, 0x100000), (9, 0x8)]
  | .SLOT_ENTRY0 => [(8, 0x100000000), (768, 0x100000), (64, 0x10)]
  | .SLOT_ENTRY1 => [(8, 0x100000000), (768, 0x100000), (64, 0x10)]
  | .SLOT_ENTRY2 => [(8, 0x100000000), (768, 0x100000), (64, 0x10)]
  | .SLOT_ENTRY3 => [(8, 0x100000000), (768, 0x100000), (64, 0x10)]
  | .TRC_BUFFER => [(8, 0x100000000), (768, 0x100000), (4096, 0x4)]
  | .RT_CTRL => [(8, 0x100000000)]
  | .RT_STATUS => [(8, 0x100000000)]
  | .RT_PARENT => [(8, 0x100000000), (768, 0x4)]
  | .RT_MAP => [(8, 0x100000000), (704, 0x4)]
  | .STACK_CAP => [(8, 0x100000000)]
  | .STACK_POWER => [(8, 0x100000000)]
  | .STACK_POWER_MAX => [(8, 0x100000000)]
  | .STACK_CAP_EVT => [(8, 0x100000000)]
  | .STACK_ERR => [(8, 0x100000000)]
  | .STACK_SVC => [(8, 0x100000000)]
  | .HBM_CTRL => [(20, 0x1000000)]
  | .HBM_STATUS => [(20, 0x1000000)]
  | .HBM_ERR => [(20, 0x1000000)]
  | .HBM_ECC_CORR_LO => [(20, 0x1000000)]
  | .HBM_ECC_CORR_HI => [(20, 0x1000000)]
  | .HBM_ECC_UNCORR => [(20, 0x1000000)]
  | .HBM_ECC_LAST_LO => [(20, 0x1000000)]
  | .HBM_ECC_LAST_HI => [(20, 0x1000000)]
  | .HBM_UE_LIMIT => [(20, 0x1000000)]
  | .HBM_SCRUB => [(20, 0x1000000)]
  | .HBM_TEMP => [(20, 0x1000000)]
  | .HBM_PPR => [(20, 0x1000000)]
  | .HBM_READ_BYTES_LO => [(20, 0x1000000)]
  | .HBM_READ_BYTES_HI => [(20, 0x1000000)]
  | .HBM_WRITE_BYTES_LO => [(20, 0x1000000)]
  | .HBM_WRITE_BYTES_HI => [(20, 0x1000000)]
  | .HBM_WP0 => [(20, 0x1000000), (8, 0x10)]
  | .HBM_WP1 => [(20, 0x1000000), (8, 0x10)]
  | .HBM_WP2 => [(20, 0x1000000), (8, 0x10)]
  | .HBM_WP3 => [(20, 0x1000000), (8, 0x10)]
  | .TRK_CTRL => [(20, 0x1000000)]
  | .TRK_TIME => [(20, 0x1000000)]
  | .TRK_REGION0 => [(20, 0x1000000), (8, 0x10)]
  | .TRK_REGION1 => [(20, 0x1000000), (8, 0x10)]
  | .TRK_REGION2 => [(20, 0x1000000), (8, 0x10)]
  | .TRK_REGION3 => [(20, 0x1000000), (8, 0x10)]
  | .TRK_HIT => [(20, 0x1000000)]
  | .TRK_MISS => [(20, 0x1000000)]
  | .TRK_PF_LINES => [(20, 0x1000000)]
  | .TRK_PF_UNUSED => [(20, 0x1000000)]
  | .TRK_STEAL => [(20, 0x1000000)]
  | .TRK_STATUS => [(20, 0x1000000)]
  | .WIN_MASK => []
  | .WIN_IN_FORCE => []
  | .WIN_APPLY_LO => []
  | .WIN_APPLY_HI => []
  | .WIN_CTRL => []
  | .WIN_ERR => []
  | .WG_INFO => [(502, 0x400)]
  | .WG_CTRL => [(502, 0x400)]
  | .WG_STATUS => [(502, 0x400)]
  | .WG_ROT => [(502, 0x400)]
  | .WG_EVT => [(502, 0x400)]
  | .WG_CRC => [(502, 0x400)]
  | .WG_REPLAY => [(502, 0x400)]
  | .WG_STATUS2 => [(502, 0x400)]
  | .RING_TX => [(502, 0x400), (2, 0x80), (16, 0x8)]
  | .RING_RX => [(502, 0x400), (2, 0x80), (16, 0x8)]
  | .LANE_CTRL => []
  | .LANE_THRESH => []
  | .LANE_LINKDOWN => []
  | .LANE_TOTAL => []
  | .LANE_LOCKLOSS_LO => []
  | .LANE_LOCKLOSS_HI => []
  | .LANE_ERR => []
  | .LANT_CTRL => []
  | .LANT_APC => []
  | .LANT_THRESH => []
  | .LANT_ERR => []
  | .MOD_STATUS => [(8, 0x20)]
  | .MOD_CTRL => [(8, 0x20)]
  | .MOD_EVT => [(8, 0x20)]
  | .FEED => [(8, 0x100), (60, 0x4)]
  | .FEED_SEL => [(16, 0x80), (24, 0x4)]
  | .LANT_I2C => []
  | .LANT_I2C_DATA => []
  | .YARD_CTRL => []
  | .YARD_ID => []
  | .YARD_STATUS => []
  | .YARD_TIMING => []
  | .YARD_LEDGER => []
  | .YARD_HB => []
  | .YARD_JOIN => []
  | .YARD_ERR => []
  | .GATE_STACK_SVC => []
  | .YLINK_CTRL => [(32, 0x40)]
  | .YLINK_STATUS => [(32, 0x40)]
  | .YLINK_FEC_CORR => [(32, 0x40)]
  | .YLINK_FEC_UNCORR => [(32, 0x40)]
  | .YLINK_REPLAY => [(32, 0x40)]
  | .YLINK_CH_DROP => [(32, 0x40)]
  | .YLINK_FLITS_LO => [(32, 0x40)]
  | .YLINK_FLITS_HI => [(32, 0x40)]
  | .PEER_STATUS => [(16, 0x10)]
  | .PEER_HB_LO => [(16, 0x10)]
  | .PEER_HB_HI => [(16, 0x10)]
  | .MCAST_GROUP => [(256, 0x4)]
  | .YSCHED_CTRL => []
  | .YSCHED_START_LO => []
  | .YSCHED_START_HI => []
  | .YSCHED => [(32, 0x100), (64, 0x4)]
  | .PORT_CTRL => [(32, 0x10000)]
  | .PORT_STATUS => [(32, 0x10000)]
  | .PORT_RESET_BEAT_LO => [(32, 0x10000)]
  | .PORT_RESET_BEAT_HI => [(32, 0x10000)]
  | .TAG_STALL => [(32, 0x10000)]
  | .LEDGER_HIT => [(32, 0x10000)]
  | .LEDGER_UNKNOWN => [(32, 0x10000)]
  | .RETRY_APPLIED => [(32, 0x10000)]
  | .LEDGER_EXPIRED => [(32, 0x10000)]
  | .LEDGER_HOLD_BEATS => [(32, 0x10000)]
  | .PORT_MALFORMED => [(32, 0x10000)]
  | .SRC_CREDIT_STALL => [(32, 0x10000)]
  | .HOT => [(32, 0x10000)]
  | .HOT_ADDR_LO => [(32, 0x10000)]
  | .HOT_ADDR_HI => [(32, 0x10000)]
  | .HOT_THRESH => [(32, 0x10000)]
  | .PORT_LOSS0 => [(32, 0x10000), (16, 0x10)]
  | .PORT_LOSS1 => [(32, 0x10000), (16, 0x10)]
  | .PORT_LOSS2 => [(32, 0x10000), (16, 0x10)]
  | .PORT_LOSS3 => [(32, 0x10000), (16, 0x10)]
  | .ETH_CTRL => [(4, 0x1000)]
  | .ETH_STATUS => [(4, 0x1000)]
  | .ETH_VLAN => [(4, 0x1000)]
  | .ETH_MTU => [(4, 0x1000)]
  | .ETH_PFC => [(4, 0x1000)]
  | .ETH_CC => [(4, 0x1000)]
  | .ETH_IP4 => [(4, 0x1000)]
  | .ETH_GW4 => [(4, 0x1000)]
  | .ETH_PREFIX => [(4, 0x1000)]
  | .ETH_IP6 => [(4, 0x1000), (4, 0x4)]
  | .ETH_GW6 => [(4, 0x1000), (4, 0x4)]
  | .ETH_RX_FRAMES_LO => [(4, 0x1000)]
  | .ETH_RX_FRAMES_HI => [(4, 0x1000)]
  | .ETH_TX_FRAMES_LO => [(4, 0x1000)]
  | .ETH_TX_FRAMES_HI => [(4, 0x1000)]
  | .ETH_FEC_CORR => [(4, 0x1000)]
  | .ETH_FEC_UNCORR => [(4, 0x1000)]
  | .ETH_DROPS => [(4, 0x1000)]
  | .ETH_PFC_CNT => [(4, 0x1000)]
  | .ETH_CNP_CNT => [(4, 0x1000)]
  | .ETH_CNP_ICRC => [(4, 0x1000)]
  | .ETH_LEASE => []
  | .ETH_ADOPT => []
  | .ETH_RDMA_ERR => []
  | .ETH_ERR => []
  | .ETH_SESSION_LOST => []
  | .HEAD_ERR => []
  | .OWNER_ADDR => [(16, 0x20), (4, 0x4)]
  | .OWNER_CTL => [(16, 0x20)]
  | .PWR_CTRL => []
  | .PWR_STATUS => []
  | .PWR_THR => []
  | .PWR_PKG => []
  | .PWR_DIODE_CFG => []
  | .PWR_COOL => []
  | .PWR_COOL_T => []
  | .PWR_PKG_POWER => []
  | .PWR_PKG_MAX => []
  | .PWR_PKG_OVER => []
  | .PWR_ERR => []
  | .RAIL_V => [(45, 0x20)]
  | .RAIL_I => [(45, 0x20)]
  | .RAIL_P => [(45, 0x20)]
  | .RAIL_STATUS => [(45, 0x20)]
  | .RAIL_FAULTS => [(45, 0x20)]
  | .RAIL_ENERGY_LO => [(45, 0x20)]
  | .RAIL_ENERGY_HI => [(45, 0x20)]
  | .HALF_THERMAL0 => [(16, 0x10)]
  | .HALF_THERMAL1 => [(16, 0x10)]
  | .HALF_THERMAL2 => [(16, 0x10)]
  | .NODE_T => [(468, 0x4)]
  | .DIODE0 => [(24, 0x10)]
  | .DIODE1 => [(24, 0x10)]
  | .CAL_CTRL => []
  | .CAL_STATUS => []
  | .CAL_APPLY_LO => []
  | .CAL_APPLY_HI => []
  | .CAL_IN_FORCE_LO => []
  | .CAL_IN_FORCE_HI => []
  | .CAL_ERR => []
  | .CAL_RESULT0 => [(115, 0x10)]
  | .CAL_RESULT1 => [(115, 0x10)]
  | .CAL_RESULT2 => [(115, 0x10)]
  | .CAL_RESULT3 => [(115, 0x10)]
  | .TACK_STATUS => []
  | .TACK_ID => [(4, 0x4)]
  | .TACK_IMAGE_SEQ_LO => []
  | .TACK_IMAGE_SEQ_HI => []
  | .TACK_FW_VERSION => []
  | .TACK_CONFIG => []
  | .TACK_CTRL => []
  | .TACK_SIGN_STATUS => []
  | .TACK_ERR => []
  | .TACK_SIGN_HASH => [(8, 0x4)]
  | .TACK_SIGN_OUT => [(16, 0x4)]
  | .TACK_PHASE_BEAT_LO => [(7, 0x8)]
  | .TACK_PHASE_BEAT_HI => [(7, 0x8)]
  | .RM_CTRL => []
  | .RM_STATUS => []
  | .RM_KICK => []
  | .RM_TIMING => []
  | .RM_CAROUSEL => []
  | .RM_CONFIRM => []
  | .RM_SWAP_NONCE => []
  | .RM_SWAP_CHECK => []
  | .RM_EVT => []
  | .RM_SWAPS => []
  | .RM_ERR => []
  | .RM_DECODE_LO => []
  | .RM_DECODE_HI => []
  | .RM_DECODE_CNT => []
  | .RM_ABORT_LO => []
  | .RM_ABORT_HI => []
  | .RM_UPDATE => []
  | .RM_FW_VERSION => []
  | .RM_LOSS0 => [(64, 0x10)]
  | .RM_LOSS1 => [(64, 0x10)]
  | .RM_LOSS2 => [(64, 0x10)]
  | .RM_LOSS3 => [(64, 0x10)]
  | .RM_LOSS_LOST => []
  | .RM_HANDOFF => [(16384, 0x4)]
  | .FAR_CTRL => []
  | .FAR_PERIOD => []
  | .FAR_STATUS => []
  | .FAR_EVT => []
  | .FAR_MOVE_LAST => []
  | .FAR_MOVE_BEATS => []
  | .FAR_ERR => []
  | .FAR_LIMITS => []
  | .FAR_BARN => [(8, 0x10)]
  | .FAR_SITE => [(8, 0x1000), (768, 0x4)]
  | .FAR_TAP => [(8, 0x100), (64, 0x4)]
  | .RST_CTRL => [(8, 0x40)]
  | .RST_BASE_LO => [(8, 0x40)]
  | .RST_BASE_HI => [(8, 0x40)]
  | .RST_SEG => [(8, 0x40)]
  | .RST_INTERVAL => [(8, 0x40)]
  | .RST_STATUS => [(8, 0x40)]
  | .RST_CHUNKS_LO => [(8, 0x40)]
  | .RST_CHUNKS_HI => [(8, 0x40)]
  | .RST_DROP => [(8, 0x40)]
  | .RST_ERR => [(8, 0x40)]
  | .TRC_HANG_CTRL => []
  | .TRC_HANG_CONFIRM => []
  | .TRC_HANG_MAP => [(8, 0x80), (24, 0x4)]
  | .TRC_SNAP_BASE_LO => []
  | .TRC_SNAP_BASE_HI => []
  | .TRC_SNAP_BYTES => []
  | .BRK_CTRL => []
  | .BRK_CLAIM => []
  | .BRK_CLAIMED => []
  | .BRK_COMPLETE => []
  | .BRK_STATUS => []
  | .BRK_STRAY => []
  | .BRK_STRAY_LAST => []
  | .BRK_PENDING => [(16, 0x4)]
  | .BRK_SET => [(16, 0x4)]
  | .BRK_ENABLE => [(16, 0x4)]
  | .BRK_INSERVICE => [(16, 0x4)]
  | .BRK_RAISED => [(512, 0x4)]

/-- The fields that the spec's table gives the register; bits outside them are reserved (R8). -/
def RegName.fields : RegName → List Field
  | .BEAT_CTRL => [Fld.BEAT_CTRL_SYNC_EN, Fld.BEAT_CTRL_LOAD_ARM, Fld.BEAT_CTRL_HOLDOVER_FORCE]
  | .BEAT_STATUS => [Fld.BEAT_STATUS_REF_OK, Fld.BEAT_STATUS_HOLDOVER, Fld.BEAT_STATUS_REF_QUAL, Fld.BEAT_STATUS_SYNC_LOCKED, Fld.BEAT_STATUS_HOLD_ACTIVE]
  | .BEAT_NOW_LO => [Fld.BEAT_NOW_LO_BEAT]
  | .BEAT_NOW_HI => [Fld.BEAT_NOW_HI_BEAT]
  | .BEAT_LOAD_LO => [Fld.BEAT_LOAD_LO_LOAD]
  | .BEAT_LOAD_HI => [Fld.BEAT_LOAD_HI_LOAD]
  | .CLK_ERR => [Fld.CLK_ERR_BOUNDS, Fld.CLK_ERR_BUSY_REJ, Fld.CLK_ERR_LATE, Fld.CLK_ERR_PLL_LOSS]
  | .REF_LOSS_CNT => [Fld.REF_LOSS_CNT_CNT]
  | .SYNC_MISMATCH_CNT => [Fld.SYNC_MISMATCH_CNT_CNT]
  | .SYNC_LAST_OFFSET => [Fld.SYNC_LAST_OFFSET_OFFSET]
  | .HALF_OPP => [Fld.HALF_OPP_CUR, Fld.HALF_OPP_NEXT, Fld.HALF_OPP_COMMIT]
  | .HALF_STATUS => [Fld.HALF_STATUS_BUSY, Fld.HALF_STATUS_PLL_A_LOCK, Fld.HALF_STATUS_PLL_B_LOCK, Fld.HALF_STATUS_DRIVING, Fld.HALF_STATUS_LATE, Fld.HALF_STATUS_VOLT_OK]
  | .HALF_CHANGE_BEAT_LO => [Fld.HALF_CHANGE_BEAT_LO_BEAT]
  | .HALF_CHANGE_BEAT_HI => [Fld.HALF_CHANGE_BEAT_HI_BEAT]
  | .HALF_THROTTLE => [Fld.HALF_THROTTLE_SKIP, Fld.HALF_THROTTLE_SKIP_MAX]
  | .OPP_ENTRY => [Fld.OPP_ENTRY_FREQ_MHZ, Fld.OPP_ENTRY_VOLT_MV, Fld.OPP_ENTRY_VALID]
  | .REGION_CLK_CTRL => [Fld.REGION_CLK_CTRL_GATE, Fld.REGION_CLK_CTRL_STRETCH_EN, Fld.REGION_CLK_CTRL_STRETCH_MAX]
  | .REGION_CLK_STATUS => [Fld.REGION_CLK_STATUS_RUNNING, Fld.REGION_CLK_STATUS_STOP_CAUSE, Fld.REGION_CLK_STATUS_STRETCHING]
  | .REGION_STRETCH_LO => [Fld.REGION_STRETCH_LO_STRETCH]
  | .REGION_STRETCH_HI => [Fld.REGION_STRETCH_HI_STRETCH]
  | .REGION_STRETCH_SAT => [Fld.REGION_STRETCH_SAT_SAT]
  | .TILE_ID => [Fld.TILE_ID_X, Fld.TILE_ID_Y, Fld.TILE_ID_LOGICAL, Fld.TILE_ID_MAPPED, Fld.TILE_ID_SPARE]
  | .TILE_CTRL => [Fld.TILE_CTRL_RESET, Fld.TILE_CTRL_RUN, Fld.TILE_CTRL_CLEAR, Fld.TILE_CTRL_REMAP_POST]
  | .TILE_STATUS => [Fld.TILE_STATUS_HALTED, Fld.TILE_STATUS_HALT_CAUSE, Fld.TILE_STATUS_WAITING, Fld.TILE_STATUS_QUIESCENT, Fld.TILE_STATUS_IN_EXC, Fld.TILE_STATUS_SINCE_YIELD]
  | .TILE_BOOT => [Fld.TILE_BOOT_PC]
  | .EVENT_POST => [Fld.EVENT_POST_PENDING]
  | .WAIT_STATE => [Fld.WAIT_STATE_KIND, Fld.WAIT_STATE_INDEX]
  | .WAIT_TARGET_LO => [Fld.WAIT_TARGET_LO_TARGET]
  | .WAIT_TARGET_HI => [Fld.WAIT_TARGET_HI_TARGET]
  | .WAIT_START_LO => [Fld.WAIT_START_LO_START]
  | .WAIT_START_HI => [Fld.WAIT_START_HI_START]
  | .SLOT_STATUS => [Fld.SLOT_STATUS_SLOTS, Fld.SLOT_STATUS_HIGH]
  | .TILE_SLOT_STALL => [Fld.TILE_SLOT_STALL_STALL]
  | .STRAY_REPLY => [Fld.STRAY_REPLY_STRAY]
  | .RESET_DROP => [Fld.RESET_DROP_DROP]
  | .FAULT_LOST => [Fld.FAULT_LOST_LOST]
  | .SRAM_APERTURE => [Fld.SRAM_APERTURE_BASE]
  | .QUEUE_STATUS => [Fld.QUEUE_STATUS_OCCUPANCY, Fld.QUEUE_STATUS_BUSY, Fld.QUEUE_STATUS_DEPTH]
  | .QUEUE_ERR => [Fld.QUEUE_ERR_MALFORMED, Fld.QUEUE_ERR_DENIED, Fld.QUEUE_ERR_BOUNDS, Fld.QUEUE_ERR_OTHER]
  | .AC => [Fld.AC_VALUE]
  | .CC => [Fld.CC_VALUE]
  | .GREG_LO => [Fld.GREG_LO_G]
  | .GREG_HI => [Fld.GREG_HI_G]
  | .RTR_CTRL => [Fld.RTR_CTRL_ROUTER_ONLY, Fld.RTR_CTRL_SCHED_EN, Fld.RTR_CTRL_GUARD, Fld.RTR_CTRL_AGE_MAX]
  | .RTR_STATUS => [Fld.RTR_STATUS_LATE, Fld.RTR_STATUS_SCHED_ACTIVE, Fld.RTR_STATUS_FWD_ACTIVE]
  | .RTR_ERR => [Fld.RTR_ERR_BOUNDS, Fld.RTR_ERR_MALFORMED, Fld.RTR_ERR_BUSY_REJ, Fld.RTR_ERR_LANE_MISMATCH]
  | .SCHED_START_LO => [Fld.SCHED_START_LO_START]
  | .SCHED_START_HI => [Fld.SCHED_START_HI_START]
  | .RTR_TAP => [Fld.RTR_TAP_TAP_SITE]
  | .RTR_FWD => [Fld.RTR_FWD_SITE, Fld.RTR_FWD_EN]
  | .PORT_FLITS_LO => [Fld.PORT_FLITS_LO_FLITS]
  | .PORT_FLITS_HI => [Fld.PORT_FLITS_HI_FLITS]
  | .PORT_SCHED_FLITS => [Fld.PORT_SCHED_FLITS_CNT]
  | .PORT_CREDIT_STALL => [Fld.PORT_CREDIT_STALL_CNT]
  | .PORT_SLIP => [Fld.PORT_SLIP_CNT]
  | .PORT_LATE_FRAMES => [Fld.PORT_LATE_FRAMES_CNT]
  | .PORT_GUARD_WAIT => [Fld.PORT_GUARD_WAIT_CNT]
  | .RPORT_MALFORMED => [Fld.RPORT_MALFORMED_CNT]
  | .PORT_ESC_PKTS => [Fld.PORT_ESC_PKTS_CNT]
  | .PORT_ECC => [Fld.PORT_ECC_CORR, Fld.PORT_ECC_UNCORR]
  | .PORT_BUF => [Fld.PORT_BUF_VN0, Fld.PORT_BUF_VN1, Fld.PORT_BUF_VN2, Fld.PORT_BUF_VN3, Fld.PORT_BUF_ESC, Fld.PORT_BUF_SCHED]
  | .TAP_STATUS => [Fld.TAP_STATUS_IN_SERVICE, Fld.TAP_STATUS_RETIRED_LIVE]
  | .TAP_CRC => [Fld.TAP_CRC_CRC]
  | .TAP_REPLAY => [Fld.TAP_REPLAY_REPLAY]
  | .SCHED_SLOT => [Fld.SCHED_SLOT_N_SEL, Fld.SCHED_SLOT_N_ADD, Fld.SCHED_SLOT_E_SEL, Fld.SCHED_SLOT_E_ADD, Fld.SCHED_SLOT_S_SEL, Fld.SCHED_SLOT_S_ADD, Fld.SCHED_SLOT_W_SEL, Fld.SCHED_SLOT_W_ADD, Fld.SCHED_SLOT_SINK_SEL, Fld.SCHED_SLOT_SINK_ADD, Fld.SCHED_SLOT_SINK, Fld.SCHED_SLOT_FLOW, Fld.SCHED_SLOT_CONT]
  | .FLOW_SRC => [Fld.FLOW_SRC_SRC]
  | .FLOW_LEN => [Fld.FLOW_LEN_LEN, Fld.FLOW_LEN_FMT]
  | .FLOW_RING => [Fld.FLOW_RING_RING]
  | .FLOW_PTR => [Fld.FLOW_PTR_PTR]
  | .FLOW_AC => [Fld.FLOW_AC_AC, Fld.FLOW_AC_READY_EN, Fld.FLOW_AC_ENABLE]
  | .FLOW_TARGET => [Fld.FLOW_TARGET_TARGET]
  | .FLOW_SENT => [Fld.FLOW_SENT_SENT]
  | .FLOW_SKIP => [Fld.FLOW_SKIP_SKIP]
  | .SINK_DST => [Fld.SINK_DST_DST]
  | .SINK_RING => [Fld.SINK_RING_RING]
  | .SINK_PTR => [Fld.SINK_PTR_PTR]
  | .SINK_CTR => [Fld.SINK_CTR_ACTR, Fld.SINK_CTR_ACT_EN, Fld.SINK_CTR_ENABLE]
  | .SINK_LEN => [Fld.SINK_LEN_LEN]
  | .SINK_RECV => [Fld.SINK_RECV_RECV]
  | .SINK_DROP => [Fld.SINK_DROP_SINK_DROP]
  | .MAP => [Fld.MAP_SITE, Fld.MAP_VALID]
  | .ROUTE => [Fld.ROUTE_TREE_PORT, Fld.ROUTE_MODE]
  | .LOFT_CTRL => [Fld.LOFT_CTRL_MODE, Fld.LOFT_CTRL_CACHE_MIB, Fld.LOFT_CTRL_SCRUB_EN]
  | .LOFT_STATUS => [Fld.LOFT_STATUS_COIL_FAILED, Fld.LOFT_STATUS_CACHE_ACTIVE, Fld.LOFT_STATUS_INV_BUSY]
  | .LOFT_ERR => [Fld.LOFT_ERR_BOUNDS, Fld.LOFT_ERR_MALFORMED, Fld.LOFT_ERR_BUSY_REJ, Fld.LOFT_ERR_POISON]
  | .LOFT_INV => [Fld.LOFT_INV_INV]
  | .LOFT_CACHE_BASE_LO => [Fld.LOFT_CACHE_BASE_LO_BASE]
  | .LOFT_CACHE_BASE_HI => [Fld.LOFT_CACHE_BASE_HI_BASE]
  | .LOFT_CACHE_LEN_LO => [Fld.LOFT_CACHE_LEN_LO_LEN]
  | .LOFT_CACHE_LEN_HI => [Fld.LOFT_CACHE_LEN_HI_LEN]
  | .LOFT_ECC => [Fld.LOFT_ECC_CORR, Fld.LOFT_ECC_UNCORR]
  | .LOFT_POISON_ADDR => [Fld.LOFT_POISON_ADDR_OFFSET]
  | .LOFT_COIL_CRC => [Fld.LOFT_COIL_CRC_L0, Fld.LOFT_COIL_CRC_L1, Fld.LOFT_COIL_CRC_L2, Fld.LOFT_COIL_CRC_L3]
  | .LOFT_COIL_REPLAY => [Fld.LOFT_COIL_REPLAY_REPLAY]
  | .LOFT_CACHE_HIT => [Fld.LOFT_CACHE_HIT_HIT]
  | .LOFT_CACHE_MISS => [Fld.LOFT_CACHE_MISS_MISS]
  | .LOFT_READ_BYTES_LO => [Fld.LOFT_READ_BYTES_LO_BYTES]
  | .LOFT_READ_BYTES_HI => [Fld.LOFT_READ_BYTES_HI_BYTES]
  | .LOFT_WRITE_BYTES_LO => [Fld.LOFT_WRITE_BYTES_LO_BYTES]
  | .LOFT_WRITE_BYTES_HI => [Fld.LOFT_WRITE_BYTES_HI_BYTES]
  | .TRC_TILE_CTRL => [Fld.TRC_TILE_CTRL_MODE, Fld.TRC_TILE_CTRL_KIND_MASK, Fld.TRC_TILE_CTRL_QUEUE_MASK]
  | .TRC_TILE_STATUS => [Fld.TRC_TILE_STATUS_HELD, Fld.TRC_TILE_STATUS_DROPPING, Fld.TRC_TILE_STATUS_OLDEST]
  | .TRC_DROP => [Fld.TRC_DROP_DROP]
  | .TRC_TILE_ERR => [Fld.TRC_TILE_ERR_MALFORMED, Fld.TRC_TILE_ERR_BOUNDS, Fld.TRC_TILE_ERR_BUSY_REJ]
  | .TRC_LOCAL_BASE => [Fld.TRC_LOCAL_BASE_BASE]
  | .TRC_LOCAL_LEN => [Fld.TRC_LOCAL_LEN_LEN]
  | .TRC_UTIL_LO => [Fld.TRC_UTIL_LO_COUNT]
  | .TRC_UTIL_HI => [Fld.TRC_UTIL_HI_COUNT]
  | .SLOT_ENTRY0 => [Fld.SLOT_ENTRY0_ADDR]
  | .SLOT_ENTRY1 => [Fld.SLOT_ENTRY1_ADDR]
  | .SLOT_ENTRY2 => [Fld.SLOT_ENTRY2_VALID, Fld.SLOT_ENTRY2_TYPE, Fld.SLOT_ENTRY2_ATTEMPTS, Fld.SLOT_ENTRY2_MARKED]
  | .SLOT_ENTRY3 => [Fld.SLOT_ENTRY3_ISSUE]
  | .TRC_BUFFER => [Fld.TRC_BUFFER_RECORD]
  | .RT_CTRL => [Fld.RT_CTRL_LOAD]
  | .RT_STATUS => [Fld.RT_STATUS_BUSY, Fld.RT_STATUS_DONE, Fld.RT_STATUS_NO_ROOT, Fld.RT_STATUS_REJ]
  | .RT_PARENT => [Fld.RT_PARENT_PARENT, Fld.RT_PARENT_IN_SERVICE]
  | .RT_MAP => [Fld.RT_MAP_SITE, Fld.RT_MAP_VALID]
  | .STACK_CAP => [Fld.STACK_CAP_CAP_W, Fld.STACK_CAP_STEP_W, Fld.STACK_CAP_HYST_W]
  | .STACK_POWER => [Fld.STACK_POWER_POWER, Fld.STACK_POWER_CAP_SKIP]
  | .STACK_POWER_MAX => [Fld.STACK_POWER_MAX_MAX]
  | .STACK_CAP_EVT => [Fld.STACK_CAP_EVT_OVER, Fld.STACK_CAP_EVT_CAP_SAT]
  | .STACK_ERR => [Fld.STACK_ERR_BOUNDS, Fld.STACK_ERR_MALFORMED]
  | .STACK_SVC => [Fld.STACK_SVC_SVC]
  | .HBM_CTRL => [Fld.HBM_CTRL_ACCEPT, Fld.HBM_CTRL_TRACK_EN, Fld.HBM_CTRL_SCRUB_EN, Fld.HBM_CTRL_RETIRE]
  | .HBM_STATUS => [Fld.HBM_STATUS_TRAINED, Fld.HBM_STATUS_RETIRED, Fld.HBM_STATUS_HOT, Fld.HBM_STATUS_LIMITING, Fld.HBM_STATUS_DISAGREE, Fld.HBM_STATUS_OUTSTANDING]
  | .HBM_ERR => [Fld.HBM_ERR_BOUNDS, Fld.HBM_ERR_DENIED, Fld.HBM_ERR_REG_REJ, Fld.HBM_ERR_POISON]
  | .HBM_ECC_CORR_LO => [Fld.HBM_ECC_CORR_LO_CORR]
  | .HBM_ECC_CORR_HI => [Fld.HBM_ECC_CORR_HI_CORR]
  | .HBM_ECC_UNCORR => [Fld.HBM_ECC_UNCORR_UNCORR]
  | .HBM_ECC_LAST_LO => [Fld.HBM_ECC_LAST_LO_ADDR]
  | .HBM_ECC_LAST_HI => [Fld.HBM_ECC_LAST_HI_ADDR]
  | .HBM_UE_LIMIT => [Fld.HBM_UE_LIMIT_LIMIT]
  | .HBM_SCRUB => [Fld.HBM_SCRUB_PERIOD]
  | .HBM_TEMP => [Fld.HBM_TEMP_MODEL, Fld.HBM_TEMP_STACK, Fld.HBM_TEMP_USED]
  | .HBM_PPR => [Fld.HBM_PPR_SOFT, Fld.HBM_PPR_HARD_PENDING]
  | .HBM_READ_BYTES_LO => [Fld.HBM_READ_BYTES_LO_BYTES]
  | .HBM_READ_BYTES_HI => [Fld.HBM_READ_BYTES_HI_BYTES]
  | .HBM_WRITE_BYTES_LO => [Fld.HBM_WRITE_BYTES_LO_BYTES]
  | .HBM_WRITE_BYTES_HI => [Fld.HBM_WRITE_BYTES_HI_BYTES]
  | .HBM_WP0 => [Fld.HBM_WP0_EN, Fld.HBM_WP0_BASE]
  | .HBM_WP1 => [Fld.HBM_WP1_BASE]
  | .HBM_WP2 => [Fld.HBM_WP2_LEN]
  | .HBM_WP3 => [Fld.HBM_WP3_LEN]
  | .TRK_CTRL => [Fld.TRK_CTRL_DEPTH, Fld.TRK_CTRL_PF_SHARE]
  | .TRK_TIME => [Fld.TRK_TIME_LINE_TTL, Fld.TRK_TIME_IDLE]
  | .TRK_REGION0 => [Fld.TRK_REGION0_EN, Fld.TRK_REGION0_BASE]
  | .TRK_REGION1 => [Fld.TRK_REGION1_BASE, Fld.TRK_REGION1_SHIFT]
  | .TRK_REGION2 => [Fld.TRK_REGION2_LEN]
  | .TRK_REGION3 => [Fld.TRK_REGION3_LEN]
  | .TRK_HIT => [Fld.TRK_HIT_HIT]
  | .TRK_MISS => [Fld.TRK_MISS_MISS]
  | .TRK_PF_LINES => [Fld.TRK_PF_LINES_LINES]
  | .TRK_PF_UNUSED => [Fld.TRK_PF_UNUSED_UNUSED]
  | .TRK_STEAL => [Fld.TRK_STEAL_STEAL]
  | .TRK_STATUS => [Fld.TRK_STATUS_BUF_LINES, Fld.TRK_STATUS_TRACKERS]
  | .WIN_MASK => [Fld.WIN_MASK_MASK]
  | .WIN_IN_FORCE => [Fld.WIN_IN_FORCE_MASK]
  | .WIN_APPLY_LO => [Fld.WIN_APPLY_LO_BEAT]
  | .WIN_APPLY_HI => [Fld.WIN_APPLY_HI_BEAT]
  | .WIN_CTRL => [Fld.WIN_CTRL_COMMIT, Fld.WIN_CTRL_PENDING]
  | .WIN_ERR => [Fld.WIN_ERR_BOUNDS, Fld.WIN_ERR_MALFORMED, Fld.WIN_ERR_BUSY_REJ]
  | .WG_INFO => [Fld.WG_INFO_CLASS, Fld.WG_INFO_END0, Fld.WG_INFO_END1, Fld.WG_INFO_INDEX]
  | .WG_CTRL => [Fld.WG_CTRL_MASK0, Fld.WG_CTRL_MASK1]
  | .WG_STATUS => [Fld.WG_STATUS_IN0, Fld.WG_STATUS_IN1, Fld.WG_STATUS_FAILED]
  | .WG_ROT => [Fld.WG_ROT_TX0, Fld.WG_ROT_RX0, Fld.WG_ROT_TX1, Fld.WG_ROT_RX1]
  | .WG_EVT => [Fld.WG_EVT_LOCK_LOSS, Fld.WG_EVT_REHOP, Fld.WG_EVT_RETRAIN, Fld.WG_EVT_NARROW]
  | .WG_CRC => [Fld.WG_CRC_CRC]
  | .WG_REPLAY => [Fld.WG_REPLAY_REPLAY]
  | .WG_STATUS2 => [Fld.WG_STATUS2_IN1H]
  | .RING_TX => [Fld.RING_TX_HEAT, Fld.RING_TX_LOCKED, Fld.RING_TX_MARGIN]
  | .RING_RX => [Fld.RING_RX_HEAT, Fld.RING_RX_LOCKED, Fld.RING_RX_MARGIN]
  | .LANE_CTRL => [Fld.LANE_CTRL_FF_EN, Fld.LANE_CTRL_REHOP_EN]
  | .LANE_THRESH => [Fld.LANE_THRESH_REHOP_LO, Fld.LANE_THRESH_REHOP_HI, Fld.LANE_THRESH_LOCK_WIN]
  | .LANE_LINKDOWN => [Fld.LANE_LINKDOWN_LINK_DOWN_MAX]
  | .LANE_TOTAL => [Fld.LANE_TOTAL_IN_SERVICE]
  | .LANE_LOCKLOSS_LO => [Fld.LANE_LOCKLOSS_LO_COUNT]
  | .LANE_LOCKLOSS_HI => [Fld.LANE_LOCKLOSS_HI_COUNT]
  | .LANE_ERR => [Fld.LANE_ERR_REJ]
  | .LANT_CTRL => [Fld.LANT_CTRL_APC_EN, Fld.LANT_CTRL_AUTO_SPARE, Fld.LANT_CTRL_I2C_SPEED]
  | .LANT_APC => [Fld.LANT_APC_MARGIN_TGT, Fld.LANT_APC_APC_STEP]
  | .LANT_THRESH => [Fld.LANT_THRESH_WATCH_BIAS, Fld.LANT_THRESH_REPLACE_BIAS, Fld.LANT_THRESH_WATCH_MARGIN, Fld.LANT_THRESH_REPLACE_MARGIN]
  | .LANT_ERR => [Fld.LANT_ERR_REJ, Fld.LANT_ERR_I2C_NACK]
  | .MOD_STATUS => [Fld.MOD_STATUS_PRESENT, Fld.MOD_STATUS_READY, Fld.MOD_STATUS_REQ, Fld.MOD_STATUS_OK, Fld.MOD_STATUS_CODE_MISMATCH, Fld.MOD_STATUS_FAULT, Fld.MOD_STATUS_LIT]
  | .MOD_CTRL => [Fld.MOD_CTRL_RELEASE]
  | .MOD_EVT => [Fld.MOD_EVT_SWITCH, Fld.MOD_EVT_WATCH, Fld.MOD_EVT_NO_SPARE, Fld.MOD_EVT_UNPLANNED]
  | .FEED => [Fld.FEED_BIAS, Fld.FEED_STATE, Fld.FEED_GROUP, Fld.FEED_MARGIN]
  | .FEED_SEL => [Fld.FEED_SEL_SRC]
  | .LANT_I2C => [Fld.LANT_I2C_SOCKET, Fld.LANT_I2C_READ, Fld.LANT_I2C_REG, Fld.LANT_I2C_COUNT, Fld.LANT_I2C_GO, Fld.LANT_I2C_NACK]
  | .LANT_I2C_DATA => [Fld.LANT_I2C_DATA_DATA]
  | .YARD_CTRL => [Fld.YARD_CTRL_JOIN_EN, Fld.YARD_CTRL_LEAVE, Fld.YARD_CTRL_MEMBER]
  | .YARD_ID => [Fld.YARD_ID_ID]
  | .YARD_STATUS => [Fld.YARD_STATUS_STATE, Fld.YARD_STATUS_MEMBERS]
  | .YARD_TIMING => [Fld.YARD_TIMING_REMOTE_TO, Fld.YARD_TIMING_LIFETIME]
  | .YARD_LEDGER => [Fld.YARD_LEDGER_RETAIN, Fld.YARD_LEDGER_RETRY_MAX, Fld.YARD_LEDGER_SRC_CREDITS]
  | .YARD_HB => [Fld.YARD_HB_HB_PERIOD, Fld.YARD_HB_HB_LOSS]
  | .YARD_JOIN => [Fld.YARD_JOIN_JOIN_WAIT]
  | .YARD_ERR => [Fld.YARD_ERR_BOUNDS, Fld.YARD_ERR_IDENT, Fld.YARD_ERR_SPLIT, Fld.YARD_ERR_MALFORMED]
  | .GATE_STACK_SVC => [Fld.GATE_STACK_SVC_SVC, Fld.GATE_STACK_SVC_DENIED]
  | .YLINK_CTRL => [Fld.YLINK_CTRL_ENABLE, Fld.YLINK_CTRL_RETRAIN, Fld.YLINK_CTRL_MASK]
  | .YLINK_STATUS => [Fld.YLINK_STATUS_STATE, Fld.YLINK_STATUS_PEER_MEMBER, Fld.YLINK_STATUS_PEER_LINK, Fld.YLINK_STATUS_PEER_HOLDOVER, Fld.YLINK_STATUS_FAILED, Fld.YLINK_STATUS_IN_SERVICE, Fld.YLINK_STATUS_BAD_CTL]
  | .YLINK_FEC_CORR => [Fld.YLINK_FEC_CORR_CNT]
  | .YLINK_FEC_UNCORR => [Fld.YLINK_FEC_UNCORR_CNT]
  | .YLINK_REPLAY => [Fld.YLINK_REPLAY_CNT]
  | .YLINK_CH_DROP => [Fld.YLINK_CH_DROP_CNT]
  | .YLINK_FLITS_LO => [Fld.YLINK_FLITS_LO_FLITS]
  | .YLINK_FLITS_HI => [Fld.YLINK_FLITS_HI_FLITS]
  | .PEER_STATUS => [Fld.PEER_STATUS_PRESENT, Fld.PEER_STATUS_DIRECT, Fld.PEER_STATUS_RELAYED, Fld.PEER_STATUS_RELAY, Fld.PEER_STATUS_HOLDOVER, Fld.PEER_STATUS_LINKS_TO]
  | .PEER_HB_LO => [Fld.PEER_HB_LO_BEAT]
  | .PEER_HB_HI => [Fld.PEER_HB_HI_BEAT]
  | .MCAST_GROUP => [Fld.MCAST_GROUP_MASK, Fld.MCAST_GROUP_VALID]
  | .YSCHED_CTRL => [Fld.YSCHED_CTRL_EN]
  | .YSCHED_START_LO => [Fld.YSCHED_START_LO_START]
  | .YSCHED_START_HI => [Fld.YSCHED_START_HI_START]
  | .YSCHED => [Fld.YSCHED_STREAM]
  | .PORT_CTRL => [Fld.PORT_CTRL_RESET, Fld.PORT_CTRL_HOT_EN]
  | .PORT_STATUS => [Fld.PORT_STATUS_TAGS, Fld.PORT_STATUS_LEDGER, Fld.PORT_STATUS_LEDGER_HOLD, Fld.PORT_STATUS_LOSS_OVF, Fld.PORT_STATUS_RESET_SEEN]
  | .PORT_RESET_BEAT_LO => [Fld.PORT_RESET_BEAT_LO_BEAT]
  | .PORT_RESET_BEAT_HI => [Fld.PORT_RESET_BEAT_HI_BEAT]
  | .TAG_STALL => [Fld.TAG_STALL_CNT]
  | .LEDGER_HIT => [Fld.LEDGER_HIT_CNT]
  | .LEDGER_UNKNOWN => [Fld.LEDGER_UNKNOWN_CNT]
  | .RETRY_APPLIED => [Fld.RETRY_APPLIED_CNT]
  | .LEDGER_EXPIRED => [Fld.LEDGER_EXPIRED_CNT]
  | .LEDGER_HOLD_BEATS => [Fld.LEDGER_HOLD_BEATS_CNT]
  | .PORT_MALFORMED => [Fld.PORT_MALFORMED_CNT]
  | .SRC_CREDIT_STALL => [Fld.SRC_CREDIT_STALL_CNT]
  | .HOT => [Fld.HOT_CNT]
  | .HOT_ADDR_LO => [Fld.HOT_ADDR_LO_ADDR]
  | .HOT_ADDR_HI => [Fld.HOT_ADDR_HI_ADDR]
  | .HOT_THRESH => [Fld.HOT_THRESH_THRESH]
  | .PORT_LOSS0 => [Fld.PORT_LOSS0_SOURCE, Fld.PORT_LOSS0_VALID]
  | .PORT_LOSS1 => [Fld.PORT_LOSS1_FIRST_SEQ]
  | .PORT_LOSS2 => [Fld.PORT_LOSS2_LAST_SEQ]
  | .PORT_LOSS3 => [Fld.PORT_LOSS3_COUNT]
  | .ETH_CTRL => [Fld.ETH_CTRL_ENABLE, Fld.ETH_CTRL_RATE, Fld.ETH_CTRL_MEDIA, Fld.ETH_CTRL_PFC_EN, Fld.ETH_CTRL_VLAN_EN]
  | .ETH_STATUS => [Fld.ETH_STATUS_LINK_UP, Fld.ETH_STATUS_RATE_UP, Fld.ETH_STATUS_XOFF_SENT, Fld.ETH_STATUS_PAUSED, Fld.ETH_STATUS_QPS, Fld.ETH_STATUS_FULL]
  | .ETH_VLAN => [Fld.ETH_VLAN_VID, Fld.ETH_VLAN_ROCE_PCP, Fld.ETH_VLAN_CNP_PCP, Fld.ETH_VLAN_ROCE_DSCP, Fld.ETH_VLAN_CNP_DSCP]
  | .ETH_MTU => [Fld.ETH_MTU_ETH_MTU]
  | .ETH_PFC => [Fld.ETH_PFC_XOFF_KB, Fld.ETH_PFC_XON_KB]
  | .ETH_CC => [Fld.ETH_CC_CNP_GAP, Fld.ETH_CC_RECOVER]
  | .ETH_IP4 => [Fld.ETH_IP4_IP4]
  | .ETH_GW4 => [Fld.ETH_GW4_GW4]
  | .ETH_PREFIX => [Fld.ETH_PREFIX_PREFIX4, Fld.ETH_PREFIX_PREFIX6]
  | .ETH_IP6 => [Fld.ETH_IP6_IP6]
  | .ETH_GW6 => [Fld.ETH_GW6_GW6]
  | .ETH_RX_FRAMES_LO => [Fld.ETH_RX_FRAMES_LO_FRAMES]
  | .ETH_RX_FRAMES_HI => [Fld.ETH_RX_FRAMES_HI_FRAMES]
  | .ETH_TX_FRAMES_LO => [Fld.ETH_TX_FRAMES_LO_FRAMES]
  | .ETH_TX_FRAMES_HI => [Fld.ETH_TX_FRAMES_HI_FRAMES]
  | .ETH_FEC_CORR => [Fld.ETH_FEC_CORR_CNT]
  | .ETH_FEC_UNCORR => [Fld.ETH_FEC_UNCORR_CNT]
  | .ETH_DROPS => [Fld.ETH_DROPS_FCS, Fld.ETH_DROPS_VLAN, Fld.ETH_DROPS_NOT_ROCE, Fld.ETH_DROPS_BUF_FULL]
  | .ETH_PFC_CNT => [Fld.ETH_PFC_CNT_PFC_RX, Fld.ETH_PFC_CNT_PFC_TX]
  | .ETH_CNP_CNT => [Fld.ETH_CNP_CNT_CE_RX, Fld.ETH_CNP_CNT_CNP_TX]
  | .ETH_CNP_ICRC => [Fld.ETH_CNP_ICRC_CNP_RX, Fld.ETH_CNP_ICRC_ICRC]
  | .ETH_LEASE => [Fld.ETH_LEASE_LEASE]
  | .ETH_ADOPT => [Fld.ETH_ADOPT_ADOPT_HOLD]
  | .ETH_RDMA_ERR => [Fld.ETH_RDMA_ERR_BOUNDS, Fld.ETH_RDMA_ERR_DENIED, Fld.ETH_RDMA_ERR_MALFORMED, Fld.ETH_RDMA_ERR_REJ]
  | .ETH_ERR => [Fld.ETH_ERR_REJ]
  | .ETH_SESSION_LOST => [Fld.ETH_SESSION_LOST_LOST]
  | .HEAD_ERR => [Fld.HEAD_ERR_HEAD_ERR]
  | .OWNER_ADDR => [Fld.OWNER_ADDR_ADDR]
  | .OWNER_CTL => [Fld.OWNER_CTL_PREFIX, Fld.OWNER_CTL_V6, Fld.OWNER_CTL_VALID]
  | .PWR_CTRL => [Fld.PWR_CTRL_PKG_EN, Fld.PWR_CTRL_DIODE_EN, Fld.PWR_CTRL_COOL_EN]
  | .PWR_STATUS => [Fld.PWR_STATUS_COOL_VALID, Fld.PWR_STATUS_COOL_FAILSAFE, Fld.PWR_STATUS_DISAGREE, Fld.PWR_STATUS_PKG_ACTIVE, Fld.PWR_STATUS_RAIL_FAULT, Fld.PWR_STATUS_BASE_HOT, Fld.PWR_STATUS_TRIPPED, Fld.PWR_STATUS_PKG_TRIP]
  | .PWR_THR => [Fld.PWR_THR_THR_BARN, Fld.PWR_THR_THR_LOFT, Fld.PWR_THR_THR_GAIN, Fld.PWR_THR_TRIP_T]
  | .PWR_PKG => [Fld.PWR_PKG_TDP_W, Fld.PWR_PKG_HOLD, Fld.PWR_PKG_STEP_W]
  | .PWR_DIODE_CFG => [Fld.PWR_DIODE_CFG_DIODE_TOL, Fld.PWR_DIODE_CFG_DISAGREE_SKIP]
  | .PWR_COOL => [Fld.PWR_COOL_ADDR, Fld.PWR_COOL_REG, Fld.PWR_COOL_FAILSAFE]
  | .PWR_COOL_T => [Fld.PWR_COOL_T_INLET, Fld.PWR_COOL_T_NACK, Fld.PWR_COOL_T_IMPLAUS]
  | .PWR_PKG_POWER => [Fld.PWR_PKG_POWER_POWER, Fld.PWR_PKG_POWER_PKG_SKIP]
  | .PWR_PKG_MAX => [Fld.PWR_PKG_MAX_MAX]
  | .PWR_PKG_OVER => [Fld.PWR_PKG_OVER_OVER]
  | .PWR_ERR => [Fld.PWR_ERR_BOUNDS, Fld.PWR_ERR_TRIPS, Fld.PWR_ERR_RAIL_FAULTS]
  | .RAIL_V => [Fld.RAIL_V_V]
  | .RAIL_I => [Fld.RAIL_I_I]
  | .RAIL_P => [Fld.RAIL_P_P]
  | .RAIL_STATUS => [Fld.RAIL_STATUS_TARGET, Fld.RAIL_STATUS_AT_LIMIT, Fld.RAIL_STATUS_FAULT]
  | .RAIL_FAULTS => [Fld.RAIL_FAULTS_CNT]
  | .RAIL_ENERGY_LO => [Fld.RAIL_ENERGY_LO_ENERGY]
  | .RAIL_ENERGY_HI => [Fld.RAIL_ENERGY_HI_ENERGY]
  | .HALF_THERMAL0 => [Fld.HALF_THERMAL0_HOT_T, Fld.HALF_THERMAL0_HOT_NODE]
  | .HALF_THERMAL1 => [Fld.HALF_THERMAL1_TEMP_TERM, Fld.HALF_THERMAL1_FLOOR, Fld.HALF_THERMAL1_FAULT_TERM, Fld.HALF_THERMAL1_THERMAL_SKIP]
  | .HALF_THERMAL2 => [Fld.HALF_THERMAL2_THROTTLED]
  | .NODE_T => [Fld.NODE_T_T]
  | .DIODE0 => [Fld.DIODE0_DIODE_T, Fld.DIODE0_MODEL_T, Fld.DIODE0_DISAGREE]
  | .DIODE1 => [Fld.DIODE1_MISMATCH]
  | .CAL_CTRL => [Fld.CAL_CTRL_START, Fld.CAL_CTRL_ABORT, Fld.CAL_CTRL_COMMIT]
  | .CAL_STATUS => [Fld.CAL_STATUS_STATE, Fld.CAL_STATUS_REASON, Fld.CAL_STATUS_CHAIN, Fld.CAL_STATUS_CALREF_PRESENT]
  | .CAL_APPLY_LO => [Fld.CAL_APPLY_LO_BEAT]
  | .CAL_APPLY_HI => [Fld.CAL_APPLY_HI_BEAT]
  | .CAL_IN_FORCE_LO => [Fld.CAL_IN_FORCE_LO_BEAT]
  | .CAL_IN_FORCE_HI => [Fld.CAL_IN_FORCE_HI_BEAT]
  | .CAL_ERR => [Fld.CAL_ERR_BOUNDS, Fld.CAL_ERR_BUSY_REJ, Fld.CAL_ERR_REJECTED, Fld.CAL_ERR_ACCEPTED]
  | .CAL_RESULT0 => [Fld.CAL_RESULT0_GAIN]
  | .CAL_RESULT1 => [Fld.CAL_RESULT1_OFFSET]
  | .CAL_RESULT2 => [Fld.CAL_RESULT2_SPREAD]
  | .CAL_RESULT3 => [Fld.CAL_RESULT3_FAIL]
  | .TACK_STATUS => [Fld.TACK_STATUS_ID_READY, Fld.TACK_STATUS_PUF_FAIL, Fld.TACK_STATUS_ZEROISED, Fld.TACK_STATUS_BOOT_HALT, Fld.TACK_STATUS_SLOT, Fld.TACK_STATUS_OTHER_VALID, Fld.TACK_STATUS_FIELD_CAL, Fld.TACK_STATUS_SCAN_OPEN, Fld.TACK_STATUS_SLOT0_RESULT, Fld.TACK_STATUS_SLOT1_RESULT, Fld.TACK_STATUS_START_PHASE]
  | .TACK_ID => [Fld.TACK_ID_DEVICE_ID]
  | .TACK_IMAGE_SEQ_LO => [Fld.TACK_IMAGE_SEQ_LO_SEQ]
  | .TACK_IMAGE_SEQ_HI => [Fld.TACK_IMAGE_SEQ_HI_SEQ]
  | .TACK_FW_VERSION => [Fld.TACK_FW_VERSION_VERSION]
  | .TACK_CONFIG => [Fld.TACK_CONFIG_RECORDS_APPLIED, Fld.TACK_CONFIG_CONFIG_FAIL]
  | .TACK_CTRL => [Fld.TACK_CTRL_ZEROISE, Fld.TACK_CTRL_SIGN_GO, Fld.TACK_CTRL_DOMAIN]
  | .TACK_SIGN_STATUS => [Fld.TACK_SIGN_STATUS_BUSY, Fld.TACK_SIGN_STATUS_DONE, Fld.TACK_SIGN_STATUS_REFUSED]
  | .TACK_ERR => [Fld.TACK_ERR_REJ, Fld.TACK_ERR_SIGN_REFUSED, Fld.TACK_ERR_FLASH]
  | .TACK_SIGN_HASH => [Fld.TACK_SIGN_HASH_H]
  | .TACK_SIGN_OUT => [Fld.TACK_SIGN_OUT_SIG]
  | .TACK_PHASE_BEAT_LO => [Fld.TACK_PHASE_BEAT_LO_BEAT]
  | .TACK_PHASE_BEAT_HI => [Fld.TACK_PHASE_BEAT_HI_BEAT]
  | .RM_CTRL => [Fld.RM_CTRL_SWITCHBACK, Fld.RM_CTRL_HOME, Fld.RM_CTRL_CAROUSEL_EN, Fld.RM_CTRL_SWAP_NOW]
  | .RM_STATUS => [Fld.RM_STATUS_ACTIVE, Fld.RM_STATUS_IN_STEP, Fld.RM_STATUS_A_STATE, Fld.RM_STATUS_B_STATE, Fld.RM_STATUS_UPDATE, Fld.RM_STATUS_NO_MASTER, Fld.RM_STATUS_SERVICE_LEVEL]
  | .RM_KICK => [Fld.RM_KICK_KICK]
  | .RM_TIMING => [Fld.RM_TIMING_WD_TIMEOUT, Fld.RM_TIMING_WD_GRACE]
  | .RM_CAROUSEL => [Fld.RM_CAROUSEL_CAROUSEL_PERIOD, Fld.RM_CAROUSEL_RETURN_HOLD]
  | .RM_CONFIRM => [Fld.RM_CONFIRM_UPDATE_CONFIRM]
  | .RM_SWAP_NONCE => [Fld.RM_SWAP_NONCE_NONCE]
  | .RM_SWAP_CHECK => [Fld.RM_SWAP_CHECK_CHECK]
  | .RM_EVT => [Fld.RM_EVT_DIVERGE, Fld.RM_EVT_TAKEOVER, Fld.RM_EVT_SWAP_FAIL, Fld.RM_EVT_WATCHDOG]
  | .RM_SWAPS => [Fld.RM_SWAPS_SWAPS, Fld.RM_SWAPS_SWAP_SKIP]
  | .RM_ERR => [Fld.RM_ERR_REJ]
  | .RM_DECODE_LO => [Fld.RM_DECODE_LO_ADDR]
  | .RM_DECODE_HI => [Fld.RM_DECODE_HI_ADDR, Fld.RM_DECODE_HI_WRITE]
  | .RM_DECODE_CNT => [Fld.RM_DECODE_CNT_COUNT]
  | .RM_ABORT_LO => [Fld.RM_ABORT_LO_ADDR]
  | .RM_ABORT_HI => [Fld.RM_ABORT_HI_ADDR]
  | .RM_UPDATE => [Fld.RM_UPDATE_GO, Fld.RM_UPDATE_ABORT, Fld.RM_UPDATE_STEP, Fld.RM_UPDATE_RESULT]
  | .RM_FW_VERSION => [Fld.RM_FW_VERSION_VERSION]
  | .RM_LOSS0 => [Fld.RM_LOSS0_SOURCE, Fld.RM_LOSS0_PORT, Fld.RM_LOSS0_VALID]
  | .RM_LOSS1 => [Fld.RM_LOSS1_FIRST_SEQ]
  | .RM_LOSS2 => [Fld.RM_LOSS2_LAST_SEQ]
  | .RM_LOSS3 => [Fld.RM_LOSS3_COUNT]
  | .RM_LOSS_LOST => [Fld.RM_LOSS_LOST_LOST]
  | .RM_HANDOFF => [Fld.RM_HANDOFF_DATA]
  | .FAR_CTRL => [Fld.FAR_CTRL_INSVC_EN, Fld.FAR_CTRL_MOVE_EN]
  | .FAR_PERIOD => [Fld.FAR_PERIOD_PERIOD]
  | .FAR_STATUS => [Fld.FAR_STATUS_TEST_BUSY, Fld.FAR_STATUS_REGION, Fld.FAR_STATUS_MOVE_BUSY]
  | .FAR_EVT => [Fld.FAR_EVT_SIG_FAIL, Fld.FAR_EVT_MOVES, Fld.FAR_EVT_NO_SPARE]
  | .FAR_MOVE_LAST => [Fld.FAR_MOVE_LAST_FROM, Fld.FAR_MOVE_LAST_TO, Fld.FAR_MOVE_LAST_BARN]
  | .FAR_MOVE_BEATS => [Fld.FAR_MOVE_BEATS_BEATS]
  | .FAR_ERR => [Fld.FAR_ERR_REJ]
  | .FAR_LIMITS => [Fld.FAR_LIMITS_FAULT_LIMIT, Fld.FAR_LIMITS_PORT_HANG_LIMIT]
  | .FAR_BARN => [Fld.FAR_BARN_SPARES, Fld.FAR_BARN_RETIRED, Fld.FAR_BARN_HOLES]
  | .FAR_SITE => [Fld.FAR_SITE_STATE, Fld.FAR_SITE_ASSEMBLY, Fld.FAR_SITE_COIL_SPARE, Fld.FAR_SITE_COIL_FAILED, Fld.FAR_SITE_MOVE_POSTED]
  | .FAR_TAP => [Fld.FAR_TAP_CHOSEN, Fld.FAR_TAP_SPARE_WIRES]
  | .RST_CTRL => [Fld.RST_CTRL_FLUSH]
  | .RST_BASE_LO => [Fld.RST_BASE_LO_BASE]
  | .RST_BASE_HI => [Fld.RST_BASE_HI_BASE]
  | .RST_SEG => [Fld.RST_SEG_SEG]
  | .RST_INTERVAL => [Fld.RST_INTERVAL_RST_INTERVAL, Fld.RST_INTERVAL_IN_FORCE]
  | .RST_STATUS => [Fld.RST_STATUS_TRACING]
  | .RST_CHUNKS_LO => [Fld.RST_CHUNKS_LO_COUNT]
  | .RST_CHUNKS_HI => [Fld.RST_CHUNKS_HI_COUNT]
  | .RST_DROP => [Fld.RST_DROP_DROP]
  | .RST_ERR => [Fld.RST_ERR_BOUNDS, Fld.RST_ERR_MALFORMED, Fld.RST_ERR_BUSY_REJ]
  | .TRC_HANG_CTRL => [Fld.TRC_HANG_CTRL_EN, Fld.TRC_HANG_CTRL_HANG]
  | .TRC_HANG_CONFIRM => [Fld.TRC_HANG_CONFIRM_HANG_CONFIRM]
  | .TRC_HANG_MAP => [Fld.TRC_HANG_MAP_SITES]
  | .TRC_SNAP_BASE_LO => [Fld.TRC_SNAP_BASE_LO_ADDR]
  | .TRC_SNAP_BASE_HI => [Fld.TRC_SNAP_BASE_HI_ADDR]
  | .TRC_SNAP_BYTES => [Fld.TRC_SNAP_BYTES_BYTES]
  | .BRK_CTRL => [Fld.BRK_CTRL_EN, Fld.BRK_CTRL_THRESH]
  | .BRK_CLAIM => [Fld.BRK_CLAIM_CLAIM]
  | .BRK_CLAIMED => [Fld.BRK_CLAIMED_SOURCE]
  | .BRK_COMPLETE => [Fld.BRK_COMPLETE_SOURCE]
  | .BRK_STATUS => [Fld.BRK_STATUS_LINE, Fld.BRK_STATUS_HIGHEST]
  | .BRK_STRAY => [Fld.BRK_STRAY_STRAY]
  | .BRK_STRAY_LAST => [Fld.BRK_STRAY_LAST_VALUE]
  | .BRK_PENDING => [Fld.BRK_PENDING_PENDING]
  | .BRK_SET => [Fld.BRK_SET_SET]
  | .BRK_ENABLE => [Fld.BRK_ENABLE_ENABLE]
  | .BRK_INSERVICE => [Fld.BRK_INSERVICE_INSERVICE]
  | .BRK_RAISED => [Fld.BRK_RAISED_RAISED]

/-- The registers of the CLK block. -/
def regNamesClk : List RegName :=
  [.BEAT_CTRL, .BEAT_STATUS, .BEAT_NOW_LO, .BEAT_NOW_HI, .BEAT_LOAD_LO, .BEAT_LOAD_HI, .CLK_ERR, .REF_LOSS_CNT,
   .SYNC_MISMATCH_CNT, .SYNC_LAST_OFFSET, .HALF_OPP, .HALF_STATUS, .HALF_CHANGE_BEAT_LO, .HALF_CHANGE_BEAT_HI, .HALF_THROTTLE, .OPP_ENTRY,
   .REGION_CLK_CTRL, .REGION_CLK_STATUS, .REGION_STRETCH_LO, .REGION_STRETCH_HI, .REGION_STRETCH_SAT]

/-- The registers of the TILE block. -/
def regNamesTile : List RegName :=
  [.TILE_ID, .TILE_CTRL, .TILE_STATUS, .TILE_BOOT, .EVENT_POST, .WAIT_STATE, .WAIT_TARGET_LO, .WAIT_TARGET_HI,
   .WAIT_START_LO, .WAIT_START_HI, .SLOT_STATUS, .TILE_SLOT_STALL, .STRAY_REPLY, .RESET_DROP, .FAULT_LOST, .SRAM_APERTURE,
   .QUEUE_STATUS, .QUEUE_ERR, .AC, .CC, .GREG_LO, .GREG_HI, .RTR_CTRL, .RTR_STATUS,
   .RTR_ERR, .SCHED_START_LO, .SCHED_START_HI, .RTR_TAP, .RTR_FWD, .PORT_FLITS_LO, .PORT_FLITS_HI, .PORT_SCHED_FLITS,
   .PORT_CREDIT_STALL, .PORT_SLIP, .PORT_LATE_FRAMES, .PORT_GUARD_WAIT, .RPORT_MALFORMED, .PORT_ESC_PKTS, .PORT_ECC, .PORT_BUF,
   .TAP_STATUS, .TAP_CRC, .TAP_REPLAY, .SCHED_SLOT, .FLOW_SRC, .FLOW_LEN, .FLOW_RING, .FLOW_PTR,
   .FLOW_AC, .FLOW_TARGET, .FLOW_SENT, .FLOW_SKIP, .SINK_DST, .SINK_RING, .SINK_PTR, .SINK_CTR,
   .SINK_LEN, .SINK_RECV, .SINK_DROP, .MAP, .ROUTE, .LOFT_CTRL, .LOFT_STATUS, .LOFT_ERR,
   .LOFT_INV, .LOFT_CACHE_BASE_LO, .LOFT_CACHE_BASE_HI, .LOFT_CACHE_LEN_LO, .LOFT_CACHE_LEN_HI, .LOFT_ECC, .LOFT_POISON_ADDR, .LOFT_COIL_CRC,
   .LOFT_COIL_REPLAY, .LOFT_CACHE_HIT, .LOFT_CACHE_MISS, .LOFT_READ_BYTES_LO, .LOFT_READ_BYTES_HI, .LOFT_WRITE_BYTES_LO, .LOFT_WRITE_BYTES_HI, .TRC_TILE_CTRL,
   .TRC_TILE_STATUS, .TRC_DROP, .TRC_TILE_ERR, .TRC_LOCAL_BASE, .TRC_LOCAL_LEN, .TRC_UTIL_LO, .TRC_UTIL_HI, .SLOT_ENTRY0,
   .SLOT_ENTRY1, .SLOT_ENTRY2, .SLOT_ENTRY3, .TRC_BUFFER]

/-- The registers of the BARN block. -/
def regNamesBarn : List RegName :=
  [.RT_CTRL, .RT_STATUS, .RT_PARENT, .RT_MAP, .STACK_CAP, .STACK_POWER, .STACK_POWER_MAX, .STACK_CAP_EVT,
   .STACK_ERR, .STACK_SVC]

/-- The registers of the HBM block. -/
def regNamesHbm : List RegName :=
  [.HBM_CTRL, .HBM_STATUS, .HBM_ERR, .HBM_ECC_CORR_LO, .HBM_ECC_CORR_HI, .HBM_ECC_UNCORR, .HBM_ECC_LAST_LO, .HBM_ECC_LAST_HI,
   .HBM_UE_LIMIT, .HBM_SCRUB, .HBM_TEMP, .HBM_PPR, .HBM_READ_BYTES_LO, .HBM_READ_BYTES_HI, .HBM_WRITE_BYTES_LO, .HBM_WRITE_BYTES_HI,
   .HBM_WP0, .HBM_WP1, .HBM_WP2, .HBM_WP3, .TRK_CTRL, .TRK_TIME, .TRK_REGION0, .TRK_REGION1,
   .TRK_REGION2, .TRK_REGION3, .TRK_HIT, .TRK_MISS, .TRK_PF_LINES, .TRK_PF_UNUSED, .TRK_STEAL, .TRK_STATUS]

/-- The registers of the WIN block. -/
def regNamesWin : List RegName :=
  [.WIN_MASK, .WIN_IN_FORCE, .WIN_APPLY_LO, .WIN_APPLY_HI, .WIN_CTRL, .WIN_ERR]

/-- The registers of the LANE block. -/
def regNamesLane : List RegName :=
  [.WG_INFO, .WG_CTRL, .WG_STATUS, .WG_ROT, .WG_EVT, .WG_CRC, .WG_REPLAY, .WG_STATUS2,
   .RING_TX, .RING_RX, .LANE_CTRL, .LANE_THRESH, .LANE_LINKDOWN, .LANE_TOTAL, .LANE_LOCKLOSS_LO, .LANE_LOCKLOSS_HI,
   .LANE_ERR]

/-- The registers of the LANT block. -/
def regNamesLant : List RegName :=
  [.LANT_CTRL, .LANT_APC, .LANT_THRESH, .LANT_ERR, .MOD_STATUS, .MOD_CTRL, .MOD_EVT, .FEED,
   .FEED_SEL, .LANT_I2C, .LANT_I2C_DATA]

/-- The registers of the YARD block. -/
def regNamesYard : List RegName :=
  [.YARD_CTRL, .YARD_ID, .YARD_STATUS, .YARD_TIMING, .YARD_LEDGER, .YARD_HB, .YARD_JOIN, .YARD_ERR,
   .GATE_STACK_SVC, .YLINK_CTRL, .YLINK_STATUS, .YLINK_FEC_CORR, .YLINK_FEC_UNCORR, .YLINK_REPLAY, .YLINK_CH_DROP, .YLINK_FLITS_LO,
   .YLINK_FLITS_HI, .PEER_STATUS, .PEER_HB_LO, .PEER_HB_HI, .MCAST_GROUP, .YSCHED_CTRL, .YSCHED_START_LO, .YSCHED_START_HI,
   .YSCHED]

/-- The registers of the PORT block. -/
def regNamesPort : List RegName :=
  [.PORT_CTRL, .PORT_STATUS, .PORT_RESET_BEAT_LO, .PORT_RESET_BEAT_HI, .TAG_STALL, .LEDGER_HIT, .LEDGER_UNKNOWN, .RETRY_APPLIED,
   .LEDGER_EXPIRED, .LEDGER_HOLD_BEATS, .PORT_MALFORMED, .SRC_CREDIT_STALL, .HOT, .HOT_ADDR_LO, .HOT_ADDR_HI, .HOT_THRESH,
   .PORT_LOSS0, .PORT_LOSS1, .PORT_LOSS2, .PORT_LOSS3]

/-- The registers of the ETH block. -/
def regNamesEth : List RegName :=
  [.ETH_CTRL, .ETH_STATUS, .ETH_VLAN, .ETH_MTU, .ETH_PFC, .ETH_CC, .ETH_IP4, .ETH_GW4,
   .ETH_PREFIX, .ETH_IP6, .ETH_GW6, .ETH_RX_FRAMES_LO, .ETH_RX_FRAMES_HI, .ETH_TX_FRAMES_LO, .ETH_TX_FRAMES_HI, .ETH_FEC_CORR,
   .ETH_FEC_UNCORR, .ETH_DROPS, .ETH_PFC_CNT, .ETH_CNP_CNT, .ETH_CNP_ICRC, .ETH_LEASE, .ETH_ADOPT, .ETH_RDMA_ERR,
   .ETH_ERR, .ETH_SESSION_LOST, .HEAD_ERR, .OWNER_ADDR, .OWNER_CTL]

/-- The registers of the PWR block. -/
def regNamesPwr : List RegName :=
  [.PWR_CTRL, .PWR_STATUS, .PWR_THR, .PWR_PKG, .PWR_DIODE_CFG, .PWR_COOL, .PWR_COOL_T, .PWR_PKG_POWER,
   .PWR_PKG_MAX, .PWR_PKG_OVER, .PWR_ERR, .RAIL_V, .RAIL_I, .RAIL_P, .RAIL_STATUS, .RAIL_FAULTS,
   .RAIL_ENERGY_LO, .RAIL_ENERGY_HI, .HALF_THERMAL0, .HALF_THERMAL1, .HALF_THERMAL2, .NODE_T, .DIODE0, .DIODE1]

/-- The registers of the CAL block. -/
def regNamesCal : List RegName :=
  [.CAL_CTRL, .CAL_STATUS, .CAL_APPLY_LO, .CAL_APPLY_HI, .CAL_IN_FORCE_LO, .CAL_IN_FORCE_HI, .CAL_ERR, .CAL_RESULT0,
   .CAL_RESULT1, .CAL_RESULT2, .CAL_RESULT3]

/-- The registers of the TACK block. -/
def regNamesTack : List RegName :=
  [.TACK_STATUS, .TACK_ID, .TACK_IMAGE_SEQ_LO, .TACK_IMAGE_SEQ_HI, .TACK_FW_VERSION, .TACK_CONFIG, .TACK_CTRL, .TACK_SIGN_STATUS,
   .TACK_ERR, .TACK_SIGN_HASH, .TACK_SIGN_OUT, .TACK_PHASE_BEAT_LO, .TACK_PHASE_BEAT_HI]

/-- The registers of the RM block. -/
def regNamesRm : List RegName :=
  [.RM_CTRL, .RM_STATUS, .RM_KICK, .RM_TIMING, .RM_CAROUSEL, .RM_CONFIRM, .RM_SWAP_NONCE, .RM_SWAP_CHECK,
   .RM_EVT, .RM_SWAPS, .RM_ERR, .RM_DECODE_LO, .RM_DECODE_HI, .RM_DECODE_CNT, .RM_ABORT_LO, .RM_ABORT_HI,
   .RM_UPDATE, .RM_FW_VERSION, .RM_LOSS0, .RM_LOSS1, .RM_LOSS2, .RM_LOSS3, .RM_LOSS_LOST, .RM_HANDOFF]

/-- The registers of the FAR block. -/
def regNamesFar : List RegName :=
  [.FAR_CTRL, .FAR_PERIOD, .FAR_STATUS, .FAR_EVT, .FAR_MOVE_LAST, .FAR_MOVE_BEATS, .FAR_ERR, .FAR_LIMITS,
   .FAR_BARN, .FAR_SITE, .FAR_TAP]

/-- The registers of the TRC block. -/
def regNamesTrc : List RegName :=
  [.RST_CTRL, .RST_BASE_LO, .RST_BASE_HI, .RST_SEG, .RST_INTERVAL, .RST_STATUS, .RST_CHUNKS_LO, .RST_CHUNKS_HI,
   .RST_DROP, .RST_ERR, .TRC_HANG_CTRL, .TRC_HANG_CONFIRM, .TRC_HANG_MAP, .TRC_SNAP_BASE_LO, .TRC_SNAP_BASE_HI, .TRC_SNAP_BYTES]

/-- The registers of the BRK block. -/
def regNamesBrk : List RegName :=
  [.BRK_CTRL, .BRK_CLAIM, .BRK_CLAIMED, .BRK_COMPLETE, .BRK_STATUS, .BRK_STRAY, .BRK_STRAY_LAST, .BRK_PENDING,
   .BRK_SET, .BRK_ENABLE, .BRK_INSERVICE, .BRK_RAISED]

/-- The blocks of registers; a tile window and a barn window have several each (Table 03-17, R28). -/
inductive Block where
  | clk | tile | router | loft | tileTrace | loader | cap | hbm | win | lane | lant | yard | port | eth | pwr | cal | tack | rm | far | trc | brk
  deriving DecidableEq, Repr

/-- The block of a register. -/
def RegName.block : RegName → Block
  | .BEAT_CTRL | .BEAT_STATUS | .BEAT_NOW_LO | .BEAT_NOW_HI | .BEAT_LOAD_LO | .BEAT_LOAD_HI | .CLK_ERR | .REF_LOSS_CNT
  | .SYNC_MISMATCH_CNT | .SYNC_LAST_OFFSET | .HALF_OPP | .HALF_STATUS | .HALF_CHANGE_BEAT_LO | .HALF_CHANGE_BEAT_HI | .HALF_THROTTLE | .OPP_ENTRY
  | .REGION_CLK_CTRL | .REGION_CLK_STATUS | .REGION_STRETCH_LO | .REGION_STRETCH_HI | .REGION_STRETCH_SAT => .clk
  | .TILE_ID | .TILE_CTRL | .TILE_STATUS | .TILE_BOOT | .EVENT_POST | .WAIT_STATE | .WAIT_TARGET_LO | .WAIT_TARGET_HI
  | .WAIT_START_LO | .WAIT_START_HI | .SLOT_STATUS | .TILE_SLOT_STALL | .STRAY_REPLY | .RESET_DROP | .FAULT_LOST | .SRAM_APERTURE
  | .QUEUE_STATUS | .QUEUE_ERR | .AC | .CC | .GREG_LO | .GREG_HI => .tile
  | .RTR_CTRL | .RTR_STATUS | .RTR_ERR | .SCHED_START_LO | .SCHED_START_HI | .RTR_TAP | .RTR_FWD | .PORT_FLITS_LO
  | .PORT_FLITS_HI | .PORT_SCHED_FLITS | .PORT_CREDIT_STALL | .PORT_SLIP | .PORT_LATE_FRAMES | .PORT_GUARD_WAIT | .RPORT_MALFORMED | .PORT_ESC_PKTS
  | .PORT_ECC | .PORT_BUF | .TAP_STATUS | .TAP_CRC | .TAP_REPLAY | .SCHED_SLOT | .FLOW_SRC | .FLOW_LEN
  | .FLOW_RING | .FLOW_PTR | .FLOW_AC | .FLOW_TARGET | .FLOW_SENT | .FLOW_SKIP | .SINK_DST | .SINK_RING
  | .SINK_PTR | .SINK_CTR | .SINK_LEN | .SINK_RECV | .SINK_DROP | .MAP | .ROUTE => .router
  | .LOFT_CTRL | .LOFT_STATUS | .LOFT_ERR | .LOFT_INV | .LOFT_CACHE_BASE_LO | .LOFT_CACHE_BASE_HI | .LOFT_CACHE_LEN_LO | .LOFT_CACHE_LEN_HI
  | .LOFT_ECC | .LOFT_POISON_ADDR | .LOFT_COIL_CRC | .LOFT_COIL_REPLAY | .LOFT_CACHE_HIT | .LOFT_CACHE_MISS | .LOFT_READ_BYTES_LO | .LOFT_READ_BYTES_HI
  | .LOFT_WRITE_BYTES_LO | .LOFT_WRITE_BYTES_HI => .loft
  | .TRC_TILE_CTRL | .TRC_TILE_STATUS | .TRC_DROP | .TRC_TILE_ERR | .TRC_LOCAL_BASE | .TRC_LOCAL_LEN | .TRC_UTIL_LO | .TRC_UTIL_HI
  | .SLOT_ENTRY0 | .SLOT_ENTRY1 | .SLOT_ENTRY2 | .SLOT_ENTRY3 | .TRC_BUFFER => .tileTrace
  | .RT_CTRL | .RT_STATUS | .RT_PARENT | .RT_MAP => .loader
  | .STACK_CAP | .STACK_POWER | .STACK_POWER_MAX | .STACK_CAP_EVT | .STACK_ERR | .STACK_SVC => .cap
  | .HBM_CTRL | .HBM_STATUS | .HBM_ERR | .HBM_ECC_CORR_LO | .HBM_ECC_CORR_HI | .HBM_ECC_UNCORR | .HBM_ECC_LAST_LO | .HBM_ECC_LAST_HI
  | .HBM_UE_LIMIT | .HBM_SCRUB | .HBM_TEMP | .HBM_PPR | .HBM_READ_BYTES_LO | .HBM_READ_BYTES_HI | .HBM_WRITE_BYTES_LO | .HBM_WRITE_BYTES_HI
  | .HBM_WP0 | .HBM_WP1 | .HBM_WP2 | .HBM_WP3 | .TRK_CTRL | .TRK_TIME | .TRK_REGION0 | .TRK_REGION1
  | .TRK_REGION2 | .TRK_REGION3 | .TRK_HIT | .TRK_MISS | .TRK_PF_LINES | .TRK_PF_UNUSED | .TRK_STEAL | .TRK_STATUS => .hbm
  | .WIN_MASK | .WIN_IN_FORCE | .WIN_APPLY_LO | .WIN_APPLY_HI | .WIN_CTRL | .WIN_ERR => .win
  | .WG_INFO | .WG_CTRL | .WG_STATUS | .WG_ROT | .WG_EVT | .WG_CRC | .WG_REPLAY | .WG_STATUS2
  | .RING_TX | .RING_RX | .LANE_CTRL | .LANE_THRESH | .LANE_LINKDOWN | .LANE_TOTAL | .LANE_LOCKLOSS_LO | .LANE_LOCKLOSS_HI
  | .LANE_ERR => .lane
  | .LANT_CTRL | .LANT_APC | .LANT_THRESH | .LANT_ERR | .MOD_STATUS | .MOD_CTRL | .MOD_EVT | .FEED
  | .FEED_SEL | .LANT_I2C | .LANT_I2C_DATA => .lant
  | .YARD_CTRL | .YARD_ID | .YARD_STATUS | .YARD_TIMING | .YARD_LEDGER | .YARD_HB | .YARD_JOIN | .YARD_ERR
  | .GATE_STACK_SVC | .YLINK_CTRL | .YLINK_STATUS | .YLINK_FEC_CORR | .YLINK_FEC_UNCORR | .YLINK_REPLAY | .YLINK_CH_DROP | .YLINK_FLITS_LO
  | .YLINK_FLITS_HI | .PEER_STATUS | .PEER_HB_LO | .PEER_HB_HI | .MCAST_GROUP | .YSCHED_CTRL | .YSCHED_START_LO | .YSCHED_START_HI
  | .YSCHED => .yard
  | .PORT_CTRL | .PORT_STATUS | .PORT_RESET_BEAT_LO | .PORT_RESET_BEAT_HI | .TAG_STALL | .LEDGER_HIT | .LEDGER_UNKNOWN | .RETRY_APPLIED
  | .LEDGER_EXPIRED | .LEDGER_HOLD_BEATS | .PORT_MALFORMED | .SRC_CREDIT_STALL | .HOT | .HOT_ADDR_LO | .HOT_ADDR_HI | .HOT_THRESH
  | .PORT_LOSS0 | .PORT_LOSS1 | .PORT_LOSS2 | .PORT_LOSS3 => .port
  | .ETH_CTRL | .ETH_STATUS | .ETH_VLAN | .ETH_MTU | .ETH_PFC | .ETH_CC | .ETH_IP4 | .ETH_GW4
  | .ETH_PREFIX | .ETH_IP6 | .ETH_GW6 | .ETH_RX_FRAMES_LO | .ETH_RX_FRAMES_HI | .ETH_TX_FRAMES_LO | .ETH_TX_FRAMES_HI | .ETH_FEC_CORR
  | .ETH_FEC_UNCORR | .ETH_DROPS | .ETH_PFC_CNT | .ETH_CNP_CNT | .ETH_CNP_ICRC | .ETH_LEASE | .ETH_ADOPT | .ETH_RDMA_ERR
  | .ETH_ERR | .ETH_SESSION_LOST | .HEAD_ERR | .OWNER_ADDR | .OWNER_CTL => .eth
  | .PWR_CTRL | .PWR_STATUS | .PWR_THR | .PWR_PKG | .PWR_DIODE_CFG | .PWR_COOL | .PWR_COOL_T | .PWR_PKG_POWER
  | .PWR_PKG_MAX | .PWR_PKG_OVER | .PWR_ERR | .RAIL_V | .RAIL_I | .RAIL_P | .RAIL_STATUS | .RAIL_FAULTS
  | .RAIL_ENERGY_LO | .RAIL_ENERGY_HI | .HALF_THERMAL0 | .HALF_THERMAL1 | .HALF_THERMAL2 | .NODE_T | .DIODE0 | .DIODE1 => .pwr
  | .CAL_CTRL | .CAL_STATUS | .CAL_APPLY_LO | .CAL_APPLY_HI | .CAL_IN_FORCE_LO | .CAL_IN_FORCE_HI | .CAL_ERR | .CAL_RESULT0
  | .CAL_RESULT1 | .CAL_RESULT2 | .CAL_RESULT3 => .cal
  | .TACK_STATUS | .TACK_ID | .TACK_IMAGE_SEQ_LO | .TACK_IMAGE_SEQ_HI | .TACK_FW_VERSION | .TACK_CONFIG | .TACK_CTRL | .TACK_SIGN_STATUS
  | .TACK_ERR | .TACK_SIGN_HASH | .TACK_SIGN_OUT | .TACK_PHASE_BEAT_LO | .TACK_PHASE_BEAT_HI => .tack
  | .RM_CTRL | .RM_STATUS | .RM_KICK | .RM_TIMING | .RM_CAROUSEL | .RM_CONFIRM | .RM_SWAP_NONCE | .RM_SWAP_CHECK
  | .RM_EVT | .RM_SWAPS | .RM_ERR | .RM_DECODE_LO | .RM_DECODE_HI | .RM_DECODE_CNT | .RM_ABORT_LO | .RM_ABORT_HI
  | .RM_UPDATE | .RM_FW_VERSION | .RM_LOSS0 | .RM_LOSS1 | .RM_LOSS2 | .RM_LOSS3 | .RM_LOSS_LOST | .RM_HANDOFF => .rm
  | .FAR_CTRL | .FAR_PERIOD | .FAR_STATUS | .FAR_EVT | .FAR_MOVE_LAST | .FAR_MOVE_BEATS | .FAR_ERR | .FAR_LIMITS
  | .FAR_BARN | .FAR_SITE | .FAR_TAP => .far
  | .RST_CTRL | .RST_BASE_LO | .RST_BASE_HI | .RST_SEG | .RST_INTERVAL | .RST_STATUS | .RST_CHUNKS_LO | .RST_CHUNKS_HI
  | .RST_DROP | .RST_ERR | .TRC_HANG_CTRL | .TRC_HANG_CONFIRM | .TRC_HANG_MAP | .TRC_SNAP_BASE_LO | .TRC_SNAP_BASE_HI | .TRC_SNAP_BYTES => .trc
  | .BRK_CTRL | .BRK_CLAIM | .BRK_CLAIMED | .BRK_COMPLETE | .BRK_STATUS | .BRK_STRAY | .BRK_STRAY_LAST | .BRK_PENDING
  | .BRK_SET | .BRK_ENABLE | .BRK_INSERVICE | .BRK_RAISED => .brk

/-- A register word: its name and its indices, outermost first; an index that the register does not have is 0. -/
structure Reg where
  name : RegName
  i : Nat := 0
  j : Nat := 0
  k : Nat := 0
  deriving DecidableEq, Repr

/-- The stride of dimension n of a register. -/
def RegName.stride (r : RegName) (n : Nat) : Nat := ((r.dims[n]?).getD (0, 0)).2

/-- The management address of a register word. -/
def Reg.addr (r : Reg) : Nat :=
  r.name.base + r.i * r.name.stride 0 + r.j * r.name.stride 1 + r.k * r.name.stride 2

/-- Splits an offset into the indices of the dimensions, if it names a word exactly. -/
def splitDims : List (Nat × Nat) → Nat → Option (List Nat)
  | [], o => if o = 0 then some [] else none
  | (c, s) :: t, o => if o / s < c then (splitDims t (o % s)).map (o / s :: ·) else none

/-- The register word of this name at an address, if there is one. -/
def RegName.locate (r : RegName) (a : Nat) : Option Reg :=
  if a < r.base then none else
    match splitDims r.dims (a - r.base) with
    | some l => some ⟨r, l[0]?.getD 0, l[1]?.getD 0, l[2]?.getD 0⟩
    | none => none

/-- The block's registers that can lie at an address of Table 01-6. -/
def regCandidates (a : Nat) : List RegName :=
  if 0x1000000000 ≤ a then
    if a % 0x100000000 < 0x30000000 then regNamesTile else regNamesBarn
  else
    match a / 0x1000000 with
    | 0x100 => regNamesClk
    | 0x101 => regNamesPwr
    | 0x102 => regNamesBrk
    | 0x103 => regNamesTack
    | 0x104 => regNamesLant
    | 0x105 => regNamesLane
    | 0x106 => regNamesEth
    | 0x107 => regNamesYard
    | 0x108 => if a % 0x1000000 < 0xF00000 then regNamesPort else regNamesWin
    | 0x130 => regNamesTrc
    | 0x131 => regNamesRm
    | 0x132 => regNamesCal
    | 0x133 => regNamesFar
    | n => if 0x110 ≤ n ∧ n < 0x124 then regNamesHbm else []

/-- The register word at a management address. -/
def Reg.ofAddr (a : Nat) : Option Reg := (regCandidates a).findSome? (·.locate a)

/-- What a field holds in a word. -/
def Field.get (f : Field) (w : BitVec 32) : Nat := w.toNat / 2 ^ f.lo % 2 ^ f.width

/-- A word with a field set, modulo the field's width. -/
def Field.put (f : Field) (w : BitVec 32) (v : Nat) : BitVec 32 :=
  BitVec.ofNat 32 (w.toNat - f.get w * 2 ^ f.lo + v % 2 ^ f.width * 2 ^ f.lo)

end Sys2Proof.Machine
end

