-- ==== Sys2Proof/Machine/Flags.lean ====
section
/-! DEFINITION. What a write, a read and an event do to the fields of a register word: the access codes of Table 00-4 (R10),
the read-and-clear counters with their same-cycle additions (R12), the counters modulo their width (R443), and the order in which a rejected write
names its one error field (R485). -/

namespace Sys2Proof.Machine

/-- The reason a register write is rejected, in the order of R485. -/
inductive Reject where
  | busyRej
  | malformed
  | bounds
  deriving DecidableEq, Repr

/-- The first reason that applies, in the order of R485. -/
def firstReject (busy malformed bounds : Bool) : Option Reject :=
  if busy then some .busyRej else if malformed then some .malformed else if bounds then some .bounds else none

/-- What an accepted write leaves in one field (Table 00-4). -/
def Field.written (f : Field) (old new : W32) : Nat :=
  match f.access with
  | .rw => f.get new
  | .w1c => Nat.land (f.get old) (2 ^ f.width - 1 - f.get new)
  | .w1s => Nat.lor (f.get old) (f.get new)
  | _ => f.get old

/-- What an accepted write leaves in the word; reserved bits stay as they are (R8). -/
def writeWord (fs : List Field) (old new : W32) : W32 :=
  fs.foldl (fun w f => f.put w (f.written old new)) old

/-- The W1C fields of a word. -/
def w1cFields (fs : List Field) : List Field := fs.filter fun f => match f.access with | .w1c => true | _ => false

/-- What a read of a word returns: write-only fields and reserved bits read as zero (R8, Table 00-4). -/
def readWord (fs : List Field) (w : W32) : W32 :=
  fs.foldl (fun acc f => match f.access with
    | .wo => acc
    | _ => f.put acc (f.get w)) 0

/-- What a read leaves behind: read-and-clear fields become what the same cycle adds (R12); the others stay. -/
def clearWord (fs : List Field) (w adds : W32) : W32 :=
  fs.foldl (fun acc f => match f.access with
    | .rc => f.put acc (f.get adds)
    | _ => acc) w

/-- Whether a register has a read-and-clear field. -/
def hasRc (fs : List Field) : Bool := fs.any fun f => f.access == .rc

end Sys2Proof.Machine
end

