-- ==== Sys2Proof/Machine/State.lean ====
section
/-! DEFINITION. The state of the MJ20 as plain data. Register words of the management address space stand in `regs`, keyed by
management address; what a register table computes from other state is computed when it is read. Everything else has a field
of its own. `pending` is the queue of commands that wait, first in, first out. -/

namespace Sys2Proof.Machine

/-- Why a step stops with a fault. -/
inductive Fault where
  /-- Raised by every command whose operand names a unit that the device does not have (a barn 8, a stack 20, a tile site 768;
  Table 00-6), or that is no command of a well-formed sender (Instr.wf). Safe: no effect of the device is lost. -/
  | noSuchUnit
  deriving DecidableEq, Repr

/-- Why a step is refused. -/
inductive Refusal where
  /-- No meaning has been written for the command. Safe. -/
  | notModelled (mnemonic : String)
  deriving DecidableEq, Repr

/-! ## Tiles (spec/03) -/

/-- Where a queued command stands (R92, R94). -/
inductive Phase where
  /-- not started -/
  | waiting
  /-- started; some of its work has not ended -/
  | running
  /-- its work has ended; its completion is not yet posted -/
  | ended
  deriving DecidableEq, Repr

/-- A unit of a stream channel: its bytes and their POISON mark (R99, R487). -/
structure ChanUnit where
  data : List Byte
  mark : Bool
  deriving DecidableEq, Repr

/-- A command in an engine queue (R87). -/
structure QEntry where
  cmd : W128
  /-- the push index (R445) -/
  idx : Nat
  phase : Phase := .waiting
  /-- packets and other parts not yet ended (R104) -/
  left : Nat := 0
  /-- the status so far, by the order of R104 -/
  status : Nat := 0
  /-- the number of the first field that failed (R129); 0xFFFFFFFF where no check failed -/
  field : Nat := 0xFFFFFFFF
  /-- the number of a copy, which its posted packets carry (model's own) -/
  op : Nat := 0
  /-- what an MMA has taken from its stream channel (R99) -/
  taken : List ChanUnit := []
  deriving DecidableEq, Repr

/-- A remote operation that holds a slot (R118); at an index from 64 on, an ATOMIC or REDUCE_ACK on its own tile, which holds none. -/
structure Slot where
  /-- the queue and push index of its command -/
  queue : Nat
  idx : Nat
  /-- the request as sent, for retries (R282) -/
  pkt : Packet
  /-- where a data reply goes: a local address of the tile, or the yard address of a COPYD destination -/
  dest : Nat
  /-- whether dest is a yard address (COPYD) -/
  destRemote : Bool := false
  /-- arrival counter to add to at the destination, and whether -/
  actr : Nat := 0
  actEn : Bool := false
  /-- beat of the first attempt, and of the latest -/
  issue : Nat
  sent : Nat
  attempts : Nat := 1
  /-- marked by a reset notice (R284) -/
  marked : Bool := false
  /-- the cache line that the reply fills, while no invalidation has come between (R203, R204) -/
  fill : Option Nat := none
  deriving DecidableEq, Repr

/-- A packet that waits for a slot or for a source credit before it leaves the tile (R119, R293). -/
structure Held where
  slot : Slot
  /-- whether it takes a slot -/
  needsSlot : Bool
  deriving DecidableEq, Repr

/-- What the core waits for (R116, R117): kind 1 WAITA, 2 WAITC, 3 WAITB, 4 a stalled PUSH. -/
structure Wait where
  kind : Nat
  index : Nat
  target : W64
  start : Nat
  dest : Nat
  cmd : W128 := 0
  deriving DecidableEq, Repr

/-- A line of the loft cache: the tag of the HBM line it holds (R203). -/
structure CacheLine where
  tag : Nat
  deriving DecidableEq, Repr

/-- A tile site: its core, its engines, its counters and its trace unit. -/
structure Tile where
  /-- the logical tile that the site holds (R28, TILE_ID) -/
  logical : Option Nat := none
  /-- g1-g31; g0 is never listed -/
  g : Sparse W64 := []
  pc : W64 := 0
  evec : W64 := 0
  epc : W64 := 0
  ecause : Nat := 0
  eval : W64 := 0
  inExc : Bool := false
  evtPending : Nat := 0
  evtEnable : Nat := 0
  waitTimeout : Nat := 0
  waitToEn : Bool := false
  ccErr : Nat := 0
  rngSeed : W64 := 0
  rngCount : W64 := 0
  faultQ : List (BitVec 128) := []
  faultData : W64 := 0
  /-- in reset (R130); resetPend: a write of 1 awaits the next beat edge; resetBeat: the edge at which it entered reset -/
  inReset : Bool := true
  resetPend : Bool := false
  resetBeat : Nat := 0
  halted : Bool := true
  haltCause : Nat := 0
  wait : Option Wait := none
  /-- a YIELD waits for the tile to be quiescent so that a posted remap can be done (R122) -/
  yieldWait : Bool := false
  lastYield : Nat := 0
  /-- the commands of each queue, oldest first, by queue number -/
  queues : Sparse (List QEntry) := []
  /-- commands pushed into each queue since tile reset, modulo 2^32 (R445) -/
  pushCount : Sparse Nat := []
  ac : Sparse W32 := []
  cc : Sparse W32 := []
  /-- accumulator elements, at 512 * tile + 32 * row + column -/
  acc : Sparse W32 := []
  /-- the four stream channels, oldest unit first -/
  chan : Sparse (List ChanUnit) := []
  slots : Sparse (Option Slot) := []
  held : List Held := []
  /-- cached lines by line index -/
  lines : Sparse (Option CacheLine) := []
  /-- loft units streaming to each channel that have not arrived (R109) -/
  streaming : Sparse (List (Nat × ChanUnit)) := []
  /-- the instruction words that fetch sees: SRAM as it stood at the last IFLUSH or release (R80) -/
  fetchImg : List Host.Cell := []
  /-- the POISON marks of those words -/
  fetchMarks : Sparse Bool := []
  /-- the trace buffer: records, oldest first, with the slot index of the oldest (R445-R449) -/
  trace : List (BitVec 128) := []
  traceOldest : Nat := 0
  /-- what each word of the buffer last held, for TRC_BUFFER -/
  traceMem : Sparse (BitVec 128) := []
  traceDropped : Nat := 0
  traceFirstDrop : Nat := 0
  traceRing : Nat := 0
  chunkSeq : Nat := 0
  lastChunk : Nat := 0
  /-- clock units at the last release from reset, subtracted for CSR CYCLE -/
  cycleBase : Int := 0
  /-- utilisation counters 1-8 of Table 14-1, in units of 1/6400 cycle (ISSUE in instructions) -/
  util : Sparse Nat := []
  deriving DecidableEq, Repr

/-! ## Clocks (spec/02) -/

/-- An accepted operating-point change (R57-R59): CHANGE_BEAT is c. -/
structure Change where
  next : Nat
  old : Nat
  c : Nat
  raise : Bool
  vcoreStarted : Bool := false
  lockStarted : Bool := false
  /-- the readiness check of c - 1, once made -/
  ready : Option Bool := none
  switched : Bool := false
  lowering : Bool := false
  deriving DecidableEq, Repr

/-- A barn half beyond its registers. -/
structure Half where
  change : Option Change := none
  /-- stopped under R61 -/
  pllStop : Bool := false
  /-- relock attempts made, and marks, of PLL A and PLL B (R441) -/
  triesA : Nat := 0
  triesB : Nat := 0
  failedA : Bool := false
  failedB : Bool := false
  /-- PLL A and PLL B have lost lock (R61) and not locked since -/
  lostA : Bool := false
  lostB : Bool := false
  /-- the point that a START_ACT moves the half to (R56), whether the change under way is the one to it, and such changes that
  failed in a row -/
  actWant : Option Nat := none
  actAsked : Bool := false
  actFails : Nat := 0
  /-- the VID code driven (R466) and the VCORE enable (R467) -/
  vid : Nat := 30
  vcoreEn : Bool := false
  /-- the beat at which the VCORE enable goes low (R469) -/
  offAt : Option Nat := none
  /-- the act's tiles of the half wait in reset until CUR names a point of the act's set (R56) -/
  actHold : Bool := false
  deriving DecidableEq, Repr

/-- A clock region: which causes stop it (R71, R74). -/
structure Region where
  /-- the barn has been powered and its clocks started -/
  started : Bool := false
  gate : Bool := false
  /-- a write of GATE that takes effect at the next beat edge -/
  gatePend : Option Bool := none
  farrier : Bool := false
  retired : Bool := false
  stretching : Bool := false
  /-- the trim of the replica line (R66) -/
  trim : Option Rat := none
  /-- what the region's copies of the beat counter hold while they differ from it (R44) -/
  stale : Option Nat := none
  /-- the estimator interval of the last saturated cycle, and such cycles in it (R357) -/
  satIn : Nat := 0
  satCount : Nat := 0
  /-- cycles of the region's clock since package start, in units of 1/6400 cycle -/
  units : Nat := 0
  deriving DecidableEq, Repr

/-! ## Management bus (spec/01) -/

/-- An access on the Ringmaster bus. -/
inductive BusAccess where
  | write (addr : Nat) (v : W32)
  | read (addr : Nat)
  deriving DecidableEq, Repr

/-! ## Packets under way -/

/-- The next unit that a packet under way comes to. -/
inductive Place where
  | router (b x port : Nat)
  | tile (b x : Nat)
  /-- an input of a port router: 0-31 the optical link from that router, 32 its taps or its controller, 32 + l % 8 a gate's yard
  link l, 33 a barn's Ethernet engine, 40 the reset marks that it sends itself -/
  | port (p inp : Nat)
  /-- an ATOMIC or REDUCE_ACK at its target's port router (R286) -/
  | ledger (p : Nat)
  | hbm (n : Nat)
  /-- a request that came over a yard link for this member (R276) -/
  | gate (l : Nat)
  /-- the answer to an Ethernet engine's request, at the barn port router through which it went (R340) -/
  | eth (p : Nat)
  /-- a packet at a gate bound for a yard link -/
  | ylink (l : Nat)
  deriving DecidableEq, Repr

/-- A packet under way. -/
structure Flight where
  place : Place
  pkt : Packet
  /-- it has passed the checks of the router at which it stands; until then it is on the link, or in the link's Turnstile (R163, R168) -/
  come : Bool := false
  /-- cycles for which it has waited at the head of its buffer (R183) -/
  waited : Nat := 0
  deriving DecidableEq, Repr

/-! ## Port routers (spec/08) -/

/-- A tag of a port router (R280): the request as it came, and the router or yard link (32 + l) that it went to. -/
structure TagEntry where
  tag : Nat
  req : Packet
  out : Nat
  deriving DecidableEq, Repr

/-- An entry of the atomic ledger (R285). -/
structure LedgerEntry where
  req : Packet
  pending : Bool := true
  status : Nat := 0
  result : List Byte := []
  marks : List Bool := []
  beat : Nat
  deriving DecidableEq, Repr

/-- A port router beyond its registers. -/
structure PortSt where
  tags : List TagEntry := []
  ledger : List LedgerEntry := []
  /-- the watermarks W[s] by source key (R285) -/
  water : Sparse (Option Nat) := []
  /-- line entries of the combining stage, oldest first (R294) -/
  lines : List Packet := []
  /-- packets that have been folded into another of `lines`, without their data: a reset accounts for them (R284) -/
  foldedIn : List Packet := []
  /-- credits that the router owes, by source key, and the beat at which it last returned some (R293) -/
  owed : Sparse Nat := []
  creditAt : Nat := 0
  /-- beat at which a packet last left each input (R435) -/
  moved : Sparse Nat := []
  /-- coalesces since the start of the 10,000 beats that HOT_THRESH counts -/
  hotStart : Nat := 0
  hotCount : Nat := 0
  /-- a reset under way began at this beat (R284) -/
  resetAt : Option Nat := none
  deriving DecidableEq, Repr

/-! ## Routers (spec/05) -/

/-- A use of an output or of the local sink by a scheduled slot that has begun: its input, its flow and sink, and the packet
once it has arrived (R185-R193). -/
structure SchedCell where
  /-- the slot, counted from beat 0 -/
  slot : Nat
  /-- the input port; 4 the local flow -/
  inp : Nat
  /-- the flow's data is still to be added -/
  add : Bool
  flow : Nat
  sink : Nat
  pkt : Option Packet := none
  deriving DecidableEq, Repr

/-- A router's scheduled class beyond its registers. -/
structure RouterSt where
  /-- the slot after the last that has begun, counted from beat 0 -/
  nextSlot : Nat := 0
  /-- scheduled packets that arrived before their slot began, by input port -/
  inbuf : Sparse (List Packet) := []
  /-- the uses of each mesh output 0-3 and of the sink 4, in slot order -/
  cells : Sparse (List SchedCell) := []
  /-- SCHED_EN has been written 0: the schedule stops at the next frame boundary -/
  stopping : Bool := false
  /-- by mesh output: the packet of which some flits stand in the link's Turnstile while the others find it full (R68) -/
  stalled : Sparse (Option Packet) := []
  /-- by output * 4 + network: the ESC buffer has the next turn (R183) -/
  escNext : Sparse Bool := []
  deriving DecidableEq, Repr

/-! ## Acts and the shape table -/

/-- An act in the staging area (R412): its bytes, its service header and where that goes (R297), and whether it runs. -/
structure Act where
  image : List Byte
  header : List Byte
  headerAddr : Nat
  running : Bool := false
  /-- TAG of the START_ACT request: NONCE of the report (R413) -/
  nonce : Nat := 0
  deriving DecidableEq, Repr

/-! ## Power, heat and calibration (spec/11) -/

/-- The PWR block beyond its registers. -/
structure PwrSt where
  /-- the estimator has made its first step (R361) -/
  stepped : Bool := false
  /-- temperatures of the nodes in °C -/
  temps : Sparse Rat := []
  /-- the last accepted inlet reading, and reads not accepted and accepted in a row (R364) -/
  accepted : Option Int := none
  badReads : Nat := 0
  goodReads : Nat := 0
  /-- intervals above TDP_W in a row (R371) -/
  overFor : Nat := 0
  /-- settings before a write of this beat, by address: the beat and the word; the settings in force (R376) -/
  late : Sparse (Option (Nat × W32)) := []
  settings : Sparse (Option W32) := []
  /-- the beat of the last interval that was closed, of the last inlet read, of the last read of each diode (R359, R363, R366) -/
  closedAt : Option Nat := none
  coolAt : Option Nat := none
  diodeAt : Sparse (Option Nat) := []
  /-- intervals left of FAULT by rail, and of the fault term by half (R357, R373) -/
  railLeft : Sparse Nat := []
  termLeft : Sparse Nat := []
  /-- beats of the latest faults of each rail (R438) -/
  railBeats : Sparse (List Nat) := []
  /-- CAP_SAT intervals in a row by barn (R374) -/
  satRun : Sparse Nat := []
  /-- reads in a row beyond and within DIODE_TOL by diode (R367); diodes treated as failed (R368) -/
  diodeBad : Sparse Nat := []
  diodeGood : Sparse Nat := []
  diodeFailed : Nat := 0
  /-- beats of each barn's trips (R439) -/
  tripBeats : Sparse (List Nat) := []
  /-- energy of each rail in mJ -/
  energy : Sparse Rat := []
  /-- a VBASE, VPHOT or VAUX rail has had a fault (Table 13-1) -/
  baseFault : Bool := false
  deriving DecidableEq, Repr

/-- The CAL block beyond its registers. -/
structure CalSt where
  /-- the calibration block in force, and whether one is -/
  block : Option CalBlock := none
  /-- corrections in force by chain, those before, and the beat of the change (R381) -/
  now : List CalPair := []
  before : List CalPair := []
  since : Nat := 0
  /-- the run under way or accepted: pass A and the corrections -/
  passA : List CalPair := []
  /-- the beat at which the pass or the gap under way ends (R379) -/
  due : Nat := 0
  found : List CalPair := []
  /-- CALREF as last read, in µV -/
  calref : Nat := 0
  /-- a committed retrace awaits its field record (R402) -/
  recordDue : Bool := false
  /-- the highest RECORD_SEQ found or written -/
  recordSeq : Nat := 0
  /-- field record slots in use -/
  recordSlots : Nat := 0
  /-- the first slot written since the start -/
  recordFirst : Option Nat := none
  deriving DecidableEq, Repr

/-! ## HBM controllers (spec/06) -/

/-- A line of the stream buffer (R219): its fill beat, and whether it has been read. -/
structure BufLine where
  line : Nat
  fill : Nat
  used : Bool := false
  deriving DecidableEq, Repr

/-- A line in fetch: the demand reads that wait for it, and whether its data is discarded on arrival (R220). -/
structure Fetch where
  line : Nat
  waits : List Packet := []
  discard : Bool := false
  deriving DecidableEq, Repr

/-- A stream's key (R221): member, source port, SRC_SITE. -/
structure StreamKey where
  member : Nat
  port : Nat
  site : Nat
  deriving DecidableEq, Repr

/-- A sequential tracker: its line and the beat of its last demand. -/
structure Tracker where
  key : StreamKey
  line : Nat
  last : Nat
  deriving DecidableEq, Repr

/-- An HBM controller beyond its registers. -/
structure HbmSt where
  /-- buffered lines, oldest fill first -/
  lines : List BufLine := []
  fetches : List Fetch := []
  trackers : List Tracker := []
  /-- keys of the last 256 demand lines, latest first -/
  recent : List (StreamKey × Nat) := []
  /-- the stack's own readout in °C -/
  readout : Option Nat := none
  /-- beat of the last timing tracking -/
  tracked : Option Nat := none
  /-- beats of the latest uncorrectable events (R216) -/
  ueBeats : List Nat := []
  /-- rows with a correctable error on a scrub pass, with the pass -/
  scrubbed : List (Nat × Nat) := []
  /-- the on-die ECC severity that the stack reported with the latest read (R209) -/
  severity : Option Nat := none
  /-- repairs made by bank, and whether a row needed one that its bank did not have (R216) -/
  repairs : Sparse Nat := []
  noRepair : Bool := false
  /-- the beat at which a retirement began; whether the window without the stack has been committed; the beat at which the controller
  stopped accepting (R228) -/
  retiring : Option Nat := none
  masked : Bool := false
  closedAt : Option Nat := none
  deriving DecidableEq, Repr

/-! ## Optical links (spec/07) -/

/-- A lane map that a receiver has (R237, R239): its epoch, the sequence from which it applies, masks by waveguide index. -/
structure LaneMap where
  epoch : Nat
  start : Nat
  masks : List (Nat × Nat)
  deriving DecidableEq, Repr

/-- One direction of an optical link. -/
structure LinkDir where
  /-- sequence of the next new data flit -/
  next : Nat := 0
  /-- data flits not yet acknowledged, oldest first -/
  replay : List (Nat × Flit) := []
  /-- flits of the far pool in use, by virtual network (R231) -/
  used : Sparse Nat := []
  /-- epoch of the latest LANE_MAP sent, and the latest acknowledged -/
  epoch : Nat := 0
  acked : Nat := 0
  /-- the sequence that the receiver expects -/
  expect : Nat := 0
  /-- a packet of which some flits are still to come, and their number -/
  part : Option (Packet × Nat) := none
  /-- LANE_MAP messages of an epoch whose LAST has not arrived; whole maps that await their sequence, oldest first; the lanes before the
  last map that came in force, with its sequence (R239) -/
  gathered : Option LaneMap := none
  due : List LaneMap := []
  prior : Option (Nat × List Nat) := none
  /-- the lane, by 16 * waveguide index + wavelength, from which on the next flit is dealt (R235) -/
  deal : Nat := 0
  /-- control messages sent in this direction that have not arrived -/
  ctl : List W128 := []
  /-- the beat since which the direction has had no lane, once it has had one -/
  zeroSince : Option Nat := none
  deriving DecidableEq, Repr

/-- One direction of a waveguide: lanes that its transmit and its receive end can use, the mask last asked for, the mask last
sent in a LANE_MAP, and when the pattern check of a lane began or failed. -/
structure LaneDir where
  tx : Nat := 0
  rx : Nat := 0
  asked : Nat := 0xFFFF
  sent : Nat := 0
  checks : Sparse (Option Nat) := []
  retry : Sparse (Option Nat) := []
  /-- how far the training of the start has come (Table 07-4), and whether it has ended -/
  stage : Nat := 0
  trained : Bool := false
  deriving DecidableEq, Repr

/-- A microring (R243): heater and feed-forward in GHz, the feedback integral, the ramp in GHz a beat, the modelled temperature of
the last estimator update, beats in a row outside LOCK_WIN. -/
structure RingSt where
  heat : Rat := 0
  ff : Rat := 0
  integ : Rat := 0
  ramp : Rat := 0
  temp : Option Rat := none
  loose : Nat := 0
  locked : Bool := false
  deriving DecidableEq, Repr

/-- A lantern module beyond its registers. -/
structure ModSt where
  /-- beat of its insertion; LMk_RESET_n released; CTRL bit 0 set; beat of a release request -/
  insertedAt : Option Nat := none
  resetHigh : Bool := false
  lasersOn : Bool := false
  releaseAt : Option Nat := none
  /-- the beat since which LMk_REQ_n has been low -/
  reqSince : Option Nat := none
  /-- light was still there 150,000 beats after a release request (R256) -/
  lateLight : Bool := false
  /-- its lanes and its yard channel are in use -/
  inUse : Bool := false
  /-- BIAS_MAX of its lasers as read, in 10 µA (Table 07-9) -/
  biasMax : List Nat := []
  /-- the page that register 0x7F selects -/
  page : Nat := 0
  deriving DecidableEq, Repr

/-- A switch-in under way (R252): the spare, the laser it replaces, the beat at which its step began, and the step: 1 warming, 2 the lane
leaves, 3 FEED_SEL settles, 4 the rings relock and are checked. -/
structure Switch where
  spare : Nat
  laser : Nat
  since : Nat
  step : Nat := 1
  deriving DecidableEq, Repr

/-! ## Yard links and membership (spec/08) -/

/-- What the last IDENT on a link showed (R270). -/
structure Peer where
  member : Nat
  link : Nat
  state : Nat
  count : Nat
  nextSync : Nat
  tag : Nat
  deriving DecidableEq, Repr

/-- A yard link beyond its registers. -/
structure YLinkSt where
  /-- transmit: CSEQ of the next new codeword, codewords not acknowledged, flits of the far pool in use by network -/
  next : Nat := 0
  replay : List (Nat × List Flit) := []
  used : Sparse Nat := []
  /-- control messages that wait for a control flit, and the beat of the last one (R262) -/
  ctl : List W128 := []
  ctlAt : Option Nat := none
  /-- the channel from which on the next codeword is dealt (R258); scrambler states of transmitters and receivers, and PRBS31 states, by
  channel (R260, R261) -/
  deal : Nat := 0
  scr : Sparse Nat := []
  descr : Sparse Nat := []
  prbs : Sparse Nat := []
  /-- channels in service as last sent in CH_MAP, the mask last asked for, the epoch sent and acknowledged -/
  mask : Nat := 0
  asked : Nat := 0
  epoch : Nat := 0
  acked : Nat := 0
  /-- the mask before the last CH_MAP sent, with its CSEQ (R239) -/
  prior : Option (Nat × Nat) := none
  /-- receive: the CSEQ expected, whether it has been asked for by NACK (R259), a packet whose flits are still to come, channels that
  passed training, channels in service, maps that await their codeword -/
  expect : Nat := 0
  nacked : Bool := false
  part : Option (Packet × Nat) := none
  good : Nat := 0
  rx : Nat := 0
  due : List (Nat × Nat) := []
  /-- packets in the gate's buffer that came as FORWARD and fill the pool of VN2 (R264, R292) -/
  asForward : List Packet := []
  /-- by channel: the beat since which it trains; the beat at which an attempt failed; beats of failed codewords; uncorrectable codewords
  in a row (R260) -/
  training : Sparse (Option Nat) := []
  retry : Sparse (Option Nat) := []
  fails : Sparse (List Nat) := []
  bad : Sparse Nat := []
  zeroSince : Option Nat := none
  /-- the reserved slot, by its first beat, in which a stream's packet was sent (R278), and the beat from which streams are scheduled again
  after the peer's holdover (R279) -/
  slotAt : Option Nat := none
  streamsFrom : Nat := 0
  peer : Option Peer := none
  deriving DecidableEq, Repr

/-- A move of the flows to a member (R268): the links before, and the drain number. -/
structure FlowMove where
  before : List Nat
  num : Nat
  deriving DecidableEq, Repr

/-- A DRAIN_REQ not yet answered: the member, its number, the link it came on. -/
structure DrainDue where
  member : Nat
  num : Nat
  link : Nat
  deriving DecidableEq, Repr

/-- The package's membership beyond its registers. -/
structure YardSt where
  links : Sparse YLinkSt := []
  /-- the links in use towards each member (R267), and moves of flows under way -/
  inUse : Sparse (List Nat) := []
  moves : Sparse (Option FlowMove) := []
  drains : List DrainDue := []
  drainNum : Nat := 0
  /-- JOIN_BEAT announced by each member, the package's own included -/
  joins : Sparse (Option Nat) := []
  /-- beat at which each member's last HEARTBEAT arrived -/
  heard : Sparse (Option Nat) := []
  /-- beat since which the package is JOINING; beats of the last IDENTs and HEARTBEATs sent -/
  since : Option Nat := none
  lastIdent : Option Nat := none
  lastHeart : Option Nat := none
  /-- EN of YSCHED_CTRL was cleared: the schedule ends at this frame boundary -/
  schedEnd : Option Nat := none
  /-- the beat from which streams are scheduled again after the package's own holdover (R53, R279) -/
  streamsFrom : Nat := 0
  deriving DecidableEq, Repr

/-- A message of a queue pair (R336, R337): a SEND, the data of an RDMA WRITE, an RDMA READ request, an acknowledgement, a NAK
(1 Invalid Request, 2 Remote Access Error), the data of an RDMA READ. -/
inductive HostMsg where
  | send (data : List Byte)
  | write (va key : Nat) (data : List Byte)
  | read (va key len : Nat)
  | ack
  | nak (code : Nat)
  | readData (data : List Byte)
  deriving DecidableEq, Repr

/-- What an Ethernet port sends. -/
inductive EthMsg where
  /-- a message of a queue pair -/
  | roce (qp : Nat) (m : HostMsg)
  /-- connection management on QP1, to an address: 1 REP, with the device's QP number; 2 REJ; 3 DREP -/
  | cm (v6 : Bool) (dst kind qp : Nat)
  /-- a congestion notification packet to the peer of a QP -/
  | cnp (qp : Nat)
  /-- PFC for a priority: XOFF or XON -/
  | pfc (prio : Nat) (xoff : Bool)
  /-- the answer to an ARP, neighbour solicitation or echo request -/
  | answer (k : FrameKind)
  deriving DecidableEq, Repr

/-- How the frames of a message are addressed: the VID of its tag (R332), its 802.1Q priority and DSCP (Table 10-2), the ECN field
(R335: 2 is ECT(0)), the UDP source port of a RoCEv2 packet (R337), and the address of the next hop (R333). -/
structure FrameHead where
  vid : Option Nat := none
  prio : Nat := 0
  dscp : Nat := 0
  ecn : Nat := 0
  udp : Nat := 0
  hop : Nat := 0
  deriving DecidableEq, Repr

/-- What the package sends outside: a training frame of a yard channel, a yard codeword and its levels, an I²C transfer, the
start of a read of the coolant sensor, an Ethernet message of a port. -/
inductive Sent where
  | frame (l k : Nat) (levels : List Nat)
  | codeword (l k cseq : Nat) (flits : List Flit) (levels : List Nat)
  | i2c (k reg : Nat) (read : Bool) (data : List Byte)
  /-- the pointer byte written to the coolant sensor, at an address (R363) -/
  | coolant (addr reg : Nat)
  | eth (p : Nat) (head : FrameHead) (m : EthMsg)
  /-- a port tries to bring its link up on lanes 0 to lanes - 1: the rate advertised under Clause 73 before link training; none for a module,
  where the port runs neither (R330, R331) -/
  | ethStart (p lanes : Nat) (advert : Option Nat)
  deriving DecidableEq, Repr

/-! ## Hangs (spec/14) -/

/-- An entry of a hang snapshot (Table 14-6). -/
structure HangItem where
  kind : Nat
  detail : Nat
  node : Nat
  on : Nat
  value : Nat
  since : Nat
  deriving DecidableEq, Repr

/-- Pass A of a snapshot (R462): its beat and what waited. -/
structure HangPass where
  beat : Nat
  items : List HangItem
  deriving DecidableEq, Repr

/-! ## The Ringmaster pair (spec/13) -/

/-- A swap whose check is awaited (Table 13-2): its beat, the former holder (1 A, 2 B), and whether it hands a new firmware over. -/
structure Swap where
  beat : Nat
  former : Nat
  update : Bool
  deriving DecidableEq, Repr

/-- The RM block beyond its registers. -/
structure RmSt where
  /-- beat of the last write of RM_KICK, or of the start of the watchdog -/
  kicked : Nat := 0
  /-- the watchdog has fired and WD_GRACE runs from this beat -/
  graceFrom : Option Nat := none
  /-- a warm restart at this beat has not been confirmed by time (R420) -/
  restartAt : Option Nat := none
  /-- beats of the latest divergences (R419) -/
  diverged : List Nat := []
  swap : Option Swap := none
  /-- the beat at which ACTIVE passes back to HOME (R423) -/
  returnAt : Option Nat := none
  /-- beat of GO, the firmware version before the handover, and the holder that paused (Table 13-3) -/
  goAt : Nat := 0
  oldVersion : W32 := 0
  paused : Nat := 0
  /-- what the slot that did not boot holds (Table 13-3) -/
  staged : Option SlotImage := none
  /-- management requests that wait for the end of a pause (R421): queue pair and message -/
  waiting : List (Nat × List Byte) := []
  /-- beat of NO_MASTER (R426) -/
  noMasterAt : Option Nat := none
  deriving DecidableEq, Repr

/-! ## Host ports and the generation service (spec/09, spec/10) -/

/-- A queue pair: its port, its peer's number, the path MTU; whether it is connected or in the error state. -/
structure Qp where
  port : Nat
  peer : Nat
  /-- the peer's address -/
  v6 : Bool := false
  addr : Nat := 0
  mtu : Nat
  up : Bool := true
  /-- its rate in Gb/s, and the beat of the last CNP or rise (R335) -/
  rate : Rat
  rateAt : Nat
  /-- the beat of the last CNP sent for it, and of the last doorbell or SEND on it (R354) -/
  cnpAt : Option Nat := none
  heard : Nat
  /-- the last request sent on it, when, and how often it was sent again -/
  last : Option HostMsg := none
  sentAt : Nat := 0
  retries : Nat := 0
  deriving DecidableEq, Repr

/-- An Ethernet port beyond its registers: when its link was last tried; what fills its receive buffer; messages that wait for a
paused priority; when each pause ends. -/
structure EthSt where
  triedAt : Nat := 0
  bufKb : Nat := 0
  held : List (Nat × EthMsg) := []
  pauseEnd : Sparse Nat := []
  deriving DecidableEq, Repr

/-- An RDMA access of a host under way in the package (R339, R340). -/
structure HostOp where
  /-- its number among operations, by which the answers to its packets are known -/
  id : Nat
  qp : Nat
  va : Nat
  len : Nat
  /-- the data of a WRITE, and its immediate; a READ has none -/
  data : Option (List Byte) := none
  imm : Option W32 := none
  /-- the barn port router by which its packets have been sent, and how many of them are not answered yet -/
  router : Option Nat := none
  left : Nat := 0
  /-- what a READ has got so far: offset, bytes and marks -/
  got : List (Nat × List Byte × List Bool) := []
  /-- the first status of an answer by which the access fails -/
  status : Nat := 0
  deriving DecidableEq, Repr

/-- A command of the service that has been consumed: its session, its index, its entry. -/
structure SvcCmd where
  sess : Nat
  idx : Nat
  entry : List Byte
  deriving DecidableEq, Repr

/-- Why the device reads host memory: a LOAD_ACT request, or a command of the service. -/
inductive ReadFor where
  | act (msg : List Byte)
  | cmd (c : SvcCmd)
  deriving DecidableEq, Repr

/-- A ring in host memory (R350): its address, its key, its records, and the records written; whether its head is out of range, which
HEAD_ERR has counted (R352). -/
structure HostRing where
  va : Nat := 0
  key : Nat := 0
  entries : Nat := 0
  tail : Nat := 0
  odd : Bool := false
  deriving DecidableEq, Repr

/-- A session: its QP and completion ring, the commands rung and consumed, the times that AREA_BASE changed. -/
structure Session where
  qp : Nat
  ring : HostRing
  rung : Nat := 0
  consumed : Nat := 0
  epoch : Nat := 0
  deriving DecidableEq, Repr

/-- A sequence entry (R302): state 0 FREE, 1 PREFILL, 2 DECODE, 3 HELD. -/
structure Seqn where
  state : Nat := 0
  /-- the session that owns it; none while it is held for adoption, until adoptBy -/
  owner : Option Nat := none
  adoptBy : Nat := 0
  /-- the sampling parameter record (Table 09-4) -/
  params : List Byte := []
  ring : HostRing := {}
  /-- the tokens held, and how many of them have their KV -/
  tokens : List Nat := []
  done : Nat := 0
  /-- tokens streamed since the OPEN or APPEND; draws taken (R312) -/
  streamed : Nat := 0
  draws : Nat := 0
  /-- the page slots reserved (R304), in block order; whether the KV was lost (R327) -/
  pages : List Nat := []
  lost : Bool := false
  /-- its place in the order of acceptance -/
  order : Nat := 0
  /-- commands CANCEL and CLOSE that take effect at the end of the round or chunk under way (R309) -/
  ending : List SvcCmd := []
  closing : Bool := false
  deriving DecidableEq, Repr

/-- The generation service. -/
structure Svc where
  /-- AREA_BASE, and the place in the list of service tiles of the lead -/
  area : Nat := 0
  lead : Nat := 0
  sessions : Sparse (Option Session) := []
  seqs : Sparse Seqn := []
  /-- the session whose turn is next (R345); the command whose host read is awaited -/
  turn : Nat := 0
  busy : Option SvcCmd := none
  /-- completion records that wait for room, oldest first, by session -/
  waiting : List (Nat × List Byte) := []
  /-- the barn count of the layout in force, and its barns -/
  layout : Nat := 0
  layoutBarns : Nat := 0
  /-- a LOAD_WEIGHTS has completed; the barns whose slice ranges hold their weights -/
  loaded : Bool := false
  filled : Nat := 0
  /-- the weight map, where it lies in another member: as LOAD_WEIGHTS read it and R488 rewrote it -/
  farMap : List Byte := []
  /-- the status with which generation stopped (Table 09-5) -/
  stopped : Option Nat := none
  /-- S[0..w − 1] (R316), and the page slots in use of each stack's pool (R327) -/
  kvStacks : List Nat := []
  slots : Nat := 0
  lastAdmitted : Nat := 255
  /-- decode rounds since the last chunk; OPENs and APPENDs accepted -/
  since : Nat := 0
  orders : Nat := 0
  /-- the address whose POISON last discarded a round (Table 09-5) -/
  poisonAt : Option Nat := none
  /-- the counters of Table 09-6, by offset -/
  stats : Sparse Nat := []
  deriving DecidableEq, Repr

/-! ## Start and trust (spec/12) -/

/-- The start beyond its registers. -/
structure StartSt where
  /-- the device is out of reset: PKG_RESET_n has risen and VAUX has held -/
  out : Bool := false
  /-- XSPI0_RESET_n and XSPI1_RESET_n are held low (R474) -/
  flashReset : Bool := true
  /-- the PUF array has been overwritten since VAUX rose (R410, R414) -/
  pufSpent : Bool := false
  /-- the identity key, while the Tack room holds one (R410, R414) -/
  key : Option Nat := none
  /-- the image booted -/
  image : Option SlotImage := none
  /-- the field records found in either device (R402) -/
  fields : List FieldRecord := []
  /-- phase 2 has applied the calibration block -/
  begun : Bool := false
  /-- the beat at which the record under way began -/
  recordSince : Option Nat := none
  /-- SM3 of the field record in force -/
  fieldHash : List Byte := []
  /-- the beat of the barn test under way, and its barn; whether the barn's clocks run yet (Table 12-2) -/
  testing : Option (Nat × Nat) := none
  testRuns : Bool := false
  /-- where each barn stands: 0 untested, 1 tested good, 2 in service, 3 out -/
  stages : Sparse Nat := []
  /-- the TAP instruction in effect -/
  tap : Nat := 1
  /-- the beat of the signing request under way -/
  signAt : Option Nat := none
  deriving DecidableEq, Repr

/-! ## The device -/

/-- Everything that the spec gives the MJ20, the commands that wait apart. -/
structure Dev where
  /-- register words that differ from their reset values, by management address -/
  regs : Sparse W32 := []
  /-- memory bytes that differ from zero: by management address for the Ringmaster's memories, by `sramBase` for tile SRAM and
  loft slices, by `hbmBase` for the stacks -/
  mem : List Host.Cell := []
  /-- words and bursts marked POISON, by the address of their first byte -/
  poison : Sparse Bool := []
  /-- words of the slices with a single-bit error that nothing has corrected yet (R200) -/
  soft : Sparse Bool := []
  /-- beats at which a word of tile SRAM reported uncorrectable (R432) -/
  sramErrs : Sparse (List Nat) := []
  /-- operations of the tiles numbered so far (model's own field) -/
  ops : Nat := 0
  /-- the beat counter (R43), whether it counts, the beats left of a hold (R49) -/
  beat : Nat := 0
  counting : Bool := false
  holdLeft : Nat := 0
  /-- the counter has been aligned by an armed pulse (R48); a return to YREF awaits a pulse (R53) -/
  aligned : Bool := false
  returnPend : Bool := false
  /-- the compensation of the holdover oscillator in force (R51) -/
  oscTrim : Option Rat := none
  /-- the next free value (model's own field) -/
  fresh : Nat := 0
  /-- the value that the last Ringmaster read returned (model's own field) -/
  busData : W32 := 0
  /-- words latched by a read (R9, R461), by management address -/
  latch : Sparse W32 := []
  /-- accesses held at a stopped region, oldest first (R71) -/
  busHeld : List BusAccess := []
  halves : Sparse Half := []
  regions : Sparse Region := []
  tiles : Sparse Tile := []
  /-- packets under way -/
  net : List Flight := []
  /-- source sequence counters of the logical tiles (R275), by barn * 1024 + tile -/
  seqs : Sparse W32 := []
  /-- source credits spent by a logical tile towards a port (R293), by (barn * 1024 + tile) * 512 + member * 32 + target -/
  credits : Sparse Nat := []
  ports : Sparse PortSt := []
  /-- the tables that each barn's routers loaded (R176), by barn * 1024 + site or tile -/
  parents : Sparse W32 := []
  maps : Sparse W32 := []
  /-- MAP entries of single routers written since the load, by (barn * 768 + site) * 1024 + tile -/
  mapOver : Sparse (Option W32) := []
  /-- ROUTE entries of single routers written since the load, by (barn * 768 + site) * 1024 + site -/
  routeOver : Sparse (Option W32) := []
  /-- the barns whose routers have computed their routes since the start (R176) -/
  routed : Nat := 0
  routers : Sparse RouterSt := []
  /-- beats of the latest CRC errors of tap bundles and of coils, by (barn * 768 + site) * 8 + bundle or die (R181, R197) -/
  tapErrs : Sparse (List Nat) := []
  coilErrs : Sparse (List Nat) := []
  hbms : Sparse HbmSt := []
  /-- a committed window mask and its beat (R226) -/
  winNext : Option (Nat × Nat) := none
  /-- window changes so far, and the ranges of the stacks written since the latest, as (memory address, bytes) (R227) -/
  winChanges : Nat := 0
  winWritten : List (Nat × Nat) := []
  pwr : PwrSt := {}
  cal : CalSt := {}
  /-- SM3 of the calibration section in force (R402) -/
  factoryHash : List Byte := []
  /-- both directions of each optical link, at 2 * link + direction; of each waveguide, at 2 * waveguide + direction -/
  olinks : Sparse LinkDir := []
  lanes : Sparse LaneDir := []
  /-- rings at ((2 * waveguide + direction) * 2 + transmit) * 16 + ring; bank temperatures at the last rehop or training -/
  rings : Sparse RingSt := []
  banks : Sparse (Option Rat) := []
  /-- the beat at which the lantern modules of the start reported READY (R247) -/
  trainAt : Option Nat := none
  mods : Sparse ModSt := []
  /-- switch-ins under way, by 2 * module + wavelength parity and group (R252) -/
  switches : Sparse (Option Switch) := []
  /-- banks whose lanes are leaving for a rehop, and whether ROT increases (R246) -/
  rehops : Sparse (Option Bool) := []
  yard : YardSt := {}
  /-- what the package has sent outside, oldest first -/
  sent : List Sent := []
  /-- beat of the last MAP write of a move whose vacated site still forwards, by barn * 768 + site (R178) -/
  fwdSince : Sparse (Option Nat) := []
  /-- halves whose schedule has to be re-placed after a move (R434) -/
  replaceDue : Sparse Bool := []
  /-- a barn's routers drain for a rewrite of their routes: the router that failed (R175) -/
  rewriting : Sparse (Option Nat) := []
  /-- regions that the Farrier has tested, and the beat of the last test (R428) -/
  farTests : Nat := 0
  farLast : Nat := 0
  /-- beat of the last hang examination (R460); pass A and the generation of the snapshot (R462, R463) -/
  hangLast : Nat := 0
  hangA : Option HangPass := none
  hangGen : Nat := 0
  rm : RmSt := {}
  /-- the act that is loaded (R412) -/
  act : Option Act := none
  /-- the STOP_ACT requests that wait for the act's tiles to halt: their QPs and messages -/
  stopping : List (Nat × List Byte) := []
  /-- queue pairs 0x10_0000 + i; RDMA READs of the device that await their data, oldest first; accesses of hosts under way, oldest first;
  the Ethernet ports -/
  qps : Sparse (Option Qp) := []
  reads : List (Nat × ReadFor) := []
  hostOps : List HostOp := []
  eth : Sparse EthSt := []
  /-- the generation service, while an act that carries it runs -/
  svc : Option Svc := none
  start : StartSt := {}
  /-- the VLOFT enables, by barn (R467) -/
  vloftEn : Nat := 0
  /-- GENERATION of the shape table (R32) -/
  generation : Nat := 0
  /-- PEER[m] of the shape table: barns, stacks, service level (R31) -/
  peerShape : Sparse (Nat × Nat × Nat) := []
  /-- barns that stay out until the next start (R56, R390, R438, R439, R441) -/
  barred : Nat := 0
  /-- BARNS_IN_SERVICE of the shape table in force (R31) -/
  barnsIn : Nat := 0
  deriving DecidableEq, Repr

/-- The device, and the commands that wait, first in, first out. -/
structure State where
  dev : Dev
  pending : List Instr
  deriving DecidableEq, Repr

/-- The machine right after reset: every register at its reset value (Machine/Regs.lean), memory with nothing listed. -/
def State.reset : State := ⟨{}, []⟩

end Sys2Proof.Machine
end

