-- ==== Sys2Proof/Machine/Ops.lean ====
section
/-! DEFINITION. The named operations that the meanings share: registers, memory with its POISON marks, tiles, the Barker, trace
records, free values, packets under way. -/

namespace Sys2Proof.Machine

/-- What a meaning answers. -/
abbrev Out := Host.Outcome State Fault Refusal

/-- A command on a unit that the device has: its effect on everything but the queue. -/
def onUnit (ok : Bool) (s : State) (f : Dev → Dev) : Out :=
  if ok then .next { s with dev := f s.dev } else .fault .noSuchUnit

/-- Applies f where a condition of the state holds; an event whose condition does not hold changes nothing. -/
def Dev.when (d : Dev) (c : Bool) (f : Dev → Dev) : Dev := if c then f d else d

/-! ## Registers -/

def r0 (n : RegName) : Reg := ⟨n, 0, 0, 0⟩
def r1 (n : RegName) (i : Nat) : Reg := ⟨n, i, 0, 0⟩
def r2 (n : RegName) (i j : Nat) : Reg := ⟨n, i, j, 0⟩
def r3 (n : RegName) (i j k : Nat) : Reg := ⟨n, i, j, k⟩

/-- Table 02-1: frequency in MHz and VCORE in mV of the points P0-P7 at reset. -/
def oppReset (p : Nat) : Nat × Nat :=
  nth [(1800, 825), (1650, 785), (1500, 750), (1350, 720), (1200, 690), (1050, 660), (950, 640), (800, 620)] p (800, 620)

/-- The waveguides in the order of Table 07-1: class, ends and index of waveguide wg. -/
def wgInfo (wg : Nat) : Nat × Nat × Nat × Nat :=
  if wg < 224 then
    -- the pairs of barns (i, j) with i < j, in ascending order, eight waveguides each
    let pairs := (List.range 8).flatMap fun i => ((List.range 8).filter (i < ·)).map fun j => (i, j)
    let p := nth pairs (wg / 8) (0, 0)
    (0, p.1, p.2, wg % 8)
  else if wg < 384 then (1, (wg - 224) / 20, (wg - 224) % 20, 0)
  else if wg < 416 then (2, (wg - 384) / 4, (wg - 384) % 4, 0)
  else if wg < 496 then (3, (wg - 416) / 20, (wg - 416) % 20, 0)
  else
    let pairs := (List.range 4).flatMap fun i => ((List.range 4).filter (i < ·)).map fun j => (i, j)
    let p := nth pairs (wg - 496) (0, 0)
    (4, p.1, p.2, 0)

/-- The reset value of a register word: its fields' reset values, and the words whose reset value depends on the index. -/
def Reg.resetWord (r : Reg) : W32 :=
  let base := r.name.fields.foldl (fun w f => f.put w f.reset) (0 : W32)
  match r.name with
  | .OPP_ENTRY => Fld.OPP_ENTRY_VOLT_MV.put (Fld.OPP_ENTRY_FREQ_MHZ.put base (oppReset r.j).1) (oppReset r.j).2
  | .WG_INFO =>
    let i := wgInfo r.i
    Fld.WG_INFO_INDEX.put (Fld.WG_INFO_END1.put (Fld.WG_INFO_END0.put (Fld.WG_INFO_CLASS.put base i.1) i.2.1) i.2.2.1) i.2.2.2
  | .FEED_SEL => Fld.FEED_SEL_SRC.put base r.j
  | .RTR_TAP => Fld.RTR_TAP_TAP_SITE.put base ((if r.j / 32 < 12 then 11 else 12) * 32 + r.j % 32)
  | .BRK_ENABLE =>
    if r.i = 0 then 0xFFFFFFFE else if r.i < 10 then 0xFFFFFFFF else if r.i = 10 then 3 else 0
  | _ => base

/-- The word that a register holds. -/
def Dev.rd (d : Dev) (r : Reg) : W32 := d.regs.get (fun _ => r.resetWord) r.addr

/-- The device with a register's word replaced. -/
def Dev.wr (d : Dev) (r : Reg) (v : W32) : Dev := { d with regs := d.regs.set (fun _ => r.resetWord) r.addr v }

/-- What a field of a register holds. -/
def Dev.getF (d : Dev) (r : Reg) (f : Field) : Nat := f.get (d.rd r)

/-- The device with a field set, modulo its width. -/
def Dev.setF (d : Dev) (r : Reg) (f : Field) (v : Nat) : Dev := d.wr r (f.put (d.rd r) v)

/-- The device with a number added to a field, modulo its width (R443). -/
def Dev.addF (d : Dev) (r : Reg) (f : Field) (n : Nat) : Dev := d.setF r f (d.getF r f + n)

/-- Whether a one-bit field is set. -/
def Dev.flag (d : Dev) (r : Reg) (f : Field) : Bool := d.getF r f != 0

/-- A 64-bit value held in a _LO/_HI pair. -/
def Dev.pair (d : Dev) (lo hi : Reg) : Nat := joinHalves (d.rd lo) (d.rd hi)

/-- Sets a _LO/_HI pair. -/
def Dev.setPair (d : Dev) (lo hi : Reg) (v : Nat) : Dev :=
  (d.wr lo (BitVec.ofNat 32 v)).wr hi (BitVec.ofNat 32 (v / 2 ^ 32))

/-- An accepted write of a register, by the access codes of its fields (R10). -/
def Dev.store (d : Dev) (r : Reg) (v : W32) : Dev := d.wr r (writeWord r.name.fields (d.rd r) v)

/-- Adds to a 64-bit counter held in a _LO/_HI pair. -/
def Dev.addPair (d : Dev) (lo hi : Reg) (n : Nat) : Dev := d.setPair lo hi (d.pair lo hi + n)

/-! ## Free values -/

/-- A fresh free 32-bit value: the counter is read and advanced. -/
def Dev.freeWord (d : Dev) : W32 × Dev := (Config.freeWord d.fresh, { d with fresh := d.fresh + 1 })

/-- n fresh free bytes. -/
def Dev.freeBytes (d : Dev) (n : Nat) : List Byte × Dev :=
  ((List.range n).map fun i => Config.freeByte (d.fresh + i), { d with fresh := d.fresh + n })

/-! ## The Barker (R455) -/

/-- A raise of a source: its pending bit is set and BRK_RAISED adds 1; sources 0 and 322-511 are never pending. -/
def Dev.raise (d : Dev) (n : Nat) : Dev :=
  if 1 ≤ n ∧ n ≤ 321 then
    let w := r1 .BRK_PENDING (n / 32)
    (d.setF w Fld.BRK_PENDING_PENDING (Nat.lor (d.getF w Fld.BRK_PENDING_PENDING) (2 ^ (n % 32)))).addF
      (r1 .BRK_RAISED n) Fld.BRK_RAISED_RAISED 1
  else d

/-- Whether a source is pending. -/
def Dev.pendingBit (d : Dev) (n : Nat) : Bool := bitOf (d.rd (r1 .BRK_PENDING (n / 32))).toNat (n % 32)

/-! ## Memory -/

/-- The first address of a site's tile-local space: LOCAL is added to it. -/
def localBase (b x : Nat) : Nat := 2 ^ 44 + (b * 768 + x) * 2 ^ 25

/-- The first address of a stack. -/
def hbmBase (n : Nat) : Nat := 2 ^ 48 + n * 2 ^ 37

/-- What an unlisted address reads as: the spec gives no reset contents. -/
def memDefault : Nat → Byte := fun _ => 0

/-- The byte at an address. -/
def Dev.byte (d : Dev) (a : Nat) : Byte := Sparse.get memDefault d.mem a

/-- n bytes from an address on. -/
def Dev.readBytes (d : Dev) (a n : Nat) : List Byte := (List.range n).map fun i => d.byte (a + i)

/-- Bytes written to a memory from an address on. -/
def writeCells (m : List Host.Cell) (a : Nat) : List Byte → List Host.Cell
  | [] => m
  | b :: t => writeCells (Sparse.set memDefault m a b) (a + 1) t

/-- A little-endian number of n bytes. -/
def Dev.readNat (d : Dev) (a n : Nat) : Nat := natLE (d.readBytes a n)

/-- The bytes of one error-correcting code: 8 in tile SRAM and lofts (R165, R200), 32 in the stacks (R214). -/
def eccUnit (a : Nat) : Nat := if 2 ^ 48 ≤ a then 32 else 8

/-- Whether a byte lies in a word marked POISON. -/
def Dev.poisonAt (d : Dev) (a : Nat) : Bool := d.poison.get (fun _ => false) (a / eccUnit a * eccUnit a)

/-- Whether some byte of a range lies in a word marked POISON. -/
def Dev.poisoned (d : Dev) (a n : Nat) : Bool := (List.range n).any fun i => d.poisonAt (a + i)

/-- The POISON marks of a range's bytes; the empty list where there is none. -/
def Dev.marksOf (d : Dev) (a n : Nat) : List Bool :=
  let l := (List.range n).map fun i => d.poisonAt (a + i)
  if l.any id then l else []

/-- The words that a range touches. -/
def unitsOf (a n : Nat) : List Nat :=
  if n = 0 then [] else
    (List.range ((a + n - 1) / eccUnit a - a / eccUnit a + 1)).map fun i => (a / eccUnit a + i) * eccUnit a

/-- The POISON map after a write of n bytes at a: a marked byte marks its word; a clean write that covers a word whole
clears its mark; a part-write leaves it (R200, R214, R487). -/
def poisonAfter (p : Sparse Bool) (a n : Nat) (marks : List Bool) : Sparse Bool :=
  (unitsOf a n).foldl (fun acc u =>
    let lo := max a u
    let hi := min (a + n) (u + eccUnit a)
    let bad := (List.range (hi - lo)).any fun i => nth marks (lo - a + i) false
    let covered := decide (a ≤ u) && decide (u + eccUnit a ≤ a + n)
    acc.set (fun _ => false) u (bad || (acc.get (fun _ => false) u && !covered))) p

/-- A write of bytes with their POISON marks. -/
def Dev.writeMarked (d : Dev) (a : Nat) (bs : List Byte) (marks : List Bool) : Dev :=
  { d with mem := writeCells d.mem a bs, poison := poisonAfter d.poison a bs.length marks }

/-- A write of clean bytes. -/
def Dev.write (d : Dev) (a : Nat) (bs : List Byte) : Dev := d.writeMarked a bs []

/-- A write to a stack: what it writes is defined through the window again (R227). -/
def Dev.writeStackMarked (d : Dev) (a : Nat) (bs : List Byte) (marks : List Bool) : Dev :=
  { d.writeMarked a bs marks with winWritten := if d.winChanges = 0 then d.winWritten else (a, bs.length) :: d.winWritten }

/-- n bytes from an address on back to zero, without marks. -/
def Dev.zero (d : Dev) (a n : Nat) : Dev := { d with mem := Sparse.clear d.mem a n, poison := d.poison.clear a n, soft := d.soft.clear a n }

/-- n bytes copied with their marks. -/
def Dev.copyRange (d : Dev) (src dst n : Nat) : Dev :=
  { d with mem := Sparse.copy memDefault d.mem src dst n, poison := d.poison.copy (fun _ => false) src dst n }

/-! ## Tiles, halves, regions -/

def Dev.tile (d : Dev) (b x : Nat) : Tile := d.tiles.get (fun _ => {}) (b * 768 + x)
def Dev.setTile (d : Dev) (b x : Nat) (t : Tile) : Dev := { d with tiles := d.tiles.set (fun _ => {}) (b * 768 + x) t }
def Dev.updTile (d : Dev) (b x : Nat) (f : Tile → Tile) : Dev := d.setTile b x (f (d.tile b x))

def Dev.half (d : Dev) (h : Nat) : Half := d.halves.get (fun _ => {}) h
def Dev.setHalf (d : Dev) (h : Nat) (v : Half) : Dev := { d with halves := d.halves.set (fun _ => {}) h v }
def Dev.updHalf (d : Dev) (h : Nat) (f : Half → Half) : Dev := d.setHalf h (f (d.half h))

def Dev.region (d : Dev) (r : Nat) : Region := d.regions.get (fun _ => {}) r
def Dev.setRegion (d : Dev) (r : Nat) (v : Region) : Dev := { d with regions := d.regions.set (fun _ => {}) r v }
def Dev.updRegion (d : Dev) (r : Nat) (f : Region → Region) : Dev := d.setRegion r (f (d.region r))

/-- The half of a region: regions 8n + 0-3 lie west, 8n + 4-7 east (R63). -/
def halfOfRegion (r : Nat) : Nat := r / 8 * 2 + r % 8 / 4

/-- The region of a site (Table 02-3). -/
def regionOf (b x : Nat) : Nat := 8 * b + x % 32 / 16 * 4 + x / 32 / 12 * 2 + x % 16 / 8

/-- The half of a site (R54). -/
def halfOf (b x : Nat) : Nat := 2 * b + x % 32 / 16

/-- STOP_CAUSE of a region; 0 where none holds. Where several causes hold at once, retirement shows before a Farrier test, that before
a PLL switch, that before GATE: DESIGN CHOICE, the spec gives no priority (log 116). -/
def Dev.stopCause (d : Dev) (r : Nat) : Nat :=
  let g := d.region r
  if g.retired then 4 else if g.farrier then 2 else if (d.half (halfOfRegion r)).pllStop then 3 else if g.gate then 1 else 0

/-- Whether a region's clock runs. -/
def Dev.running (d : Dev) (r : Nat) : Bool := (d.region r).started && d.stopCause r == 0

/-- Whether the clock of a site runs. -/
def Dev.siteRuns (d : Dev) (b x : Nat) : Bool := d.running (regionOf b x)

/-- Bounds of unit numbers. -/
def okSite (b x : Nat) : Bool := decide (b < 8) && decide (x < 768)

/-- The beat as a 64-bit word. -/
def Dev.beat64 (d : Dev) : W64 := BitVec.ofNat 64 d.beat

/-- Whether the counter runs from the holdover oscillator (R51). -/
def Dev.inHoldover (d : Dev) : Bool := d.flag (r0 .BEAT_STATUS) Fld.BEAT_STATUS_HOLDOVER

/-- A hold is over: the counter counts again (R49). -/
def Dev.endHold (d : Dev) : Dev :=
  if d.flag (r0 .BEAT_STATUS) Fld.BEAT_STATUS_HOLD_ACTIVE then
    { d.setF (r0 .BEAT_STATUS) Fld.BEAT_STATUS_HOLD_ACTIVE 0 with holdLeft := 0 }
  else d

/-- n beats pass (R43, R49): the rest of a hold takes them first; the counter counts the others. -/
def Dev.passBeats (d : Dev) (n : Nat) : Dev :=
  if d.flag (r0 .BEAT_STATUS) Fld.BEAT_STATUS_HOLD_ACTIVE then
    if n ≤ d.holdLeft then { d with holdLeft := d.holdLeft - n }
    else { d.endHold with beat := (d.beat + (n - d.holdLeft)) % 2 ^ 64 }
  else { d with beat := (d.beat + n) % 2 ^ 64 }

/-- What the copies of the beat counter in a region hold (R44): the counter; in a region whose clock has stopped, the beat at which it
stopped, until the first beat edge at which it runs again (DESIGN CHOICE: the rule allows up to 64 beats; log 117). -/
def Dev.copyBeat (d : Dev) (r : Nat) : Nat := ((d.region r).stale).getD d.beat

/-- The beat that a site's copy holds. -/
def Dev.siteBeat (d : Dev) (b x : Nat) : Nat := d.copyBeat (regionOf b x)

/-! ## Trace records (R445-R449) -/

/-- A trace record of Table 14-2. -/
def traceWord (kind unit hold status info arg beat : Nat) : BitVec 128 :=
  BitVec.ofNat 128 (kind % 16 + unit % 8 * 2 ^ 4 + hold % 2 * 2 ^ 7 + status % 16 * 2 ^ 8 + info % 2 ^ 16 * 2 ^ 16 +
    arg % 2 ^ 32 * 2 ^ 32 + beat % 2 ^ 64 * 2 ^ 64)

/-- Appends a record to a tile's buffer, at the next index (R445). -/
def Tile.traceAppend (t : Tile) (w : BitVec 128) : Tile :=
  { t with trace := t.trace ++ [w], traceMem := t.traceMem.set (fun _ => 0) ((t.traceOldest + t.trace.length) % 1024) w }

/-- The LOST record that is due after drops (R448). -/
def Tile.lostWord (t : Tile) (hold : Nat) : BitVec 128 :=
  traceWord 10 7 hold 0 0 (min t.traceDropped (2 ^ 32 - 1)) t.traceFirstDrop

/-- Writes the LOST record if one is due and the buffer has room (R448). -/
def Tile.flushLost (t : Tile) (hold : Nat) : Tile :=
  if t.traceDropped ≠ 0 ∧ t.trace.length < 1024 then
    { t.traceAppend (t.lostWord hold) with traceDropped := 0, traceFirstDrop := 0 }
  else t

/-- A record is dropped: counted, and the beat of the first one kept (R448). -/
def Tile.traceDrop (t : Tile) (beat : Nat) : Tile :=
  { t with
    traceFirstDrop := if t.traceDropped = 0 then beat else t.traceFirstDrop
    traceDropped := t.traceDropped + 1 }

/-- Whether TRC_TILE_CTRL lets a record of a kind and a queue be written (R447, R449). -/
def Dev.traceOn (d : Dev) (b x kind unit : Nat) : Bool :=
  let c := r2 .TRC_TILE_CTRL b x
  d.getF c Fld.TRC_TILE_CTRL_MODE != 0 &&
  (decide (9 < kind) || bitOf (d.getF c Fld.TRC_TILE_CTRL_KIND_MASK) (kind - 1)) &&
  (decide (2 < kind) || bitOf (d.getF c Fld.TRC_TILE_CTRL_QUEUE_MASK) unit)

/-- A record in MODE 2 goes to the ring in tile SRAM: first the record, then the count (R449). -/
def Dev.traceRingWrite (d : Dev) (b x : Nat) (w : BitVec 128) : Dev :=
  let base := localBase b x + d.getF (r2 .TRC_LOCAL_BASE b x) Fld.TRC_LOCAL_BASE_BASE
  let len := d.getF (r2 .TRC_LOCAL_LEN b x) Fld.TRC_LOCAL_LEN_LEN
  let n := (d.tile b x).traceRing
  let d := d.write (base + 16 + 16 * (n % ((len - 16) / 16))) (bytesLE w.toNat 16)
  let d := d.write base (bytesLE (n + 1) 16)
  d.updTile b x fun t => { t with traceRing := n + 1 }

/-- A record goes to the tile's buffer; with the buffer full it is dropped and counted (R448). -/
def Dev.traceBuffer (d : Dev) (b x hold : Nat) (w : BitVec 128) : Dev :=
  let t := (d.tile b x).flushLost hold
  if t.trace.length < 1024 then d.setTile b x (t.traceAppend w)
  else ((d.setTile b x (t.traceDrop d.beat)).addF (r2 .TRC_DROP b x) Fld.TRC_DROP_DROP 1).addF (r1 .RST_DROP b) Fld.RST_DROP_DROP 1

/-- Writes a record where its kind and queue are traced: to the buffer, or in MODE 2 to the ring (R447-R449). -/
def Dev.trace (d : Dev) (b x kind unit status info arg : Nat) : Dev :=
  if d.traceOn b x kind unit then
    let hold := boolNat d.inHoldover
    let w := traceWord kind unit hold status info arg d.beat
    if d.getF (r2 .TRC_TILE_CTRL b x) Fld.TRC_TILE_CTRL_MODE = 2 then d.traceRingWrite b x w else d.traceBuffer b x hold w
  else d

/-! ## Packets under way -/

/-- Sends a packet on to the unit that it comes to next. -/
def Dev.send (d : Dev) (p : Place) (pkt : Packet) : Dev := { d with net := d.net ++ [{ place := p, pkt := pkt }] }

/-- Takes a packet that a command names from those under way, if it is among them. -/
def Dev.take (d : Dev) (p : Place) (pkt : Packet) : Dev :=
  { d with net := eraseFirst (fun f => f.place == p && f.pkt == pkt) d.net }

/-! ## Signatures (R411) -/

/-- A signing domain's bytes: 0 ATST, 1 FCAL. -/
def domainBytes (n : Nat) : List Byte := if n = 0 then [0x41, 0x54, 0x53, 0x54] else [0x46, 0x43, 0x41, 0x4C]

/-- The identity key's signature under a domain: of SM3 over the domain and the digest (R411). -/
def Dev.signature (d : Dev) (domain : Nat) (h : List Byte) : List Byte :=
  bytesAt (Config.sm2Sign (d.start.key.getD 0) (Config.sm3 (domainBytes domain ++ h))) 0 64

end Sys2Proof.Machine
end

