-- ==== Sys2Proof/Machine/Cpu.lean ====
section
/-! DEFINITION. The control core (spec/03: R79-R89, R113-R117, R122-R128): instructions, exceptions, waits, counters and CSRs.
A command of this family is one instruction that the core issues, decoded; it has no effect on a core that does not run. -/

namespace Sys2Proof.Machine

/-! ## Registers and counters of a tile -/

/-- g0 reads as zero (R79). -/
def Tile.reg (t : Tile) (n : Nat) : W64 := if n = 0 then 0 else t.g.get (fun _ => 0) n

/-- A write to g0 is discarded (R79). -/
def Tile.setReg (t : Tile) (n : Nat) (v : W64) : Tile := if n = 0 then t else { t with g := t.g.set (fun _ => 0) n v }

def Tile.acOf (t : Tile) (i : Nat) : W32 := t.ac.get (fun _ => 0) i
def Tile.setAc (t : Tile) (i : Nat) (v : W32) : Tile := { t with ac := t.ac.set (fun _ => 0) i v }
/-- An addition to an arrival counter, modulo 2^32 (R113). -/
def Tile.addAc (t : Tile) (i : Nat) (v : W32) : Tile := t.setAc i (t.acOf i + v)
def Tile.ccOf (t : Tile) (i : Nat) : W32 := t.cc.get (fun _ => 0) i
def Tile.setCc (t : Tile) (i : Nat) (v : W32) : Tile := { t with cc := t.cc.set (fun _ => 0) i v }

def Tile.queue (t : Tile) (q : Nat) : List QEntry := t.queues.get (fun _ => []) q
def Tile.setQueue (t : Tile) (q : Nat) (l : List QEntry) : Tile := { t with queues := t.queues.set (fun _ => []) q l }

/-- Remote slots in use (R118). -/
def Tile.slotCount (t : Tile) : Nat := (t.slots.filter fun c => decide (c.1 < 64)).length

/-- All queues empty and SLOTS at 0 (TILE_STATUS.QUIESCENT). -/
def Tile.quiescent (t : Tile) : Bool := t.queues.all (fun q => q.2.isEmpty) && t.slots.isEmpty && t.held.isEmpty

/-- Queue depths of Table 03-5. -/
def queueDepth (q : Nat) : Nat := nth [16, 16, 32, 32, 16, 8] q 0

/-- Cycles of the site's clock since package start, in units of 1/6400 cycle (R444). -/
def Dev.siteUnits (d : Dev) (b x : Nat) : Nat := (d.region (regionOf b x)).units

/-- CSR CYCLE (Table 03-4). -/
def Dev.cycleOf (d : Dev) (b x : Nat) : W64 :=
  BitVec.ofInt 64 (((d.siteUnits b x : Nat) - (d.tile b x).cycleBase) / 6400)

/-! ## Taking an exception (R124-R126) -/

/-- Causes of Table 03-15. -/
def excIllegal : Nat := 1
def excMisalign : Nat := 2
def excLocalBounds : Nat := 3
def excPoison : Nat := 4
def excFetchBounds : Nat := 5
def excTrap : Nat := 6
def excEvent : Nat := 7

/-- The core halts: a HALT record carries the cause and EPC (Table 14-3). -/
def Dev.haltCore (d : Dev) (b x cause : Nat) : Dev :=
  let d := d.updTile b x fun t => { t with halted := true, haltCause := cause }
  d.trace b x 7 7 cause 0 (d.tile b x).epc.toNat

/-- An exception: EPC, ECAUSE and EVAL are written; with IN_EXC clear the core sets it and enters EVEC (R125); with IN_EXC set
it halts with cause DOUBLE and the Barker source of the barn is raised (R126). -/
def Dev.takeException (d : Dev) (b x cause : Nat) (eval epc : W64) : Dev :=
  let t := d.tile b x
  let t' := { t with epc := epc, ecause := cause, eval := eval }
  if t.inExc then ((d.setTile b x t').haltCore b x 3).raise (164 + b)
  else (d.setTile b x { t' with inExc := true, pc := t.evec }).trace b x 6 7 cause 0 eval.toNat

/-- The return from an exception: ERET clears IN_EXC and resumes at EPC (R125); the PC's bits [1:0] are zero (R79), whatever a CSRW left
in EPC (DEDUCED, log 120). -/
def Tile.returnFromException (t : Tile) : Tile := { t with inExc := false, pc := t.epc &&& ~~~3#64 }

/-- The word that fetch sees at the PC (R80). -/
def Tile.fetchWord (t : Tile) : W64 :=
  BitVec.ofNat 64 (natLE ((List.range 4).map fun i => Sparse.get memDefault t.fetchImg (t.pc.toNat + i)))

/-- ILLEGAL at the present instruction: EVAL is the instruction word (R84). -/
def Dev.illegal (d : Dev) (b x : Nat) : Dev :=
  d.takeException b x excIllegal (d.tile b x).fetchWord (d.tile b x).pc

/-- Whether the core issues instructions: out of reset, not halted, not waiting, its clock running (R116, R127, R71). -/
def Dev.coreReady (d : Dev) (b x : Nat) : Bool :=
  let t := d.tile b x
  !t.inReset && !t.halted && t.wait.isNone && !t.yieldWait && d.siteRuns b x

/-- The exception that the fetch itself raises, if any (R80, Table 03-15). -/
def Dev.fetchException (d : Dev) (b x : Nat) : Option Nat :=
  let t := d.tile b x
  if 0x200000 ≤ t.pc.toNat then some excFetchBounds
  else if t.fetchMarks.get (fun _ => false) (t.pc.toNat / 8 * 8) then some excPoison
  else none

/-- The core's counter of cycles with an instruction issued adds 1. -/
def Dev.issued (d : Dev) (b x : Nat) : Dev := d.updTile b x fun t => { t with util := t.util.upd (fun _ => 0) 1 (· + 1) }

/-! ## Instruction words (Table 03-2) -/

/-- Bits [31:18] and below of a form: C where it uses it, with X; IMM14; IMM19. -/
inductive Tail where
  | reg (c : Option Nat)
  | imm14 (v : BitVec 14)
  | imm19 (v : BitVec 19)
  deriving DecidableEq, Repr

/-- The fields of an instruction in its word: CLASS, and A, B and the rest where the form uses them. SUB and the X of ALU forms stand in
the Argil reference, which the spec does not give. -/
structure Form where
  cls : Nat
  a : Option Nat := none
  b : Option Nat := none
  tail : Tail := .reg none
  deriving DecidableEq, Repr

/-- Whether a field of a word holds what a form has there. -/
def fieldIs (w hi lo : Nat) (v : Option Nat) : Bool := match v with | some n => bitsOf w hi lo == n | none => true

/-- Whether a word spells a form. -/
def Form.spells (f : Form) (w : Nat) : Bool :=
  bitsOf w 3 0 == f.cls && fieldIs w 12 8 f.a &&
  (match f.tail with
    | .reg c => fieldIs w 17 13 f.b && fieldIs w 22 18 c
    | .imm14 v => fieldIs w 17 13 f.b && bitsOf w 31 18 == v.toNat
    | .imm19 v => bitsOf w 31 13 == v.toNat)

/-- Whether a field that a form does not use is not zero (R84); X is used by class ALU only. -/
def Form.spare (f : Form) (w : Nat) : Bool :=
  (f.a.isNone && bitsOf w 12 8 != 0) ||
  (match f.tail with
    | .reg c => (f.b.isNone && bitsOf w 17 13 != 0) || (c.isNone && bitsOf w 22 18 != 0) || (f.cls != 0 && bitsOf w 31 23 != 0)
    | .imm14 _ => f.b.isNone && bitsOf w 17 13 != 0
    | .imm19 _ => false)

/-- Whether a word is never an instruction: 0, all ones, CLASS 0x9-0xF (R84). -/
def neverWord (w : Nat) : Bool := w == 0 || w == 2 ^ 32 - 1 || decide (9 ≤ bitsOf w 3 0)

/-- Whether the core of a tile issues an instruction: it is ready, the fetch takes no exception, and the word at the PC spells the
instruction with no other bit set. -/
def Dev.issues (d : Dev) (b x : Nat) (form : Form) : Bool :=
  let w := (d.tile b x).fetchWord.toNat
  d.coreReady b x && (d.fetchException b x).isNone && !neverWord w && form.spells w && !form.spare w

/-- One instruction: fetched, counted as issued; ILLEGAL where its word is none, where a field that the form does not use is not zero, or
where the Argil reference does not assign the form (extra) (R84); else its effect. A core whose word spells another form does not execute
this one. -/
def Dev.instruction (d : Dev) (b x : Nat) (form : Form) (extra : Bool) (f : Dev → Dev) : Dev :=
  d.when (d.coreReady b x) fun d =>
    match d.fetchException b x with
    | some c => d.takeException b x c (d.tile b x).pc (d.tile b x).pc
    | none =>
      let w := (d.tile b x).fetchWord.toNat
      if neverWord w then (d.issued b x).illegal b x
      else if !form.spells w then d
      else if extra || form.spare w then (d.issued b x).illegal b x
      else f (d.issued b x)

/-- The tile after an instruction that falls through. -/
def Tile.next (t : Tile) : Tile := { t with pc := t.pc + 4 }

/-- A writes to a register and falls through. -/
def Tile.put (t : Tile) (a : Nat) (v : W64) : Tile := (t.setReg a v).next

/-! ## ALU (R83, R85, R486) -/

/-- Exact quotient and remainder of signed division; zero divisor gives 0 and the dividend (R85). -/
def divExact (a b : Int) : Int × Int :=
  if b = 0 then (0, a)
  else
    let q := if Config.divFloors then Int.fdiv a b else Int.tdiv a b
    (q, a - q * b)

/-- A comparison of two w-bit words. -/
def condHolds (c : Cond) (w : Nat) (a b : BitVec w) : Bool :=
  match c with
  | .eq => a == b
  | .ne => a != b
  | .lt => decide (a.toInt < b.toInt)
  | .ge => decide (b.toInt ≤ a.toInt)
  | .ltu => decide (a.toNat < b.toNat)
  | .geu => decide (b.toNat ≤ a.toNat)
  | .unassigned => false

/-- Whether an ALU operation has one source only. -/
def aluUnary : AluOp → Bool
  | .popcnt => true
  | .clz => true
  | _ => false

/-- Whether the Argil reference assigns the operation. -/
def aluAssigned : AluOp → Bool
  | .unassigned => false
  | .set .unassigned => false
  | _ => true

/-- The result of an ALU operation at width w: b op c, with the shift amount modulo w (R486); old is what A held. -/
def aluResult (op : AluOp) (w : Nat) (old b c : BitVec w) : BitVec w :=
  match op with
  | .add => b + c
  | .sub => b - c
  | .and => b &&& c
  | .or => b ||| c
  | .xor => b ^^^ c
  | .sll => b <<< (c.toNat % w)
  | .srl => b >>> (c.toNat % w)
  | .sra => b.sshiftRight (c.toNat % w)
  | .set k => BitVec.ofNat w (boolNat (condHolds k w b c))
  | .min => if b.toInt ≤ c.toInt then b else c
  | .max => if b.toInt ≤ c.toInt then c else b
  | .minu => if b.toNat ≤ c.toNat then b else c
  | .maxu => if b.toNat ≤ c.toNat then c else b
  | .mul => b * c
  | .mulh => BitVec.ofInt w (b.toInt * c.toInt / 2 ^ w)
  | .mulhu => BitVec.ofNat w (b.toNat * c.toNat / 2 ^ w)
  | .div => BitVec.ofInt w (divExact b.toInt c.toInt).1
  | .rem => BitVec.ofInt w (divExact b.toInt c.toInt).2
  | .divu => if c.toNat = 0 then 0 else BitVec.ofNat w (b.toNat / c.toNat)
  | .remu => if c.toNat = 0 then b else BitVec.ofNat w (b.toNat % c.toNat)
  | .popcnt => BitVec.ofNat w (popCount b.toNat w)
  | .clz => BitVec.ofNat w (if b.toNat = 0 then w else w - 1 - Nat.log2 b.toNat)
  | .bfext => (Config.bitExtract (b.setWidth 64) (c.setWidth 64)).setWidth w
  | .bfins => (Config.bitInsert (old.setWidth 64) (b.setWidth 64) (c.setWidth 64)).setWidth w
  | .unassigned => 0

/-- The 64-bit value that an ALU operation writes: X selects 64 bits or 32 (R83). -/
def aluWrite (op : AluOp) (narrow : Bool) (old b c : W64) : W64 :=
  if narrow then
    let r := aluResult op 32 (old.setWidth 32) (b.setWidth 32) (c.setWidth 32)
    Config.narrowHigh r ++ r
  else aluResult op 64 old b c

/-- A := B op C (R83). -/
def execAlu (b x : Nat) (extra : Bool) (op : AluOp) (narrow : Bool) (a rb c : Nat) (s : State) : Out :=
  onUnit (okSite b x && decide (a < 32) && decide (rb < 32) && decide (c < 32)) s fun d =>
    d.instruction b x ⟨0, some a, some rb, .reg (some c)⟩ (extra || !aluAssigned op || (aluUnary op && c != 0)) fun d =>
      d.updTile b x fun t => t.put a (aluWrite op narrow (t.reg a) (t.reg rb) (t.reg c))

/-- A := B op IMM14 (R83). -/
def execAluImm (b x : Nat) (extra : Bool) (op : AluOp) (narrow : Bool) (a rb : Nat) (imm : BitVec 14) (s : State) : Out :=
  onUnit (okSite b x && decide (a < 32) && decide (rb < 32)) s fun d =>
    d.instruction b x ⟨1, some a, some rb, .imm14 imm⟩ (extra || !aluAssigned op || (aluUnary op && imm != 0)) fun d =>
      d.updTile b x fun t => t.put a (aluWrite op narrow (t.reg a) (t.reg rb) (imm.signExtend 64))

/-- A := IMM19 << 13 (R83). -/
def execLui (b x a : Nat) (imm : BitVec 19) (s : State) : Out :=
  onUnit (okSite b x && decide (a < 32)) s fun d =>
    d.instruction b x ⟨1, some a, none, .imm19 imm⟩ false fun d => d.updTile b x fun t => t.put a (imm.signExtend 64 <<< 13)

/-! ## Loads and stores (R81) -/

/-- Bytes of an access. -/
def sizeBytes : MemSize → Nat
  | .b1 => 1 | .b2 => 2 | .b4 => 4 | .b8 => 8 | .unassigned => 0

/-- The exception of a core access: LOCAL_BOUNDS before MISALIGN (R81). -/
def accessException (ea : W64) (n : Nat) : Option Nat :=
  if 0x200000 < ea.toNat + n then some excLocalBounds
  else if ea.toNat % n ≠ 0 then some excMisalign else none

/-- A loaded value, extended to 64 bits. -/
def extendLoad (sgn : Bool) (n v : Nat) : W64 :=
  if sgn then BitVec.ofInt 64 (signed (8 * n) v) else BitVec.ofNat 64 v

/-- A := mem[B + IMM14] (R81). -/
def execLoad (b x : Nat) (size : MemSize) (sgn : Bool) (a rb : Nat) (imm : BitVec 14) (s : State) : Out :=
  onUnit (okSite b x && decide (a < 32) && decide (rb < 32)) s fun d =>
    d.instruction b x ⟨2, some a, some rb, .imm14 imm⟩ (size == .unassigned) fun d =>
      let t := d.tile b x
      let ea := t.reg rb + imm.signExtend 64
      match accessException ea (sizeBytes size) with
      | some c => d.takeException b x c ea t.pc
      | none =>
        let at_ := localBase b x + ea.toNat
        if d.poisoned at_ (sizeBytes size) then d.takeException b x excPoison ea t.pc
        else d.setTile b x (t.put a (extendLoad sgn (sizeBytes size) (d.readNat at_ (sizeBytes size))))

/-- mem[B + IMM14] := A (R81). -/
def execStore (b x : Nat) (size : MemSize) (a rb : Nat) (imm : BitVec 14) (s : State) : Out :=
  onUnit (okSite b x && decide (a < 32) && decide (rb < 32)) s fun d =>
    d.instruction b x ⟨3, some a, some rb, .imm14 imm⟩ (size == .unassigned) fun d =>
      let t := d.tile b x
      let ea := t.reg rb + imm.signExtend 64
      match accessException ea (sizeBytes size) with
      | some c => d.takeException b x c ea t.pc
      | none =>
        (d.write (localBase b x + ea.toNat) (bytesLE (t.reg a).toNat (sizeBytes size))).setTile b x t.next

/-! ## Branches and jumps (R80, R83) -/

/-- Compares A with B; the target is PC + 4 * IMM14. -/
def execBranch (b x : Nat) (cond : Cond) (a rb : Nat) (imm : BitVec 14) (s : State) : Out :=
  onUnit (okSite b x && decide (a < 32) && decide (rb < 32)) s fun d =>
    d.instruction b x ⟨4, some a, some rb, .imm14 imm⟩ (cond == .unassigned) fun d => d.updTile b x fun t =>
      if condHolds cond 64 (t.reg a) (t.reg rb) then { t with pc := t.pc + (imm.signExtend 64 <<< 2) } else t.next

/-- A := PC + 4; to PC + 4 * IMM19. -/
def execJal (b x a : Nat) (imm : BitVec 19) (s : State) : Out :=
  onUnit (okSite b x && decide (a < 32)) s fun d =>
    d.instruction b x ⟨5, some a, none, .imm19 imm⟩ false fun d => d.updTile b x fun t =>
      { t.setReg a (t.pc + 4) with pc := t.pc + (imm.signExtend 64 <<< 2) }

/-- A := PC + 4; to B + IMM14; a misaligned target raises MISALIGN and writes nothing (R80). -/
def execJalr (b x a rb : Nat) (imm : BitVec 14) (s : State) : Out :=
  onUnit (okSite b x && decide (a < 32) && decide (rb < 32)) s fun d =>
    d.instruction b x ⟨5, some a, some rb, .imm14 imm⟩ false fun d =>
      let t := d.tile b x
      let target := t.reg rb + imm.signExtend 64
      if target.toNat % 4 ≠ 0 then d.takeException b x excMisalign target t.pc
      else d.setTile b x { t.setReg a (t.pc + 4) with pc := target }

/-! ## Waits (R116, R117) -/

/-- The signed comparison of a counter with the low half of a register (R116). -/
def counterReached (c : W32) (target : W64) : Bool := decide (0 ≤ (c - target.setWidth 32).toInt)

/-- Whether a wait of a tile is satisfied (R116); WAITB by the site's copy of the beat. -/
def Dev.waitMet (d : Dev) (b x : Nat) (w : Wait) : Bool :=
  let t := d.tile b x
  match w.kind with
  | 1 => counterReached (t.acOf w.index) w.target
  | 2 => counterReached (t.ccOf w.index) w.target
  | 3 => decide (w.target.toNat ≤ d.siteBeat b x)
  | _ => decide ((t.queue w.index).length < queueDepth w.index)

/-- A wait begins: WAIT_STATE holds it, and a WAIT_BEGIN record is written (Table 14-3). -/
def Dev.beginWait (d : Dev) (b x : Nat) (w : Wait) : Dev :=
  (d.updTile b x fun t => { t with wait := some w }).trace b x 3 w.kind 0 w.index w.target.toNat

/-- A wait ends; how: 0 satisfied, 1 timed out, 2 abandoned (Table 14-3). -/
def Dev.endWait (d : Dev) (b x : Nat) (w : Wait) (how : Nat) : Dev :=
  (d.updTile b x fun t => { t with wait := none }).trace b x 4 w.kind 0 w.index how

/-- A WAITA, WAITC or WAITB instruction: satisfied it writes 0 and costs one cycle; a zero timeout ends it at once (R117). -/
def Dev.waitOrGo (d : Dev) (b x : Nat) (w : Wait) : Dev :=
  let t := d.tile b x
  if d.waitMet b x w then d.setTile b x (t.put w.dest 0)
  else if t.waitToEn ∧ t.waitTimeout = 0 then d.setTile b x (t.put w.dest 1)
  else d.beginWait b x w

def execWaita (b x : Nat) (extra : Bool) (a rb c : Nat) (s : State) : Out :=
  onUnit (okSite b x && decide (a < 32) && decide (rb < 32) && decide (c < 32)) s fun d =>
    d.instruction b x ⟨7, some a, some rb, .reg (some c)⟩ extra fun d => d.waitOrGo b x ⟨1, c, (d.tile b x).reg rb, d.siteBeat b x, a, 0⟩

/-- C[4] at 1 names no completion counter and raises ILLEGAL (R114). -/
def execWaitc (b x : Nat) (extra : Bool) (a rb c : Nat) (s : State) : Out :=
  onUnit (okSite b x && decide (a < 32) && decide (rb < 32) && decide (c < 32)) s fun d =>
    d.instruction b x ⟨7, some a, some rb, .reg (some c)⟩ (extra || decide (16 ≤ c)) fun d =>
      d.waitOrGo b x ⟨2, c, (d.tile b x).reg rb, d.siteBeat b x, a, 0⟩

def execWaitb (b x : Nat) (extra : Bool) (a rb : Nat) (s : State) : Out :=
  onUnit (okSite b x && decide (a < 32) && decide (rb < 32)) s fun d =>
    d.instruction b x ⟨7, some a, some rb, .reg none⟩ extra fun d => d.waitOrGo b x ⟨3, 0, (d.tile b x).reg rb, d.siteBeat b x, a, 0⟩

/-- Whether the core can leave a wait: its clock runs and it is neither halted nor in reset. -/
def Dev.canWake (d : Dev) (b x : Nat) : Bool :=
  let t := d.tile b x
  !t.inReset && !t.halted && d.siteRuns b x

/-- A pending WAITA, WAITC or WAITB that is satisfied writes 0 to A (R116, R117). -/
def execWaitSatisfied (b x : Nat) (s : State) : Out :=
  onUnit (okSite b x) s fun d =>
    match (d.tile b x).wait with
    | some w =>
      d.when (d.canWake b x && w.kind != 4 && d.waitMet b x w) fun d =>
        (d.endWait b x w 0).updTile b x fun t => t.put w.dest 0
    | none => d

/-- A WAITB whose beat has come ends at the beat edge (R45). -/
def Dev.wakeBeat (d : Dev) (b x : Nat) : Dev :=
  match (d.tile b x).wait with
  | some w =>
    d.when (d.canWake b x && w.kind == 3 && d.waitMet b x w) fun d => (d.endWait b x w 0).updTile b x fun t => t.put w.dest 0
  | none => d

/-- A pending WAITA, WAITC or WAITB that is not satisfied within WAIT_TIMEOUT beats ends and writes 1 to A (R117). -/
def execWaitTimeout (b x : Nat) (s : State) : Out :=
  onUnit (okSite b x) s fun d =>
    let t := d.tile b x
    match t.wait with
    | some w =>
      d.when (d.canWake b x && w.kind != 4 && t.waitToEn && !d.waitMet b x w && decide (w.start + t.waitTimeout ≤ d.siteBeat b x))
        fun d => (d.endWait b x w 1).updTile b x fun t => t.put w.dest 1
    | none => d

/-! ## Pushes (R87-R89) -/

/-- A command joins its queue with the next push index (R87, R445). -/
def Tile.push (t : Tile) (q : Nat) (c : W128) : Tile :=
  let n := t.pushCount.get (fun _ => 0) q
  { t.setQueue q (t.queue q ++ [{ cmd := c, idx := n }]) with pushCount := t.pushCount.set (fun _ => 0) q ((n + 1) % 2 ^ 32) }

/-- The command of the register pair that B names (R88). -/
def Tile.pairOf (t : Tile) (rb : Nat) : W128 := t.reg (rb + 1) ++ t.reg rb

/-- An odd B, a C[4:3] that is not zero, and queues 6 and 7 raise ILLEGAL (R87, R88). -/
def pushIllegal (rb c : Nat) : Bool := rb % 2 == 1 || decide (6 ≤ c)

/-- PUSH stalls while the queue is full (R88). -/
def execPush (b x : Nat) (extra : Bool) (rb c : Nat) (s : State) : Out :=
  onUnit (okSite b x && decide (rb < 32) && decide (c < 32)) s fun d =>
    d.instruction b x ⟨6, none, some rb, .reg (some c)⟩ (extra || pushIllegal rb c) fun d =>
      let t := d.tile b x
      if (t.queue c).length < queueDepth c then d.setTile b x (t.push c (t.pairOf rb)).next
      else d.beginWait b x ⟨4, c, 0, d.siteBeat b x, 0, t.pairOf rb⟩

/-- A stalled PUSH finds room and pushes (R117). -/
def execPushUnstall (b x : Nat) (s : State) : Out :=
  onUnit (okSite b x) s fun d =>
    match (d.tile b x).wait with
    | some w =>
      d.when (d.canWake b x && w.kind == 4 && d.waitMet b x w) fun d =>
        (d.endWait b x w 0).updTile b x fun t => (t.push w.index w.cmd).next
    | none => d

/-- PUSHT never stalls: 1 to A if it pushed, 0 if the queue was full (R88). -/
def execPusht (b x : Nat) (extra : Bool) (a rb c : Nat) (s : State) : Out :=
  onUnit (okSite b x && decide (a < 32) && decide (rb < 32) && decide (c < 32)) s fun d =>
    d.instruction b x ⟨6, some a, some rb, .reg (some c)⟩ (extra || pushIllegal rb c) fun d => d.updTile b x fun t =>
      if (t.queue c).length < queueDepth c then (t.push c (t.pairOf rb)).put a 1 else t.put a 0

/-! ## Counters (R113-R115) -/

def execAcrd (b x : Nat) (extra : Bool) (a c : Nat) (s : State) : Out :=
  onUnit (okSite b x && decide (a < 32) && decide (c < 32)) s fun d =>
    d.instruction b x ⟨7, some a, none, .reg (some c)⟩ extra fun d => d.updTile b x fun t => t.put a ((t.acOf c).setWidth 64)

/-- The write is applied first, the additions of the same cycle after it (R115). -/
def execAcwr (b x : Nat) (extra : Bool) (rb c : Nat) (adds : W32) (s : State) : Out :=
  onUnit (okSite b x && decide (rb < 32) && decide (c < 32)) s fun d =>
    d.instruction b x ⟨7, none, some rb, .reg (some c)⟩ extra fun d => d.updTile b x fun t => (t.setAc c ((t.reg rb).setWidth 32 + adds)).next

def execAcadd (b x : Nat) (extra : Bool) (rb c : Nat) (s : State) : Out :=
  onUnit (okSite b x && decide (rb < 32) && decide (c < 32)) s fun d =>
    d.instruction b x ⟨7, none, some rb, .reg (some c)⟩ extra fun d => d.updTile b x fun t => (t.addAc c ((t.reg rb).setWidth 32)).next

def execCcrd (b x : Nat) (extra : Bool) (a c : Nat) (s : State) : Out :=
  onUnit (okSite b x && decide (a < 32) && decide (c < 32)) s fun d =>
    d.instruction b x ⟨7, some a, none, .reg (some c)⟩ (extra || decide (16 ≤ c)) fun d =>
      d.updTile b x fun t => t.put a ((t.ccOf c).setWidth 64)

def execCcwr (b x : Nat) (extra : Bool) (rb c : Nat) (adds : W32) (s : State) : Out :=
  onUnit (okSite b x && decide (rb < 32) && decide (c < 32)) s fun d =>
    d.instruction b x ⟨7, none, some rb, .reg (some c)⟩ (extra || decide (16 ≤ c)) fun d => d.updTile b x fun t =>
      (t.setCc c ((t.reg rb).setWidth 32 + adds)).next

/-! ## CSRs (R86, Table 03-4) -/

/-- What a CSR reads as, and the tile after the read; none for a number that no CSR has. -/
def Dev.csrRead (d : Dev) (b x num : Nat) : Option (W64 × Tile) :=
  let t := d.tile b x
  let val (n : Nat) : Option (W64 × Tile) := some (BitVec.ofNat 64 n, t)
  match num with
  | 0x000 => val (t.logical.getD 0 + b * 2 ^ 10 + d.getF (r0 .YARD_CTRL) Fld.YARD_CTRL_MEMBER * 2 ^ 16)
  | 0x010 => val (d.siteBeat b x)
  | 0x011 => some (d.cycleOf b x, t)
  | 0x020 => some (t.evec, t)
  | 0x021 => some (t.epc, t)
  | 0x022 => val t.ecause
  | 0x023 => some (t.eval, t)
  | 0x024 => val (boolNat t.inExc)
  | 0x030 => val t.evtPending
  | 0x031 => val t.evtEnable
  | 0x032 => val 0
  | 0x040 => val t.waitTimeout
  | 0x041 => val (boolNat t.waitToEn)
  | 0x050 => val t.slotCount
  | 0x060 =>
    match t.faultQ with
    | [] => val 0
    | r :: q => some (r.setWidth 64, { t with faultQ := q, faultData := (r >>> 64).setWidth 64 })
  | 0x061 => some (t.faultData, t)
  | 0x070 => val t.ccErr
  | 0x080 => some (t.rngSeed, t)
  | _ => none

/-- The tile after a CSR write; none for a read-only CSR and for a number that no CSR has (R84, R86). -/
def Tile.csrWrite (t : Tile) (num : Nat) (v : W64) : Option Tile :=
  match num with
  | 0x020 => some { t with evec := v &&& ~~~3#64 }
  | 0x021 => some { t with epc := v }
  | 0x031 => some { t with evtEnable := v.toNat % 16 }
  | 0x032 => some { t with evtPending := Nat.land t.evtPending (15 - v.toNat % 16) }
  | 0x040 => some { t with waitTimeout := v.toNat % 2 ^ 32 }
  | 0x041 => some { t with waitToEn := v.toNat % 2 == 1 }
  | 0x070 => some { t with ccErr := Nat.land t.ccErr (2 ^ 16 - 1 - v.toNat % 2 ^ 16) }
  | 0x080 => some { t with rngSeed := v, rngCount := 0 }
  | _ => none

def execCsrr (b x : Nat) (extra : Bool) (a : Nat) (num : BitVec 14) (s : State) : Out :=
  onUnit (okSite b x && decide (a < 32)) s fun d =>
    d.instruction b x ⟨8, some a, none, .imm14 num⟩ extra fun d =>
      match d.csrRead b x num.toNat with
      | some (v, t) => d.setTile b x (t.put a v)
      | none => d.illegal b x

/-- A CSR write; flags of CC_ERR that the same cycle sets end set (R11). -/
def execCsrw (b x : Nat) (extra : Bool) (rb : Nat) (num : BitVec 14) (sets : W32) (s : State) : Out :=
  onUnit (okSite b x && decide (rb < 32)) s fun d =>
    d.instruction b x ⟨8, none, some rb, .imm14 num⟩ extra fun d =>
      match (d.tile b x).csrWrite num.toNat ((d.tile b x).reg rb) with
      | some t =>
        d.setTile b x (if num = 0x070 then { t with ccErr := Nat.lor t.ccErr (sets.toNat % 2 ^ 16) } else t).next
      | none => d.illegal b x

/-! ## SYSTEM (R80, R124-R127) -/

/-- Earlier SRAM writes and their marks become visible to fetch (R80). -/
def Dev.sramImage (d : Dev) (b x : Nat) : List Host.Cell :=
  (Sparse.slice d.mem (localBase b x) 0x200000).map fun c => (c.1 - localBase b x, c.2)

def Dev.sramMarks (d : Dev) (b x : Nat) : Sparse Bool :=
  (Sparse.slice d.poison (localBase b x) 0x200000).map fun c => (c.1 - localBase b x, c.2)

def Dev.flushFetch (d : Dev) (b x : Nat) : Dev :=
  d.updTile b x fun t => { t with fetchImg := d.sramImage b x, fetchMarks := d.sramMarks b x }

def execIflush (b x : Nat) (extra : Bool) (s : State) : Out :=
  onUnit (okSite b x) s fun d =>
    d.instruction b x ⟨8, none, none, .reg none⟩ extra fun d => (d.flushFetch b x).updTile b x Tile.next

def execTrap (b x : Nat) (extra : Bool) (s : State) : Out :=
  onUnit (okSite b x) s fun d =>
    d.instruction b x ⟨8, none, none, .reg none⟩ extra fun d => d.takeException b x excTrap (d.tile b x).fetchWord (d.tile b x).pc

def execEret (b x : Nat) (extra : Bool) (s : State) : Out :=
  onUnit (okSite b x) s fun d => d.instruction b x ⟨8, none, none, .reg none⟩ extra fun d => d.updTile b x Tile.returnFromException

/-- The core halts with cause 2 and would resume at the next instruction (R127). -/
def execHalt (b x : Nat) (extra : Bool) (s : State) : Out :=
  onUnit (okSite b x) s fun d =>
    d.instruction b x ⟨8, none, none, .reg none⟩ extra fun d => (d.updTile b x Tile.next).haltCore b x 2

def execNop (b x : Nat) (extra : Bool) (s : State) : Out :=
  onUnit (okSite b x) s fun d => d.instruction b x ⟨8, none, none, .reg none⟩ extra fun d => d.updTile b x Tile.next

end Sys2Proof.Machine
end

