-- ==== Sys2Proof/Machine/Operands.lean ====
section
/-! DEFINITION. Operand forms: yard addresses (R19-R25), packet headers (Tables 05-1, 08-6), command fields and the check of a
command before any effect (R92, R93, R128, R129). -/

namespace Sys2Proof.Machine

/-! ## Status codes (Table 00-5) -/

def stOk : Nat := 0
def stBounds : Nat := 1
def stMalformed : Nat := 2
def stPortReset : Nat := 3
def stTimeout : Nat := 4
def stUnknown : Nat := 5
def stPoison : Nat := 6
def stDenied : Nat := 7

/-- The one status of work that ends in several parts: the first in this order with which any part ended (R104). -/
def statusOrder : List Nat := [stDenied, stPortReset, stTimeout, stPoison, stUnknown, stBounds, stMalformed]

/-- The status of two parts together. -/
def joinStatus (a b : Nat) : Nat := (statusOrder.find? fun s => s == a || s == b).getD stOk

/-! ## Command fields -/

/-- Bits [hi:lo] of a command. -/
def fieldOf (c : W128) (hi lo : Nat) : Nat := bitsOf c.toNat hi lo

/-- What one check finds: a status and the number of the field that failed (R129). -/
abbrev Fail := Nat × Nat

/-- The failure of a check that fails. -/
def failIf (c : Bool) (st field : Nat) : List Fail := if c then [(st, field)] else []

/-- The fields, given as (lowest bit, highest bit), that must be zero and are not (R93). -/
def nonZeroFields (c : W128) (fs : List (Nat × Nat)) : List Fail :=
  (fs.filter fun f => fieldOf c f.2 f.1 != 0).map fun f => (stMalformed, f.1)

/-- The verdict of R92 and R129: MALFORMED before DENIED before BOUNDS, and the lowest field that fails with that status. -/
def verdict (fs : List Fail) : Option Fail :=
  let pick (st : Nat) : Option Fail :=
    let l := (fs.filter (·.1 == st)).map (·.2)
    match l with
    | [] => none
    | h :: t => some (st, t.foldl min h)
  match pick stMalformed with
  | some f => some f
  | none =>
    match pick stDenied with
    | some f => some f
    | none => pick stBounds

/-! ## Yard addresses (R19-R22) -/

def tileSram : Nat := 0x200000
def loftBase : Nat := 0x1000000
def loftEnd : Nat := 0x2000000
def stackBytes : Nat := 85899345920

def addrMember (a : Nat) : Nat := bitsOf a 59 56
def addrTarget (a : Nat) : Nat := bitsOf a 55 51
def addrOffset (a : Nat) : Nat := a % 2 ^ 51
def addrTile (a : Nat) : Nat := bitsOf a 34 25
def addrLocal (a : Nat) : Nat := a % 2 ^ 25

/-- A yard address of a tile-local location. -/
def mkTileAddr (member barn tile loc : Nat) : Nat := member * 2 ^ 56 + barn * 2 ^ 51 + tile * 2 ^ 25 + loc

/-- A yard address with a reserved field that is not zero, or TARGET 29-31 (R21). -/
def addrMalformed (a : Nat) : Bool :=
  a / 2 ^ 60 != 0 || decide (29 ≤ addrTarget a) || (decide (addrTarget a < 8) && bitsOf a 50 35 != 0)

/-- A range of n bytes from a local address on fits tile SRAM or the slice (R22, R38). -/
def localFits (a n : Nat) : Bool := decide (a + n ≤ tileSram) || (decide (loftBase ≤ a) && decide (a + n ≤ loftEnd))

/-- The stacks of the window in force, in ascending order (R224). -/
def Dev.windowStacks (d : Dev) : List Nat := (List.range 20).filter (bitOf (d.getF (r0 .WIN_IN_FORCE) Fld.WIN_IN_FORCE_MASK))

/-- The size of the window in force. -/
def Dev.windowBytes (d : Dev) : Nat := d.windowStacks.length * stackBytes

/-- The stack and stack address of a window offset (R25, R224). -/
def Dev.windowMap (d : Dev) (o : Nat) : Nat × Nat :=
  let s := d.windowStacks
  let w := s.length
  let unit := o / 4096
  (nth s (unit % w) 0, unit / w * 4096 + o % 4096)

/-- The stack address of an address of a stack or of the window. -/
def Dev.stackOffset (d : Dev) (a : Nat) : Nat := if addrTarget a = 28 then (d.windowMap (addrOffset a)).2 else addrOffset a

/-- A byte of a stack as the window shows it: after a window change it is undefined until something writes it (R227). -/
def Dev.windowByte (d : Dev) (k : Nat) : Byte :=
  if d.winChanges = 0 || d.winWritten.any (fun r => decide (r.1 ≤ k) && decide (k < r.1 + r.2)) then d.byte k
  else Config.windowByte d.winChanges k

/-- n bytes of a stack from memory address k on, as the yard address a, of the stack or of the window, shows them. -/
def Dev.stackBytesAt (d : Dev) (a k n : Nat) : List Byte :=
  if addrTarget a = 28 then (List.range n).map fun i => d.windowByte (k + i) else d.readBytes k n

/-- Whether a range of n bytes from a yard address on lies inside what the address names (R20, R22, R38). -/
def Dev.addrFits (d : Dev) (a n : Nat) : Bool :=
  if addrTarget a < 8 then decide (addrTile a < 704) && localFits (addrLocal a) n
  else if addrTarget a < 28 then decide (addrOffset a + n ≤ stackBytes)
  else decide (addrOffset a + n ≤ d.windowBytes)

/-- The package's own member number (R19); a package that joins no yard is member 0 (R269). -/
def Dev.self (d : Dev) : Nat :=
  if d.flag (r0 .YARD_CTRL) Fld.YARD_CTRL_JOIN_EN then d.getF (r0 .YARD_CTRL) Fld.YARD_CTRL_MEMBER else 0

/-- Whether a member is in the yard (R23). -/
def Dev.inYard (d : Dev) (m : Nat) : Bool := bitOf (d.getF (r0 .YARD_STATUS) Fld.YARD_STATUS_MEMBERS) m

/-- The MAP entry of a router for a logical tile of its barn (R177): as loaded (R176), unless written since. -/
def Dev.mapEntry (d : Dev) (b x t : Nat) : W32 :=
  match d.mapOver.get (fun _ => none) ((b * 768 + x) * 1024 + t) with
  | some w => w
  | none => d.maps.get (fun _ => 0) (b * 1024 + t)

/-- Whether an address names the issuing tile itself. -/
def Dev.isOwnTile (d : Dev) (b x a : Nat) : Bool :=
  addrMember a == d.self && addrTarget a == b && (d.tile b x).logical == some (addrTile a)

/-- The checks of an address and its range by the issuing tile (R21-R23, R177): MALFORMED and DENIED name the address field,
BOUNDS the length field. -/
def Dev.addrFails (d : Dev) (b x a n addrField lenField : Nat) : List Fail :=
  let own := addrMember a == d.self
  let t := addrTarget a
  let denied :=
    !d.inYard (addrMember a) ||
    (own && decide (t < 8) && !bitOf d.barnsIn t) ||
    (own && decide (8 ≤ t) && decide (t < 28) && !bitOf (d.getF (r1 .STACK_SVC b) Fld.STACK_SVC_SVC) (t - 8)) ||
    (own && t == b && decide (addrTile a < 704) && !d.isOwnTile b x a && !Fld.MAP_VALID.get (d.mapEntry b x (addrTile a)) == 1)
  failIf (addrMalformed a) stMalformed addrField ++ failIf denied stDenied addrField ++
    failIf (!d.addrFits a n) stBounds lenField

/-- The first local address of the cache part of a site's slice; the end of the slice in scratch mode (R202). -/
def Dev.cacheStart (d : Dev) (b x : Nat) : Nat :=
  if d.flag (r2 .LOFT_CTRL b x) Fld.LOFT_CTRL_MODE then
    loftEnd - d.getF (r2 .LOFT_CTRL b x) Fld.LOFT_CTRL_CACHE_MIB * 2 ^ 20
  else loftEnd

/-- Whether a local range reaches into the cache part (R202). -/
def Dev.hitsCache (d : Dev) (b x a n : Nat) : Bool := decide (loftBase ≤ a) && decide (d.cacheStart b x < a + n)

/-! ## Packet headers (Tables 05-1, 05-2, 08-6) -/

def tyREAD : Nat := 2
def tyWRITE : Nat := 3
def tyATOMIC : Nat := 4
def tyREADDATA : Nat := 5
def tyREPLY : Nat := 6
def tyREDUCE : Nat := 7
def tyMCAST : Nat := 8
def tySIGNAL : Nat := 9
def tyFORWARD : Nat := 10

/-- The virtual network of a packet type (R167). -/
def vnOf (t : Nat) : Nat := nth [0, 0, 0, 0, 0, 1, 1, 3, 3, 3, 2] t 0

def Packet_get (p : Packet) (hi lo : Nat) : Nat := bitsOf p.hdr.toNat hi lo

def pType (p : Packet) : Nat := Packet_get p 3 0
def pVn (p : Packet) : Nat := Packet_get p 5 4
def pClass (p : Packet) : Nat := Packet_get p 6 6
def pMode (p : Packet) : Nat := Packet_get p 7 7
def pLen (p : Packet) : Nat := Packet_get p 18 8
def pDstSite (p : Packet) : Nat := Packet_get p 28 19
def pDstPort (p : Packet) : Nat := Packet_get p 29 29
def pSrcSite (p : Packet) : Nat := Packet_get p 41 32
def pFwdType (p : Packet) : Nat := Packet_get p 47 44
def pTag (p : Packet) : Nat := Packet_get p 63 48
def pAddr (p : Packet) : Nat := Packet_get p 127 64
def pAop (p : Packet) : Nat := Packet_get p 131 128
def pDtype (p : Packet) : Nat := Packet_get p 135 132
def pRetry (p : Packet) : Nat := Packet_get p 136 136
def pAck (p : Packet) : Nat := Packet_get p 137 137
def pActEn (p : Packet) : Nat := Packet_get p 138 138
def pActr (p : Packet) : Nat := Packet_get p 143 139
def pGroup (p : Packet) : Nat := Packet_get p 151 144
def pStatus (p : Packet) : Nat := Packet_get p 155 152
def pSrcMember (p : Packet) : Nat := Packet_get p 159 156
def pSrcBarn (p : Packet) : Nat := Packet_get p 162 160
def pSrcTile (p : Packet) : Nat := Packet_get p 172 163
def pYstream (p : Packet) : Nat := Packet_get p 175 173
def pOrigDelta (p : Packet) : Nat := Packet_get p 191 176
def pSeq (p : Packet) : Nat := Packet_get p 223 192
def pAttempt (p : Packet) : Nat := Packet_get p 255 224

/-- The packet with header bits [hi:lo] replaced. -/
def pSet (p : Packet) (hi lo v : Nat) : Packet :=
  { p with hdr := BitVec.ofNat 256 (p.hdr.toNat - Packet_get p hi lo * 2 ^ lo + v % 2 ^ (hi + 1 - lo) * 2 ^ lo) }

/-- Whether the source awaits a reply: reads and atomics always, others by ACK (Table 08-6). -/
def awaitsReply (p : Packet) : Bool :=
  pType p == tyREAD || pType p == tyATOMIC || ((pType p == tyWRITE || pType p == tyREDUCE) && pAck p == 1)

/-- Whether a packet is a reply. -/
def isReply (p : Packet) : Bool := pType p == tyREADDATA || pType p == tyREPLY

/-- What a request asks, its routing and numbering apart. -/
structure Req where
  typ : Nat
  addr : Nat
  len : Nat
  data : List Byte := []
  marks : List Bool := []
  aop : Nat := 0
  dtype : Nat := 0
  ack : Bool := false
  actEn : Bool := false
  actr : Nat := 0
  group : Nat := 0
  deriving DecidableEq, Repr

/-- Whether a request leaves the barn's mesh through a tap (R275, R285). -/
def Dev.leavesMesh (d : Dev) (b : Nat) (r : Req) : Bool :=
  !(addrMember r.addr == d.self && addrTarget r.addr == b && r.typ != tyMCAST) ||
    r.typ == tyATOMIC || (r.typ == tyREDUCE && r.ack)

/-- The packet of a request of tile (b, x): routed to the tile's site (R177) or to the site's tap (R182). TAG, SEQ and
ATTEMPT_BEAT are written when it leaves (R275, R282). -/
def Dev.mkRequest (d : Dev) (b x : Nat) (r : Req) : Packet :=
  let out := d.leavesMesh b r
  let dst := if out then d.getF (r2 .RTR_TAP b x) Fld.RTR_TAP_TAP_SITE
    else Fld.MAP_SITE.get (d.mapEntry b x (addrTile r.addr))
  let h : Nat := r.typ + vnOf r.typ * 2 ^ 4 + r.len % 2 ^ 11 * 2 ^ 8 + dst % 1024 * 2 ^ 19 + boolNat out * 2 ^ 29 +
    x % 1024 * 2 ^ 32 + r.addr % 2 ^ 64 * 2 ^ 64 + r.aop % 16 * 2 ^ 128 + r.dtype % 16 * 2 ^ 132 + boolNat r.ack * 2 ^ 137 +
    boolNat r.actEn * 2 ^ 138 + r.actr % 32 * 2 ^ 139 + r.group % 256 * 2 ^ 144 + d.self % 16 * 2 ^ 156 + b % 8 * 2 ^ 160 +
    (d.tile b x).logical.getD 0 % 1024 * 2 ^ 163
  { hdr := BitVec.ofNat 256 h, data := r.data, marks := r.marks }

/-- The reply to a request (R120, R275): TAG, SEQ and source fields of the request; data in READ_DATA, else in REPLY. -/
def mkReply (req : Packet) (status : Nat) (data : List Byte) (marks : List Bool) : Packet :=
  let ty := if pType req == tyREAD && (status == stOk || status == stPoison) then tyREADDATA else tyREPLY
  let h : Nat := ty + 1 * 2 ^ 4 + data.length % 2 ^ 11 * 2 ^ 8 + pSrcSite req * 2 ^ 19 + pDstSite req * 2 ^ 32 +
    pTag req * 2 ^ 48 + pAddr req * 2 ^ 64 + status % 16 * 2 ^ 152 + pSrcMember req * 2 ^ 156 + pSrcBarn req * 2 ^ 160 +
    pSrcTile req * 2 ^ 163 + pSeq req * 2 ^ 192 + pAttempt req * 2 ^ 224
  { hdr := BitVec.ofNat 256 h, data := data, marks := marks, op := req.op, host := req.host }

end Sys2Proof.Machine
end

