-- ==== Sys2Proof/Machine/Engine.lean ====
section
/-! DEFINITION. Command queues (R87-R95): a command starts, is checked before any effect (R92), ends with one status (R104) and
posts its completion in push order (R94, R114, R128). Commands of a queue start in push order. -/

namespace Sys2Proof.Machine

/-- Adds 1 to a field, modulo its width. -/
def Dev.inc (d : Dev) (r : Reg) (f : Field) : Dev := d.addF r f 1

/-- The operation of a command (Table 03-6). -/
def opOf (c : W128) : Nat := fieldOf c 3 0

/-- FENCE of a command. -/
def fenceOf (c : W128) : Bool := fieldOf c 4 4 == 1

/-- CCTR of a command. -/
def cctrOf (c : W128) : Nat := fieldOf c 8 5

/-- The command that a queue would start next: the first that waits, at the head of the queue if it is fenced (R90, R94). -/
def startable : List QEntry → Option QEntry
  | [] => none
  | e :: t =>
    if e.phase = .waiting then some e
    else
      match t.find? (fun e => e.phase == .waiting) with
      | some e => if fenceOf e.cmd then none else some e
      | none => none

/-- Whether the engines of a site work: out of reset, its clock running. -/
def Dev.enginesRun (d : Dev) (b x : Nat) : Bool := !(d.tile b x).inReset && d.siteRuns b x

/-- Changes a queued command, named by its push index. -/
def Tile.updEntry (t : Tile) (q idx : Nat) (f : QEntry → QEntry) : Tile :=
  t.setQueue q (updFirst (fun e => e.idx == idx) f (t.queue q))

/-- A queued command by its push index. -/
def Tile.entry (t : Tile) (q idx : Nat) : Option QEntry := (t.queue q).find? fun e => e.idx == idx

/-- The work of a command has ended, with a status joined to what its parts gave (R104). -/
def Dev.endCmd (d : Dev) (b x q idx status : Nat) : Dev :=
  d.updTile b x fun t => t.updEntry q idx fun e => { e with phase := .ended, status := joinStatus e.status status }

/-- n parts of a command are under way, which ends with the last of them. -/
def Dev.startParts (d : Dev) (b x q idx n : Nat) : Dev :=
  d.updTile b x fun t => t.updEntry q idx fun e =>
    { e with left := e.left + n, phase := if e.left + n = 0 then .ended else .running }

/-- One part of a command ends with a status (R104). -/
def Dev.endPart (d : Dev) (b x q idx status : Nat) : Dev :=
  d.updTile b x fun t => t.updEntry q idx fun e =>
    { e with left := e.left - 1, status := joinStatus e.status status, phase := if e.left ≤ 1 then .ended else .running }

/-- A command begins, with its BEGIN record (Table 14-3). -/
def Dev.beginCmd (d : Dev) (b x q : Nat) (e : QEntry) : Dev :=
  (d.updTile b x fun t => t.updEntry q e.idx fun e => { e with phase := .running }).trace b x 1 q 0 (fieldOf e.cmd 15 0) e.idx

/-- A command ends without beginning, by the check that fails. -/
def Dev.rejectCmd (d : Dev) (b x q : Nat) (e : QEntry) (f : Fail) : Dev :=
  d.updTile b x fun t => t.updEntry q e.idx fun e => { e with phase := .ended, status := f.1, field := f.2 }

/-- The start of a queue's next command, where its OP is one of the row's: rejected whole by a failing check (R92, R129), else
begun, with its BEGIN record (Table 14-3), and run. -/
def Dev.startCmd (d : Dev) (b x q : Nat) (mine : Nat → Bool) (checks : Dev → W128 → List Fail)
    (run : Dev → QEntry → Dev) : Dev :=
  match startable ((d.tile b x).queue q) with
  | none => d
  | some e =>
    d.when (d.enginesRun b x && mine (opOf e.cmd)) fun d =>
      match verdict (checks d e.cmd) with
      | some f => d.rejectCmd b x q e f
      | none => run (d.beginCmd b x q e) e

/-- Every field beyond OP, FENCE and CCTR must be zero (R91, R93): bits [15:9] and all higher bits are the engine's, and the
record names the lowest of the queue's fields that is not. -/
def restFields (q : Nat) : List (Nat × Nat) :=
  nth [[(9, 11), (12, 12), (13, 14), (15, 15), (16, 19), (20, 23), (24, 28), (29, 44), (45, 65), (66, 86), (87, 102),
        (103, 118), (119, 127)],
    [(9, 12), (13, 13), (14, 15), (16, 19), (20, 39), (40, 60), (61, 81), (82, 102), (103, 127)],
    [(9, 9), (10, 14), (15, 15), (16, 40), (41, 63), (64, 123), (124, 127)],
    [(9, 13), (14, 14), (15, 15), (16, 36), (37, 43), (44, 47), (48, 51), (52, 59), (60, 63), (64, 123), (124, 127)],
    [(9, 10), (11, 15), (16, 39), (40, 60), (61, 85), (86, 97), (98, 121), (122, 127)],
    [(9, 12), (13, 16), (17, 37), (38, 61), (62, 78), (79, 86), (87, 107), (108, 127)]] q []

/-- The reserved fields of a command whose OP a queue does not define: OP itself fails. -/
def undefinedOp (op hi : Nat) : List Fail := failIf (decide (hi < op)) stMalformed 0

/-- A NOP on queue q does nothing and ends with OK (R91). -/
def execEngineNop (b x q : Nat) (s : State) : Out :=
  onUnit (okSite b x && decide (q < 6)) s fun d =>
    d.startCmd b x q (· == 0) (fun _ c => nonZeroFields c (restFields q)) fun d e => d.endCmd b x q e.idx stOk

/-- A fault record (R128). -/
def faultRecord (e : QEntry) (q beat : Nat) : BitVec 128 :=
  BitVec.ofNat 128 (e.status % 16 + q % 8 * 2 ^ 4 + fieldOf e.cmd 15 0 * 2 ^ 16 + beat % 2 ^ 32 * 2 ^ 32 +
    e.field % 2 ^ 32 * 2 ^ 64 + beat / 2 ^ 32 % 2 ^ 32 * 2 ^ 96)

/-- A record joins the fault queue of eight entries, or is lost and counted (R128). -/
def Dev.pushFault (d : Dev) (b x : Nat) (w : BitVec 128) : Dev :=
  if (d.tile b x).faultQ.length < 8 then d.updTile b x fun t => { t with faultQ := t.faultQ ++ [w] }
  else d.inc (r2 .FAULT_LOST b x) Fld.FAULT_LOST_LOST

/-- The field of QUEUE_ERR that counts a status. -/
def queueErrField (st : Nat) : Field :=
  if st = stMalformed then Fld.QUEUE_ERR_MALFORMED else if st = stDenied then Fld.QUEUE_ERR_DENIED
  else if st = stBounds then Fld.QUEUE_ERR_BOUNDS else Fld.QUEUE_ERR_OTHER

/-- The field of QUEUE_ERR that counts an ended command: a rejected command counts under its status, any other status than OK
under OTHER (R92, QUEUE_ERR). -/
def QEntry.errField (e : QEntry) : Field := if e.field = 0xFFFFFFFF then Fld.QUEUE_ERR_OTHER else queueErrField e.status

/-- What a status other than OK adds: the CC_ERR bit (R114), the error count and the fault record (R92, R128). -/
def Dev.noteFault (d : Dev) (b x q : Nat) (e : QEntry) : Dev :=
  d.when (e.status != stOk) fun d =>
    ((d.updTile b x fun t => { t with ccErr := Nat.lor t.ccErr (2 ^ cctrOf e.cmd) }).inc (r3 .QUEUE_ERR b x q)
      e.errField).pushFault b x (faultRecord e q d.beat)

/-! ## Posted packets of a copy (R104) -/

/-- The packets on their way in the package: those under way, those on its optical links that their far ends have not received, and
those of the combining stages. -/
def Dev.onTheWay (d : Dev) : List Packet :=
  d.net.map Flight.pkt ++
  (d.olinks.flatMap fun c =>
    (c.2.part.map (·.1)).toList ++ c.2.replay.filterMap fun f => match f.2 with
      | .head p => if (f.1 + 4096 - c.2.expect) % 4096 < 2048 then some p else none
      | _ => none) ++
  d.ports.flatMap fun c => c.2.lines

/-- Whether a posted packet of a copy is still on its way to a target in this package. -/
def Dev.copyUnderWay (d : Dev) (e : QEntry) : Bool := e.op != 0 && d.onTheWay.any fun p => p.op == e.op && !awaitsReply p

/-- A target of this package rejects a packet: the status joins that of the copy whose posted packet it is (R104). -/
def Dev.noteReject (d : Dev) (p : Packet) (st : Nat) : Dev :=
  if p.op = 0 || st = stOk || awaitsReply p then d
  else { d with tiles := d.tiles.map fun t => (t.1, t.2.setQueue 2 ((t.2.queue 2).map fun e =>
    if e.op = p.op then { e with status := joinStatus e.status st } else e)) }

/-- The oldest command of a queue leaves it, complete. Its fault record is written now, also where a check rejected it (DESIGN CHOICE,
log 128). -/
def Dev.completeCmd (d : Dev) (b x q : Nat) (e : QEntry) (rest : List QEntry) : Dev :=
  let d := d.updTile b x fun t => (t.setQueue q rest).setCc (cctrOf e.cmd) (t.ccOf (cctrOf e.cmd) + 1)
  let d := d.noteFault b x q e
  let d := d.when (e.field != 0xFFFFFFFF) fun d => d.trace b x 1 q 0 (fieldOf e.cmd 15 0) e.idx
  d.trace b x 2 q e.status (fieldOf e.cmd 15 0) e.idx

/-- The oldest command of a queue has ended and posts its completion: 1 to its CCTR (R114), what a failure adds, its END record,
and before it the BEGIN record where it was rejected (Table 14-3). -/
def execCommandCompletion (b x q : Nat) (s : State) : Out :=
  onUnit (okSite b x && decide (q < 6)) s fun d =>
    match (d.tile b x).queue q with
    | [] => d
    | e :: rest =>
      d.when (d.enginesRun b x && e.phase == .ended && !d.copyUnderWay e) fun d => d.completeCmd b x q e rest

end Sys2Proof.Machine
end

