-- ==== Sys2Proof/Machine/Routes.lean ====
section
/-! DEFINITION. The geometry of the barn mesh, the routes that its routers hold and their input buffers (R162-R176): what an engine of a
tile needs to know to inject a packet. -/

namespace Sys2Proof.Machine

/-! ## Geometry (R162, Table 00-6) -/

/-- The neighbour of a site at a mesh port, if there is one: 0 N, 1 E, 2 S, 3 W. -/
def neighbour (x port : Nat) : Option Nat :=
  match port with
  | 0 => if 32 ≤ x then some (x - 32) else none
  | 1 => if x % 32 < 31 then some (x + 1) else none
  | 2 => if x < 736 then some (x + 32) else none
  | 3 => if 0 < x % 32 then some (x - 1) else none
  | _ => none

/-- The sites of a barn in a state of FAR_SITE: 0 holds a tile, 1 spare, 2 retired, 3 hole. -/
def Dev.siteState (d : Dev) (b x : Nat) : Nat := d.getF (r2 .FAR_SITE b x) Fld.FAR_SITE_STATE

/-- A site whose router is out of service; links towards it are absent (R173). -/
def Dev.hole (d : Dev) (b x : Nat) : Bool := d.siteState b x == 3

/-- The site at the other end of a mesh link that is there. -/
def Dev.linked (d : Dev) (b x port : Nat) : Option Nat := (neighbour x port).filter fun y => !d.hole b x && !d.hole b y

/-- The port of the neighbour at which a packet arrives. -/
def facing (port : Nat) : Nat := (port + 2) % 4

/-- The port from a site towards a neighbouring site. -/
def portTowards (x y : Nat) : Option Nat := (List.range 4).find? fun p => neighbour x p == some y

/-- Whether a site has a tap: rows 11 and 12. -/
def isTap (x : Nat) : Bool := decide (352 ≤ x) && decide (x < 416)

/-- Whether a router has a port: mesh ports on the barn edge are absent, port 5 is there in rows 11 and 12 only (R162). -/
def hasPort (x port : Nat) : Bool := if port = 5 then isTap x else decide (port < 5) && (port == 4 || (neighbour x port).isSome)

/-- Whether a mesh port crosses the seam between columns 15 and 16 (R70). -/
def seamPort (x port : Nat) : Bool := (port == 1 && x % 32 == 15) || (port == 3 && x % 32 == 16)

/-- The next port on the dimension-order route: along the row, then along the column (R172). -/
def dimPort (x dst : Nat) : Nat :=
  if x % 32 < dst % 32 then 1 else if dst % 32 < x % 32 then 3
  else if x / 32 < dst / 32 then 2 else if dst / 32 < x / 32 then 0 else 4

/-- The sites of the dimension-order path from x to dst. -/
def dimPath : Nat → Nat → Nat → List Nat
  | 0, _, _ => []
  | fuel + 1, x, dst =>
    match neighbour x (dimPort x dst) with
    | some y => x :: dimPath fuel y dst
    | none => [x]

/-! ## Routes (R174, R176) -/

/-- The RT_PARENT word that the barn's routers hold for a site. -/
def Dev.parentWord (d : Dev) (b x : Nat) : W32 := d.parents.get (fun _ => 0) (b * 1024 + x)
def parentOf (w : W32) : Nat := Fld.RT_PARENT_PARENT.get w
def parentIn (w : W32) : Bool := Fld.RT_PARENT_IN_SERVICE.get w == 1

/-- The chain of a site upward to the root. -/
def chainUp (par : Nat → Nat) : Nat → Nat → List Nat
  | 0, x => [x]
  | fuel + 1, x => if par x = x then [x] else x :: chainUp par fuel (par x)

/-- The site before x in a list that leads up to x. -/
def childOn (x : Nat) : List Nat → Option Nat
  | a :: b :: t => if b = x then some a else childOn x (b :: t)
  | _ => none

/-- TREE_PORT of router x for destination dst (R176 step 3). -/
def Dev.treePort (d : Dev) (b x dst : Nat) : Nat :=
  let par (y : Nat) : Nat := parentOf (d.parentWord b y)
  if x = dst then 4
  else (portTowards x ((childOn x (chainUp par 768 dst)).getD (par x))).getD 4

/-- MODE of router x for destination dst (R176 step 4). -/
def Dev.routeMode (d : Dev) (b x dst : Nat) : Bool := (dimPath 64 x dst).any fun y => !parentIn (d.parentWord b y)

/-- The ROUTE entry of router x for destination dst: as computed at the load, unless written since; 0 before the first load. -/
def Dev.routeEntry (d : Dev) (b x dst : Nat) : W32 :=
  match d.routeOver.get (fun _ => none) ((b * 768 + x) * 1024 + dst) with
  | some w => w
  | none => if !bitOf d.routed b then 0 else BitVec.ofNat 32 (d.treePort b x dst + boolNat (d.routeMode b x dst) * 8)

/-! ## Buffers (R169, R171) -/

/-- The flits of a packet (R164). -/
def flits (p : Packet) : Nat := 1 + ceilDiv (pLen p - 96) 128

/-- The packets in the same input buffer of a router as a packet of this network and MODE. -/
def Dev.bufferOf (d : Dev) (place : Place) (vn mode : Nat) : List Packet :=
  (d.net.filter fun f => f.place == place && pClass f.pkt == 0 && pVn f.pkt == vn && pMode f.pkt == mode).map Flight.pkt

/-- Whether a router's input buffer has room for a whole packet (Table 05-3). -/
def Dev.routerRoom (d : Dev) (b x port : Nat) (p : Packet) : Bool :=
  let used := sumNat ((d.bufferOf (.router b x port) (pVn p) (pMode p)).map flits)
  decide (used + flits p ≤ if pMode p = 1 then 9 else 18)

/-- A packet under MODE 1 or 0 by the ROUTE entry of the router that injects it (R174). -/
def Dev.setMode (d : Dev) (b x : Nat) (p : Packet) : Packet :=
  pSet p 7 7 (Fld.ROUTE_MODE.get (d.routeEntry b x (pDstSite p)))

/-- Whether the buffer of the local port that a tile's packet enters has room for it (R169). -/
def Dev.localRoom (d : Dev) (b x : Nat) (p : Packet) : Bool := d.routerRoom b x 4 (d.setMode b x p)

/-- A packet enters its router at the local port, with the MODE of its route (R172, R174). -/
def Dev.injectAt (d : Dev) (b x : Nat) (p : Packet) : Dev := d.send (.router b x 4) (d.setMode b x p)

end Sys2Proof.Machine
end

