-- ==== Sys2Proof/Machine/Remote.lean ====
section
/-! DEFINITION. Reads and writes of tile SRAM and loft slices by the engines (R198, R200, R487), and remote operations: slots,
source credits, held packets, sequence numbers and the sending of requests (R118-R120, R275, R293). -/

namespace Sys2Proof.Machine

/-! ## Local accesses -/

/-- Whether a local address lies in the slice. -/
def isLoft (a : Nat) : Bool := decide (loftBase ≤ a)

/-- The retired coils of a site (R197). -/
def Dev.lostDies (d : Dev) (b x : Nat) : Nat := d.getF (r2 .LOFT_STATUS b x) Fld.LOFT_STATUS_COIL_FAILED

/-- Whether a slice byte lies on a lost die (R195, R198). -/
def lostByte (mask a : Nat) : Bool := isLoft a && bitOf mask ((a - loftBase) / 64 % 4)

/-- The POISON marks of a local range: marked words, and the units of lost dies (R198). -/
def Dev.localMarks (d : Dev) (b x a n : Nat) : List Bool :=
  let mask := d.lostDies b x
  let l := (List.range n).map fun i => d.poisonAt (localBase b x + a + i) || lostByte mask (a + i)
  if l.any id then l else []

/-- The ranges of [a, a + n) between multiples of step, as (start, length); fuel bounds their number. -/
def cuts (step : Nat) : Nat → Nat → Nat → List (Nat × Nat)
  | 0, _, _ => []
  | fuel + 1, a, n =>
    if n = 0 then [] else
      let k := min n (step - a % step)
      (a, k) :: cuts step fuel (a + k) (n - k)

/-- A word's check code finds something (R200, R487): a single-bit error, which stands until it is corrected, or an uncorrectable one,
which marks the word. In tile SRAM the report of an uncorrectable word is kept (R432). -/
def Dev.findError (d : Dev) (b x : Nat) (f : Nat × Ecc) : Dev :=
  let w := localBase b x + f.1 / 8 * 8
  let beat := d.beat
  match f.2 with
  | .clean => d
  | .corrected => if isLoft f.1 then { d with soft := d.soft.set (fun _ => false) w true } else d
  | .uncorrectable =>
    { d with
      poison := d.poison.set (fun _ => false) w true
      sramErrs := if isLoft f.1 then d.sramErrs else d.sramErrs.upd (fun _ => []) w fun l => beat :: l }

/-- What the codes of a tile's SRAM and slice find as a command reads them, by local address; other addresses name no word. -/
def Dev.find (d : Dev) (b x : Nat) (found : List (Nat × Ecc)) : Dev :=
  (found.filter fun f => localFits (f.1 / 8 * 8) 8).foldl (fun d f => d.findError b x f) d

/-- Single-bit errors of slice words are corrected where they stand, and counted (R200). -/
def Dev.correctSoft (d : Dev) (b x : Nat) (words : List Nat) : Dev :=
  let l := words.filter (d.soft.get fun _ => false)
  if l.isEmpty then d
  else ({ d with soft := l.foldl (fun m w => m.set (fun _ => false) w false) d.soft }).addF (r2 .LOFT_ECC b x) Fld.LOFT_ECC_CORR l.length

/-- What a slice read counts: its bytes, each word corrected, and each word with an uncorrectable error (R200). -/
def Dev.countSliceRead (d : Dev) (b x a n : Nat) : Dev :=
  if isLoft a && n != 0 then
    let d := d.correctSoft b x (unitsOf (localBase b x + a) n)
    let d := d.addPair (r2 .LOFT_READ_BYTES_LO b x) (r2 .LOFT_READ_BYTES_HI b x) n
    let bad := (unitsOf (localBase b x + a) n).filter d.poisonAt
    match bad.getLast? with
    | none => d
    | some w => (d.addF (r2 .LOFT_ECC b x) Fld.LOFT_ECC_UNCORR bad.length).setF (r2 .LOFT_POISON_ADDR b x)
        Fld.LOFT_POISON_ADDR_OFFSET (w - localBase b x - loftBase)
  else d

/-- Reads n bytes at a local address: the bytes and their marks. -/
def Dev.readLocal (d : Dev) (b x a n : Nat) : List Byte × List Bool × Dev :=
  let ms := d.localMarks b x a n
  let d' := d.countSliceRead b x a n
  (d.readBytes (localBase b x + a) n, ms, if isLoft a && !ms.isEmpty then d'.inc (r2 .LOFT_ERR b x) Fld.LOFT_ERR_POISON else d')

/-- A write of n bytes ends the single-bit errors of the words it touches: those it covers in part are read and corrected (R200). -/
def Dev.mergeSoft (d : Dev) (b x a n : Nat) : Dev :=
  let at_ := localBase b x + a
  let whole (w : Nat) : Bool := decide (at_ ≤ w) && decide (w + 8 ≤ at_ + n)
  let d := d.correctSoft b x ((unitsOf at_ n).filter fun w => !whole w)
  if d.soft.isEmpty then d else { d with soft := (unitsOf at_ n).foldl (fun m w => m.set (fun _ => false) w false) d.soft }

/-- Writes bytes at a local address; units on a lost die keep nothing, and the access counts as completed POISON (R198). -/
def Dev.writeLocal (d : Dev) (b x a : Nat) (bs : List Byte) (marks : List Bool) : Dev :=
  let mask := d.lostDies b x
  let d := if isLoft a then (d.mergeSoft b x a bs.length).addPair (r2 .LOFT_WRITE_BYTES_LO b x) (r2 .LOFT_WRITE_BYTES_HI b x) bs.length else d
  if mask = 0 || !isLoft a then d.writeMarked (localBase b x + a) bs marks
  else
    let d := d.when ((List.range bs.length).any fun i => lostByte mask (a + i)) fun d =>
      d.inc (r2 .LOFT_ERR b x) Fld.LOFT_ERR_POISON
    (cuts 64 (bs.length + 1) a bs.length).foldl (fun d p =>
      if lostByte mask p.1 then d
      else d.writeMarked (localBase b x + p.1) (bytesAt bs (p.1 - a) p.2) ((marks.drop (p.1 - a)).take p.2)) d

/-- The status of a write of n bytes: POISON where it touches a lost die (R198). -/
def Dev.writeStatus (d : Dev) (b x a n : Nat) : Nat :=
  if d.lostDies b x != 0 && (List.range n).any fun i => lostByte (d.lostDies b x) (a + i) then stPoison else stOk

/-! ## Credits (R293) -/

/-- The logical tile of a site as a source: barn * 1024 + tile. -/
def Dev.sourceOf (d : Dev) (b x : Nat) : Nat := b * 1024 + (d.tile b x).logical.getD 0

/-- The port router of an address's target: TARGET 28 is the stack that the window gives (R293). -/
def Dev.targetPort (d : Dev) (a : Nat) : Nat :=
  if addrTarget a = 28 then 8 + (d.windowMap (addrOffset a)).1 else addrTarget a

/-- The members that a packet goes to: one, or those of a multicast group. -/
def Dev.membersOf (d : Dev) (p : Packet) : List Nat :=
  if pType p = tyMCAST then
    (List.range 16).filter (bitOf (d.getF (r1 .MCAST_GROUP (pGroup p)) Fld.MCAST_GROUP_MASK))
  else [addrMember (pAddr p)]

/-- The credits that a packet spends, by (source, member, target port): none for a packet that stays in the mesh, and none
for a reply. -/
def Dev.creditKeys (d : Dev) (b x : Nat) (p : Packet) : List Nat :=
  if pDstPort p = 1 && (pVn p == 0 || pVn p == 3) then
    (d.membersOf p).map fun m => d.sourceOf b x * 512 + m * 32 + d.targetPort (pAddr p)
  else []

/-- Credits spent. -/
def Dev.spent (d : Dev) (k : Nat) : Nat := d.credits.get (fun _ => 0) k

/-- Whether every credit that a packet needs is left. -/
def Dev.hasCredits (d : Dev) (b x : Nat) (p : Packet) : Bool :=
  (d.creditKeys b x p).all fun k => decide (d.spent k < d.getF (r0 .YARD_LEDGER) Fld.YARD_LEDGER_SRC_CREDITS)

/-- Spends the credits of a packet. -/
def Dev.spend (d : Dev) (b x : Nat) (p : Packet) : Dev :=
  { d with credits := (d.creditKeys b x p).foldl (fun m k => m.upd (fun _ => 0) k (· + 1)) d.credits }

/-! ## Slots and sending -/

/-- The lowest free slot of 64. -/
def Tile.freeSlot (t : Tile) : Option Nat := (List.range 64).find? fun i => (t.slots.get (fun _ => none) i).isNone

/-- The lowest index from 64 on at which no operation waits for its reply without a slot. -/
def Tile.freeOwn (t : Tile) : Nat :=
  ((List.range (t.slots.length + 1)).map (64 + ·)).find? (fun i => (t.slots.get (fun _ => none) i).isNone) |>.getD 64

/-- The slot of an index. -/
def Tile.slot (t : Tile) (i : Nat) : Option Slot := t.slots.get (fun _ => none) i
def Tile.setSlot (t : Tile) (i : Nat) (s : Option Slot) : Tile := { t with slots := t.slots.set (fun _ => none) i s }

/-- SLOT_STATUS.HIGH follows the largest SLOTS. -/
def Dev.noteHigh (d : Dev) (b x : Nat) : Dev :=
  let r := r2 .SLOT_STATUS b x
  d.setF r Fld.SLOT_STATUS_HIGH (max (d.getF r Fld.SLOT_STATUS_HIGH) (d.tile b x).slotCount)

/-- Numbers a packet that leaves the mesh in VN0 or VN3 (R275). -/
def Dev.number (d : Dev) (b x : Nat) (p : Packet) : Packet × Dev :=
  if pDstPort p = 1 && (pVn p == 0 || pVn p == 3) then
    let k := d.sourceOf b x
    let n := d.seqs.get (fun _ => 0) k
    (pSet p 223 192 n.toNat, { d with seqs := d.seqs.set (fun _ => 0) k (n + 1) })
  else (p, d)

/-- Whether a packet can leave its tile now: a slot if it needs one (R119), its credits (R293), and room in the router's local input
(R169). -/
def Dev.canIssue (d : Dev) (b x : Nat) (h : Held) : Bool :=
  (!h.needsSlot || (d.tile b x).freeSlot.isSome) && d.hasCredits b x h.slot.pkt && d.localRoom b x h.slot.pkt

/-- The operation in a packet that awaits a reply gets a number, by which a late reply to an earlier one is told apart (R120, R281). -/
def Dev.numberOp (d : Dev) (p : Packet) : Packet × Dev :=
  if awaitsReply p then ({ p with op := d.ops + 1 }, { d with ops := d.ops + 1 }) else (p, d)

/-- A packet leaves its tile at the router's local port: numbered, with the beat of the attempt, holding its slot under its TAG; an
ATOMIC or REDUCE_ACK on the own tile holds none (R118; DEDUCED, log 123). A posted packet ends its part of the command here (R107); a
copy completes once its posted packets have ended (R104). -/
def Dev.issue (d : Dev) (b x : Nat) (h : Held) : Dev :=
  let d := d.spend b x h.slot.pkt
  let (p, d) := d.number b x h.slot.pkt
  let (p, d) := d.numberOp p
  let t := d.tile b x
  let i := if h.needsSlot then t.freeSlot.getD 0 else t.freeOwn
  let p := pSet p 255 224 d.beat
  let p := if awaitsReply p then pSet p 63 48 i else p
  let d := if awaitsReply p then
      (d.updTile b x fun t => t.setSlot i (some { h.slot with pkt := p, issue := d.beat, sent := d.beat })).noteHigh b x
    else d.endPart b x h.slot.queue h.slot.idx stOk
  d.injectAt b x p

/-- A packet is offered: issued, or held behind an earlier held packet of its queue, for a slot or for a credit (R119, R293). -/
def Dev.offer (d : Dev) (b x : Nat) (h : Held) : Dev :=
  if d.canIssue b x h && !((d.tile b x).held.any fun g => g.slot.queue == h.slot.queue) then d.issue b x h
  else d.updTile b x fun t => { t with held := t.held ++ [h] }

/-- The first held packet that can go and has no earlier held packet of its queue before it. -/
def Dev.nextHeld (d : Dev) (b x : Nat) : List Held → List Nat → Option Held
  | [], _ => none
  | h :: t, qs =>
    if !qs.contains h.slot.queue && d.canIssue b x h then some h else d.nextHeld b x t (h.slot.queue :: qs)

/-- A held packet is issued once a slot or a credit is free (R119). -/
def Dev.issueHeld (d : Dev) (b x : Nat) : Dev :=
  match d.nextHeld b x (d.tile b x).held [] with
  | none => d
  | some h => (d.updTile b x fun t => { t with held := eraseFirst (· == h) t.held }).issue b x h

def execHeldPacketIssue (b x : Nat) (s : State) : Out :=
  onUnit (okSite b x) s fun d => d.when (d.enginesRun b x) fun d => d.issueHeld b x

/-- Credits of a target port come back to a logical tile, and what waits for them issues (R293). -/
def Dev.returnCredits (d : Dev) (b x member target n : Nat) : Dev :=
  let d := { d with credits := d.credits.upd (fun _ => 0) (d.sourceOf b x * 512 + member * 32 + target) (· - n) }
  d.when (d.enginesRun b x) fun d => d.issueHeld b x

/-- The router of a tile absorbs a credit return at once (R293). -/
def Dev.absorb (d : Dev) (b x : Nat) (p : Packet) : Dev := d.returnCredits b x (addrMember (pAddr p)) (addrTarget (pAddr p)) p.credits

/-- Whether a packet is the return of n credits of a target port. -/
def isCreditReturn (member target n : Nat) (p : Packet) : Bool :=
  n != 0 && p.credits == n && addrMember (pAddr p) == member && addrTarget (pAddr p) == target

/-- A return of n credits of a target port reaches a logical tile of a barn, and a packet held for one proceeds (R293). -/
def execCreditReturnRelease (b x member target n : Nat) (s : State) : Out :=
  onUnit (okSite b x && decide (member < 16) && decide (target < 28)) s fun d =>
    d.when (d.siteRuns b x) fun d =>
      let here (f : Flight) : Bool := f.place == .tile b x && isCreditReturn member target n f.pkt
      Dev.returnCredits { d with net := eraseFirst here d.net } b x member target n

end Sys2Proof.Machine
end

