-- ==== Sys2Proof/Machine/Dma.lean ====
section
/-! DEFINITION. The DMA engine (R102-R105, R203, R225): COPY and COPYD, cut into packets, with the loft cache's lookup. -/

namespace Sys2Proof.Machine

/-! ## Fields of Tables 03-10 and 03-11 -/

def cDir (c : W128) : Bool := fieldOf c 9 9 == 1
def cActr (c : W128) : Nat := fieldOf c 14 10
def cActEn (c : W128) : Bool := fieldOf c 15 15 == 1
def cLocal (c : W128) : Nat := fieldOf c 40 16
def cLen (c : W128) : Nat := fieldOf c 63 41
def cRemote (c : W128) : Nat := fieldOf c 123 64

/-- One end of a copy: an address of the tile itself, or a yard address. -/
inductive Loc where
  | own (a : Nat)
  | far (a : Nat)
  deriving DecidableEq, Repr

def Loc.num : Loc → Nat
  | .own a => a
  | .far a => a

def Loc.add (l : Loc) (n : Nat) : Loc :=
  match l with
  | .own a => .own (a + n)
  | .far a => .far (a + n)

/-- A yard address as an end of a copy of tile (b, x). -/
def Dev.locOf (d : Dev) (b x a : Nat) : Loc := if d.isOwnTile b x a then .own (addrLocal a) else .far a

/-- A copy of n bytes that one packet carries. -/
structure Piece where
  src : Loc
  dst : Loc
  n : Nat
  deriving DecidableEq, Repr

/-! ## The loft cache (R203) -/

def Dev.cacheMode (d : Dev) (b x : Nat) : Bool := d.flag (r2 .LOFT_CTRL b x) Fld.LOFT_CTRL_MODE
def Dev.cacheBase (d : Dev) (b x : Nat) : Nat := d.pair (r2 .LOFT_CACHE_BASE_LO b x) (r2 .LOFT_CACHE_BASE_HI b x)
def Dev.cacheLen (d : Dev) (b x : Nat) : Nat := d.pair (r2 .LOFT_CACHE_LEN_LO b x) (r2 .LOFT_CACHE_LEN_HI b x)
def Dev.cacheLines (d : Dev) (b x : Nat) : Nat := d.getF (r2 .LOFT_CTRL b x) Fld.LOFT_CTRL_CACHE_MIB * 1024

/-- Whether a yard range touches the cached range in cache mode. -/
def Dev.touchesCached (d : Dev) (b x a n : Nat) : Bool :=
  d.cacheMode b x && decide (a < d.cacheBase b x + d.cacheLen b x) && decide (d.cacheBase b x < a + n)

/-- Whether a yard range lies whole in the cached range. -/
def Dev.inCached (d : Dev) (b x a n : Nat) : Bool :=
  d.cacheMode b x && decide (d.cacheBase b x ≤ a) && decide (a + n ≤ d.cacheBase b x + d.cacheLen b x)

/-- The direct-mapped line of an address. -/
def Dev.lineIndex (d : Dev) (b x a : Nat) : Nat := addrOffset a / 1024 % d.cacheLines b x

/-- The tag of an address: TARGET and the remaining offset bits. -/
def Dev.lineTag (d : Dev) (b x a : Nat) : Nat := addrTarget a * 2 ^ 41 + addrOffset a / 1024 / d.cacheLines b x

/-- The local address at which a line stands. -/
def Dev.lineAddr (d : Dev) (b x i : Nat) : Nat := d.cacheStart b x + i * 1024

/-- Whether a line holds an address. -/
def Dev.cacheHit (d : Dev) (b x a : Nat) : Bool :=
  match (d.tile b x).lines.get (fun _ => none) (d.lineIndex b x a) with
  | some l => l.tag == d.lineTag b x a
  | none => false

/-- A reply that covers a whole line replaces the line's contents. -/
def Dev.fillLine (d : Dev) (b x i addr : Nat) (bs : List Byte) (marks : List Bool) : Dev :=
  (d.writeLocal b x (d.lineAddr b x i) bs marks).updTile b x fun t =>
    { t with lines := t.lines.set (fun _ => none) i (some ⟨d.lineTag b x addr⟩) }

/-! ## Pieces (R104, R203, R225) -/

/-- Where the source of a copy is cut too: at cached lines, or at units of the striped window. -/
def Dev.sourceCut (d : Dev) (b x : Nat) (src : Loc) (n : Nat) : Nat :=
  match src with
  | .own _ => 0
  | .far a => if d.touchesCached b x a n then 1024 else if addrTarget a = 28 then 4096 else 0

/-- The packets of one row: at most 1,024 B, none across a 1,024-B boundary of the destination. -/
def rowPieces (cut : Nat) : Nat → Loc → Loc → Nat → List Piece
  | 0, _, _, _ => []
  | fuel + 1, s, t, n =>
    if n = 0 then [] else
      let k := min n (min (1024 - t.num % 1024) (if cut = 0 then n else cut - s.num % cut))
      ⟨s, t, k⟩ :: rowPieces cut fuel (s.add k) (t.add k) (n - k)

/-! ## Moving pieces -/

/-- What one copy shares over its pieces. -/
structure CopyJob where
  idx : Nat
  actEn : Bool
  actr : Nat
  deriving DecidableEq, Repr

/-- Data that ends in the tile itself becomes visible, and its arrival counter adds its length. -/
def Dev.arriveOwn (d : Dev) (b x a : Nat) (bs : List Byte) (marks : List Bool) (actEn : Bool) (actr : Nat) : Dev :=
  (d.writeLocal b x a bs marks).updTile b x fun t => if actEn then t.addAc actr (BitVec.ofNat 32 bs.length) else t

/-- A part ends with POISON where its data is marked or a unit is lost, else with OK. -/
def markStatus (marks : List Bool) (st : Nat) : Nat := joinStatus (if marks.isEmpty then stOk else stPoison) st

/-- Notes POISON in a command whose part goes on. -/
def Dev.notePoison (d : Dev) (b x q idx : Nat) (marks : List Bool) : Dev :=
  d.updTile b x fun t => t.updEntry q idx fun e => { e with status := markStatus marks e.status }

/-- Data leaves the tile in a WRITE packet; the last one of a copy is acknowledged and holds a slot (R118), the others carry the copy's
number, by which it knows when they have ended (R104). -/
def Dev.writeFar (d : Dev) (b x : Nat) (j : CopyJob) (t : Nat) (bs : List Byte) (marks : List Bool) (last : Bool) : Dev :=
  let d := d.notePoison b x 2 j.idx marks
  let op := match (d.tile b x).entry 2 j.idx with | some e => e.op | none => 0
  let pkt := { d.mkRequest b x {
    typ := tyWRITE, addr := t, len := bs.length, data := bs, marks := marks, ack := last
    actEn := j.actEn, actr := if j.actEn then j.actr else 0 } with op := op }
  d.offer b x ⟨{ queue := 2, idx := j.idx, pkt := pkt, dest := 0, issue := 0, sent := 0 }, last⟩

/-- A read packet to a far source. -/
def Dev.readFar (d : Dev) (b x : Nat) (j : CopyJob) (s n : Nat) (dest : Loc) : Dev :=
  let pkt := d.mkRequest b x { typ := tyREAD, addr := s, len := n }
  let fill := if d.inCached b x s n && n == 1024 && s % 1024 == 0 then some (d.lineIndex b x s) else none
  let far := match dest with | .far _ => true | .own _ => false
  d.offer b x ⟨{
    queue := 2, idx := j.idx, pkt := pkt, dest := dest.num, destRemote := far
    actr := j.actr, actEn := j.actEn, issue := 0, sent := 0, fill := fill }, true⟩

/-- Delivers a piece's data, read in the tile, at its destination. -/
def Dev.deliver (d : Dev) (b x : Nat) (j : CopyJob) (dst : Loc) (bs : List Byte) (marks : List Bool) (last : Bool) : Dev :=
  match dst with
  | .own t => (d.arriveOwn b x t bs marks j.actEn j.actr).endPart b x 2 j.idx (markStatus marks (d.writeStatus b x t bs.length))
  | .far t => d.writeFar b x j t bs marks last

/-- One piece: from the tile itself, from the cache on a hit, or by a read packet. -/
def Dev.doPiece (d : Dev) (b x : Nat) (j : CopyJob) (p : Piece) (last : Bool) : Dev :=
  match p.src with
  | .own s =>
    let (bs, ms, d) := d.readLocal b x s p.n
    d.deliver b x j p.dst bs ms last
  | .far s =>
    if d.inCached b x s p.n then
      if d.cacheHit b x s then
        let a := d.lineAddr b x (d.lineIndex b x s) + s % 1024
        let (bs, ms, d) := (d.inc (r2 .LOFT_CACHE_HIT b x) Fld.LOFT_CACHE_HIT_HIT).readLocal b x a p.n
        d.deliver b x j p.dst bs ms last
      else (d.inc (r2 .LOFT_CACHE_MISS b x) Fld.LOFT_CACHE_MISS_MISS).readFar b x j s p.n p.dst
    else d.readFar b x j s p.n p.dst

/-- Whether a read packet of a copy whose data goes on to a remote destination has not been answered yet. -/
def Tile.readsLeft (t : Tile) (idx : Nat) : Bool :=
  let mine (s : Slot) : Bool := s.queue == 2 && s.idx == idx && s.destRemote
  (t.slots.any fun c => match c.2 with | some s => mine s | none => false) || t.held.any fun h => mine h.slot

/-- Whether a piece ends at a remote destination. -/
def Piece.goesFar (p : Piece) : Bool := match p.dst with | .far _ => true | .own _ => false

/-- The pieces of a copy in order; its last write to a remote destination is told apart (R118). -/
def Dev.doPieces (d : Dev) (b x : Nat) (j : CopyJob) : List Piece → Dev
  | [] => d
  | p :: t => (d.doPiece b x j p (!t.any Piece.goesFar && !(d.tile b x).readsLeft j.idx)).doPieces b x j t

/-- A copy begins: it has as many parts as packets, and a number for them. -/
def Dev.copyStart (d : Dev) (b x : Nat) (j : CopyJob) (ps : List Piece) : Dev :=
  let n := d.ops + 1
  let d := { d with ops := n }.updTile b x fun t => t.updEntry 2 j.idx fun e => { e with op := n }
  (d.startParts b x 2 j.idx ps.length).doPieces b x j ps

/-! ## COPY -/

/-- Whether a range ends in the cache part of the tile's own slice (R202). -/
def Dev.locHitsCache (d : Dev) (b x : Nat) (l : Loc) (n : Nat) : Bool :=
  match l with
  | .own a => d.hitsCache b x a n
  | .far _ => false

/-- The checks of COPY (R92, R102, R105, R202). -/
def copyChecks (b x : Nat) (d : Dev) (c : W128) : List Fail :=
  nonZeroFields c [(124, 127)] ++
  failIf (cActEn c && !cDir c && decide (8 ≤ addrTarget (cRemote c))) stMalformed 15 ++
  d.addrFails b x (cRemote c) (cLen c) 64 41 ++
  failIf (!localFits (cLocal c) (cLen c)) stBounds 41 ++
  failIf (d.hitsCache b x (cLocal c) (cLen c) || d.locHitsCache b x (d.locOf b x (cRemote c)) (cLen c)) stBounds 41

/-- The pieces of a COPY. -/
def copyPieces (b x : Nat) (d : Dev) (c : W128) : List Piece :=
  let here := Loc.own (cLocal c)
  let there := d.locOf b x (cRemote c)
  let src := if cDir c then there else here
  let dst := if cDir c then here else there
  rowPieces (d.sourceCut b x src (cLen c)) (cLen c) src dst (cLen c)

/-- COPY (R102). Undefined OPs of the DMA queue are rejected here. -/
def execCopy (b x : Nat) (found : List (Nat × Ecc)) (s : State) : Out :=
  onUnit (okSite b x) s fun d =>
    (d.find b x found).startCmd b x 2 (fun op => op == 1 || decide (3 ≤ op))
      (fun d c => undefinedOp (opOf c) 2 ++ (if opOf c = 1 then copyChecks b x d c else []))
      fun d e => d.copyStart b x ⟨e.idx, cActEn e.cmd, cActr e.cmd⟩ (copyPieces b x d e.cmd)

/-! ## COPYD -/

/-- The descriptor of Table 03-11. -/
structure Desc where
  src : Nat
  dst : Nat
  len : Nat
  rows : Nat
  srcStride : Nat
  dstStride : Nat
  flags : Nat
  rest : Nat
  deriving DecidableEq, Repr

/-- The address of the descriptor. -/
def descAddr (c : W128) : Nat := fieldOf c 36 16

/-- Reads the descriptor. -/
def Dev.readDesc (d : Dev) (b x : Nat) (c : W128) : Desc :=
  let a := localBase b x + descAddr c
  ⟨d.readNat a 8, d.readNat (a + 8) 8, d.readNat (a + 16) 4, d.readNat (a + 20) 4, d.readNat (a + 24) 8, d.readNat (a + 32) 8,
    d.readNat (a + 40) 4, d.readNat (a + 44) 20⟩

def Desc.actEn (k : Desc) : Bool := bitOf k.flags 5
def Desc.actr (k : Desc) : Nat := k.flags % 32

/-- The checks of an end of a COPYD: its address (R21, R23), and every row by itself, since rows may lie in different places (R103). -/
def Dev.rowFails (d : Dev) (b x a stride rows len addrField : Nat) : List Fail :=
  (d.addrFails b x a 0 addrField 0).filter (·.1 != stBounds) ++
  (List.range rows).flatMap fun i =>
    d.addrFails b x (a + i * stride) len addrField (256 + 0x14) ++
    failIf (d.locHitsCache b x (d.locOf b x (a + i * stride)) len) stBounds (256 + 0x14)

/-- The checks of a descriptor: every row before any byte moves (R103). A field is numbered 256 plus its offset (R129). -/
def descChecks (b x : Nat) (d : Dev) (k : Desc) : List Fail :=
  failIf (decide (2 ^ 51 ≤ k.srcStride)) stMalformed (256 + 0x18) ++
  failIf (decide (2 ^ 51 ≤ k.dstStride)) stMalformed (256 + 0x20) ++
  failIf (decide (64 ≤ k.flags) || (k.actEn && (k.dst :: (List.range k.rows).map fun i => k.dst + i * k.dstStride).any
    fun a => decide (8 ≤ addrTarget a))) stMalformed (256 + 0x28) ++
  failIf (k.rest != 0) stMalformed (256 + 0x2C) ++ d.rowFails b x k.src k.srcStride k.rows k.len 256 ++
  d.rowFails b x k.dst k.dstStride k.rows k.len (256 + 8)

/-- Whether the descriptor lies in a poisoned word (R487). -/
def Dev.descPoisoned (d : Dev) (b x : Nat) (c : W128) : Bool := d.poisoned (localBase b x + descAddr c) 64

/-- The checks of COPYD: the command's fields, then the descriptor. -/
def copydChecks (b x : Nat) (d : Dev) (c : W128) : List Fail :=
  let own := nonZeroFields c [(9, 15), (37, 127)] ++ failIf (descAddr c % 64 != 0) stMalformed 16
  if own.isEmpty && !d.descPoisoned b x c then descChecks b x d (d.readDesc b x c) else own

/-- The pieces of a COPYD, row by row. -/
def copydPieces (b x : Nat) (d : Dev) (k : Desc) : List Piece :=
  (List.range k.rows).flatMap fun i =>
    let s := d.locOf b x (k.src + i * k.srcStride)
    let t := d.locOf b x (k.dst + i * k.dstStride)
    rowPieces (d.sourceCut b x s k.len) k.len s t k.len

/-- COPYD. -/
def Dev.copydRun (b x : Nat) (d : Dev) (e : QEntry) : Dev :=
  if d.descPoisoned b x e.cmd then d.endCmd b x 2 e.idx stPoison
  else
    let k := d.readDesc b x e.cmd
    d.copyStart b x ⟨e.idx, k.actEn, k.actr⟩ (copydPieces b x d k)

/-- COPYD (R103). -/
def execCopyd (b x : Nat) (found : List (Nat × Ecc)) (s : State) : Out :=
  onUnit (okSite b x) s fun d =>
    (d.find b x found).startCmd b x 2 (· == 2) (copydChecks b x) (Dev.copydRun b x)

end Sys2Proof.Machine
end

