-- ==== Sys2Proof/Machine/Message.lean ====
section
/-! DEFINITION. What a request does at its target tile (R113, R131, R160, R161), and the message engine (R106-R108, R225, R277). -/

namespace Sys2Proof.Machine

/-! ## A request applied at a tile -/

/-- The bytes that a request ranges over at its target. -/
def reqBytes (p : Packet) : Nat :=
  if pType p = tySIGNAL then 0 else if pType p = tyATOMIC then dtypeSize (pDtype p) else pLen p

/-- What applying a request gives: its status, and the data of its reply with their marks. -/
structure Applied where
  dev : Dev
  status : Nat
  data : List Byte := []
  marks : List Bool := []

/-- The value that an ATOMIC writes over old: AOP 7 compares first (Table 03-12). -/
def atomicNew (p : Packet) (old : Nat) : Nat :=
  let sz := dtypeSize (pDtype p)
  let v := fieldLE p.data 0 sz
  if pAop p = 7 then (if old = v then fieldLE p.data sz sz else old) else combine (pAop p) (pDtype p) old v

/-- The arrival counter of a packet adds its bytes and those folded into it (R113, R294). -/
def Tile.addArrival (t : Tile) (p : Packet) : Tile :=
  if pActEn p = 1 then t.addAc (pActr p) (BitVec.ofNat 32 (pLen p + p.folded)) else t

/-- What the payload of SIGNAL and EVENT does: LEN 4 adds to ACTR, LEN 0 sets PEER (R107, R121). -/
def Tile.signal (t : Tile) (p : Packet) : Tile :=
  if pLen p = 0 then { t with evtPending := Nat.lor t.evtPending 8 }
  else t.addAc (pActr p) (BitVec.ofNat 32 (fieldLE p.data 0 4))

/-- A combination that a poisoned target refuses: POISON where it is answered; a posted one is dropped and counted (R161). -/
def Dev.refusePoison (d : Dev) (b x : Nat) (p : Packet) : Applied :=
  if isLoft (addrLocal (pAddr p)) || (pType p == tyREDUCE && pAck p == 0) then
    ⟨d.inc (r2 .LOFT_ERR b x) Fld.LOFT_ERR_POISON, stPoison, [], []⟩
  else ⟨d, stPoison, [], []⟩

/-- A request applied at tile (b, x): its range is checked before any effect (R39, R202). -/
def Dev.applyTile (d : Dev) (b x : Nat) (p : Packet) : Applied :=
  let a := addrLocal (pAddr p)
  let n := reqBytes p
  let at_ := localBase b x + a
  if pType p = tySIGNAL then ⟨d.updTile b x fun t => t.signal p, stOk, [], []⟩
  else if !localFits a n || d.hitsCache b x a n then ⟨d.inc (r2 .LOFT_ERR b x) Fld.LOFT_ERR_BOUNDS, stBounds, [], []⟩
  else if n = 0 then ⟨d, stOk, [], []⟩
  else if pType p = tyREAD then
    let (bs, ms, d) := d.readLocal b x a n
    ⟨d, markStatus ms stOk, bs, ms⟩
  else if pType p = tyWRITE || pType p = tyMCAST then
    ⟨(d.writeLocal b x a p.data p.marks).updTile b x fun t => t.addArrival p, d.writeStatus b x a n, [], []⟩
  else if d.poisoned at_ n || d.writeStatus b x a n != stOk then d.refusePoison b x p
  else if pType p = tyATOMIC then
    let old := d.readNat at_ n
    let d := d.correctSoft b x (unitsOf at_ n)
    ⟨d.writeLocal b x a (bytesLE (atomicNew p old) n) (if p.marks.isEmpty then [] else List.replicate n true), stOk,
      bytesLE old n, []⟩
  else
    let row := combineRow (pAop p) (pDtype p) (d.readBytes at_ n) p.data
    let d := d.correctSoft b x (unitsOf at_ n)
    ⟨(d.writeLocal b x a row p.marks).updTile b x fun t => t.addArrival p,
      stOk, [], []⟩

/-! ## Fields of Table 03-12 -/

def gActr (c : W128) : Nat := fieldOf c 13 9
def gActEn (c : W128) : Bool := fieldOf c 14 14 == 1
def gLocal (c : W128) : Nat := fieldOf c 36 16
def gLen (c : W128) : Nat := fieldOf c 43 37
def gAop (c : W128) : Nat := fieldOf c 47 44
def gDtype (c : W128) : Nat := fieldOf c 51 48
def gGroup (c : W128) : Nat := fieldOf c 59 52
def gRemote (c : W128) : Nat := fieldOf c 123 64

/-- The LEN of an ATOMIC: the DTYPE size, or twice it for CAS. -/
def atomicLen (c : W128) : Nat := dtypeSize (gDtype c) * (if gAop c = 7 then 2 else 1)

/-- A message range that crosses a unit of the striped window (R225). -/
def crossesUnit (a n : Nat) : Bool := addrTarget a == 28 && n != 0 && addrOffset a / 4096 != (addrOffset a + n - 1) / 4096

/-- The fields that each OP leaves unused (Table 03-13a), reserved ranges included. -/
def msgUnused (c : W128) : List (Nat × Nat) :=
  let actr := if gActEn c then [] else [(9, 13)]
  let aop := [(44, 47), (48, 51)]
  let grp := [(52, 59)]
  [(15, 15), (60, 63), (124, 127)] ++
  match opOf c with
  | 1 => [(9, 13), (14, 14)] ++ aop ++ grp
  | 2 => actr ++ aop ++ grp
  | 3 => [(9, 13), (14, 14)] ++ grp
  | 4 => actr ++ grp
  | 5 => actr ++ grp
  | 6 => actr ++ aop
  | 7 => [(14, 14)] ++ aop ++ grp
  | _ => [(9, 13), (14, 14), (16, 36), (37, 43)] ++ aop ++ grp

/-- The operand size that LOCAL must be aligned to (R106). -/
def msgAlign (c : W128) : Nat :=
  match opOf c with
  | 3 => dtypeSize (gDtype c) | 4 => dtypeSize (gDtype c) | 5 => dtypeSize (gDtype c) | 7 => 4 | _ => 1

/-- The bytes at LOCAL that an operation reads or writes, and those at REMOTE. -/
def msgLocalBytes (c : W128) : Nat := if opOf c = 3 then max (gLen c) (dtypeSize (gDtype c)) else gLen c
def msgRemoteBytes (c : W128) : Nat :=
  if opOf c = 3 then dtypeSize (gDtype c) else if opOf c = 7 ∨ opOf c = 8 then 0 else gLen c

/-- What R107 and R108 call malformed beyond unused fields. An ATOMIC whose DTYPE is illegal has its LEN, LOCAL and range judged with a size
of 1 B (DESIGN CHOICE, log 129). -/
def msgCombos (c : W128) : List Fail :=
  let op := opOf c
  let dt := gDtype c
  let reduces := op == 4 || op == 5
  failIf ((op == 3 || reduces) && decide (6 < dt)) stMalformed 48 ++
  failIf (op == 3 && (dt == 5 || dt == 6)) stMalformed 48 ++
  failIf (op == 3 && dt == 4 && !(gAop c == 0 || gAop c == 1 || gAop c == 2 || gAop c == 6)) stMalformed 44 ++
  failIf (op == 3 && gLen c != atomicLen c) stMalformed 37 ++
  failIf (op == 7 && gLen c != 4) stMalformed 37 ++
  failIf ((op == 3 || reduces) && decide (7 < gAop c)) stMalformed 44 ++
  failIf (reduces && decide (5 < gAop c)) stMalformed 44 ++
  failIf (reduces && gLen c % dtypeSize dt != 0) stMalformed 37 ++
  failIf (gActEn c && decide (8 ≤ addrTarget (gRemote c))) stMalformed 14 ++
  failIf ((op == 7 || op == 8) && decide (8 ≤ addrTarget (gRemote c))) stMalformed 64 ++
  failIf (gLocal c % msgAlign c != 0) stMalformed 16 ++
  failIf (crossesUnit (gRemote c) (msgRemoteBytes c)) stMalformed 37

/-- The group of an MCAST, checked before issue (R277). -/
def mcastFails (d : Dev) (c : W128) : List Fail :=
  let w := r1 .MCAST_GROUP (gGroup c)
  let a := gRemote c
  failIf (addrMalformed a || addrMember a != 0) stMalformed 64 ++
  failIf (!d.flag w Fld.MCAST_GROUP_VALID) stDenied 52 ++
  failIf ((List.range 16).any fun m => bitOf (d.getF w Fld.MCAST_GROUP_MASK) m && !d.inYard m) stDenied 52 ++
  failIf (!d.addrFits a (gLen c)) stBounds 37

/-- The checks of a message command (R92, R106-R108). Where the REMOTE of an EVENT names no location, BOUNDS names LEN (DESIGN CHOICE,
log 129). -/
def msgChecks (b x : Nat) (d : Dev) (c : W128) : List Fail :=
  nonZeroFields c (msgUnused c) ++ msgCombos c ++ failIf (decide (64 < gLen c)) stBounds 37 ++
  failIf (decide (tileSram < gLocal c + msgLocalBytes c)) stBounds 37 ++
  (if opOf c = 6 then mcastFails d c else d.addrFails b x (gRemote c) (msgRemoteBytes c) 64 37) ++
  failIf (opOf c != 6 && d.locHitsCache b x (d.locOf b x (gRemote c)) (msgRemoteBytes c)) stBounds 37

/-! ## Operations -/

/-- The packet type that carries an operation (Table 05-2). -/
def msgType (c : W128) : Nat := nth [0, tyREAD, tyWRITE, tyATOMIC, tyREDUCE, tyREDUCE, tyMCAST, tySIGNAL, tySIGNAL] (opOf c) 0

/-- Whether an operation holds a slot (Table 03-13). -/
def msgHolds (c : W128) : Bool := opOf c == 1 || opOf c == 2 || opOf c == 3 || opOf c == 5

/-- The request that a message command sends. -/
def Dev.msgRequest (d : Dev) (b x : Nat) (c : W128) (data : List Byte) (marks : List Bool) : Packet :=
  let atomic := opOf c == 3 || opOf c == 4 || opOf c == 5
  d.mkRequest b x ({
    typ := msgType c
    addr := gRemote c
    len := gLen c
    data := data
    marks := marks
    aop := if atomic then gAop c else 0
    dtype := if atomic then gDtype c else 0
    ack := opOf c == 2 || opOf c == 5
    actEn := gActEn c
    actr := gActr c
    group := gGroup c } : Req)

/-- Whether an operation acts in the tile itself at once: every OP but ATOMIC and REDUCE_ACK, which pass the barn's port router
(R285), and MCAST. -/
def Dev.msgOwn (d : Dev) (b x : Nat) (c : W128) : Bool :=
  !(opOf c == 3 || opOf c == 5 || opOf c == 6) && d.isOwnTile b x (gRemote c)

/-- A message operation: nothing at LEN 0 (R36) but for EVENT; in the tile itself at once; else a packet. An ATOMIC or SIGNAL
whose operand is poisoned is not sent. -/
def Dev.msgRun (b x : Nat) (d : Dev) (e : QEntry) : Dev :=
  let c := e.cmd
  let op := opOf c
  let reads := op != 1 && op != 8
  let data := if reads then d.readBytes (localBase b x + gLocal c) (gLen c) else []
  let marks := if reads then d.localMarks b x (gLocal c) (gLen c) else []
  let empty := gLen c == 0 && op != 8
  let noMember := op == 6 && d.getF (r1 .MCAST_GROUP (gGroup c)) Fld.MCAST_GROUP_MASK == 0
  if empty || noMember then d.endCmd b x 3 e.idx stOk
  else if (op == 3 || op == 7) && !marks.isEmpty then d.endCmd b x 3 e.idx stPoison
  else
    let p := d.msgRequest b x c data marks
    if d.msgOwn b x c then
      let r := d.applyTile b x p
      if op = 1 then
        (r.dev.writeLocal b x (gLocal c) r.data r.marks).endCmd b x 3 e.idx r.status
      else r.dev.endCmd b x 3 e.idx (markStatus marks r.status)
    else
      ((d.startParts b x 3 e.idx 1).notePoison b x 3 e.idx marks).offer b x
        ⟨{ queue := 3, idx := e.idx, pkt := p, dest := gLocal c, issue := 0, sent := 0 }, msgHolds c && !d.isOwnTile b x (gRemote c)⟩

/-- One message operation of the row's OP. -/
def Dev.msgCmd (d : Dev) (b x op : Nat) : Dev := d.startCmd b x 3 (· == op) (msgChecks b x) (Dev.msgRun b x)

/-- LOAD. Undefined OPs of the message queue are rejected here. -/
def execMsgLoad (b x : Nat) (s : State) : Out :=
  onUnit (okSite b x) s fun d =>
    d.startCmd b x 3 (fun op => op == 1 || decide (9 ≤ op))
      (fun d c => undefinedOp (opOf c) 8 ++ (if opOf c = 1 then msgChecks b x d c else [])) (Dev.msgRun b x)

/-- STORE: LOCAL to REMOTE, acknowledged. -/
def execMsgStore (b x : Nat) (s : State) : Out := onUnit (okSite b x) s fun d => d.msgCmd b x 2

/-- ATOMIC: AOP on one element at REMOTE; the old value goes to LOCAL. -/
def execAtomic (b x : Nat) (s : State) : Out := onUnit (okSite b x) s fun d => d.msgCmd b x 3

/-- REDUCE: combines elements into REMOTE, posted. -/
def execReduce (b x : Nat) (s : State) : Out := onUnit (okSite b x) s fun d => d.msgCmd b x 4

/-- REDUCE_ACK: as REDUCE, acknowledged. -/
def execReduceAck (b x : Nat) (s : State) : Out := onUnit (okSite b x) s fun d => d.msgCmd b x 5

/-- MCAST: stores in every member of GROUP, posted (R277). -/
def execMcast (b x : Nat) (s : State) : Out := onUnit (okSite b x) s fun d => d.msgCmd b x 6

/-- SIGNAL: adds the value at LOCAL to ACTR at the REMOTE tile, posted. -/
def execSignal (b x : Nat) (s : State) : Out := onUnit (okSite b x) s fun d => d.msgCmd b x 7

/-- EVENT: sets PEER at the REMOTE tile, posted. -/
def execEvent (b x : Nat) (s : State) : Out := onUnit (okSite b x) s fun d => d.msgCmd b x 8

end Sys2Proof.Machine
end

