-- ==== Sys2Proof/Machine/LoftPort.lean ====
section
/-! DEFINITION. The loft-port engine (R109) and the block-select unit (R111, R112, R321). -/

namespace Sys2Proof.Machine

/-! ## Loft port: fields of Table 03-14a -/

def lChan (c : W128) : Nat := fieldOf c 10 9
def lLoft (c : W128) : Nat := fieldOf c 39 16
def lSram (c : W128) : Nat := fieldOf c 60 40
def lLen (c : W128) : Nat := fieldOf c 85 61
def lRows (c : W128) : Nat := fieldOf c 97 86
def lStride (c : W128) : Nat := fieldOf c 121 98

/-- The bytes from the start of the first row to the end of the last. -/
def spanOf (rows stride len : Nat) : Nat := (rows - 1) * stride + len

/-- The checks of a loft-port command (R92, R93, R109, R202). -/
def loftChecks (b x : Nat) (d : Dev) (c : W128) : List Fail :=
  let span := spanOf (lRows c) (lStride c) (lLen c)
  let stream := opOf c == 3
  nonZeroFields c [(11, 15), (122, 127)] ++ nonZeroFields c (if stream then [(40, 60)] else [(9, 10)]) ++
  failIf (lRows c != 0 && decide (2 ^ 24 < lLoft c + span)) stBounds 86 ++
  failIf (!stream && decide (tileSram < lSram c + lRows c * lLen c)) stBounds 86 ++
  failIf (lRows c != 0 && lLen c != 0 && d.hitsCache b x (loftBase + lLoft c) span) stBounds 86

/-- The local address of row i in the slice. -/
def rowLoft (c : W128) (i : Nat) : Nat := loftBase + lLoft c + i * lStride c

/-- Ends a loft-port command with the status of its rows together (R104). -/
def Dev.loftRow (d : Dev) (b x : Nat) (e : QEntry) (read : Bool) (i : Nat) : Dev :=
  let c := e.cmd
  let s := if read then rowLoft c i else lSram c + i * lLen c
  let t := if read then lSram c + i * lLen c else rowLoft c i
  let (bs, ms, d) := d.readLocal b x s (lLen c)
  (d.writeLocal b x t bs ms).endPart b x 4 e.idx (markStatus ms (d.writeStatus b x t (lLen c)))

/-- READ or WRITE: row by row (R109). -/
def Dev.loftMove (b x : Nat) (read : Bool) (d : Dev) (e : QEntry) : Dev :=
  (List.range (lRows e.cmd)).foldl (fun d i => d.loftRow b x e read i) (d.startParts b x 4 e.idx (lRows e.cmd))

/-- READ: slice to SRAM. Undefined OPs of the loft-port queue are rejected here. -/
def execLoftRead (b x : Nat) (found : List (Nat × Ecc)) (s : State) : Out :=
  onUnit (okSite b x) s fun d =>
    (d.find b x found).startCmd b x 4 (fun op => op == 1 || decide (4 ≤ op))
      (fun d c => undefinedOp (opOf c) 3 ++ (if opOf c = 1 then loftChecks b x d c else [])) (Dev.loftMove b x true)

/-- WRITE: SRAM to slice. -/
def execLoftWrite (b x : Nat) (found : List (Nat × Ecc)) (s : State) : Out :=
  onUnit (okSite b x) s fun d => (d.find b x found).startCmd b x 4 (· == 2) (loftChecks b x) (Dev.loftMove b x false)

/-- The units of a row on their way to a channel, each with its mark (R487). -/
def rowUnits (b x : Nat) (d : Dev) (c : W128) (i : Nat) : List ChanUnit :=
  (cuts 64 (lLen c) (rowLoft c i) (lLen c)).map fun p =>
    ⟨d.readBytes (localBase b x + p.1) p.2, !(d.localMarks b x p.1 p.2).isEmpty⟩

/-- LOFT_STREAM. -/
def Dev.loftStreamRun (b x : Nat) (d : Dev) (e : QEntry) : Dev :=
  let c := e.cmd
  let us := (List.range (lRows c)).flatMap fun i => rowUnits b x d c i
  let d := (List.range (lRows c)).foldl (fun d i => (d.readLocal b x (rowLoft c i) (lLen c)).2.2) d
  (d.startParts b x 4 e.idx us.length).updTile b x fun t =>
    { t with streaming := t.streaming.upd (fun _ => []) (lChan c) fun l => l ++ us.map fun u => (e.idx, u) }

/-- STREAM: the slice's rows leave for the matrix channel, and arrive there unit by unit (R99). -/
def execLoftStream (b x : Nat) (found : List (Nat × Ecc)) (s : State) : Out :=
  onUnit (okSite b x) s fun d => (d.find b x found).startCmd b x 4 (· == 3) (loftChecks b x) (Dev.loftStreamRun b x)

/-! ## Block select: fields of Table 03-14b -/

def sFmt (c : W128) : Nat := fieldOf c 12 9
def sHeads (c : W128) : Nat := fieldOf c 16 13
def sQ (c : W128) : Nat := fieldOf c 37 17
def sKey (c : W128) : Nat := fieldOf c 61 38
def sNblk (c : W128) : Nat := fieldOf c 78 62
def sTopk (c : W128) : Nat := fieldOf c 86 79
def sOut (c : W128) : Nat := fieldOf c 107 87

/-- Bytes of the query vectors. -/
def queryBytes (c : W128) : Nat := sHeads c * packedSize (sFmt c) 128

/-- The checks of SCORE (R92, R111, R112, R135, R202). -/
def scoreChecks (b x : Nat) (d : Dev) (c : W128) : List Fail :=
  let bad := badFmt (sFmt c)
  nonZeroFields c [(108, 127)] ++ failIf bad stMalformed 9 ++
  failIf (sQ c % 64 != 0) stMalformed 17 ++ failIf (sKey c % 128 != 0) stMalformed 38 ++
  failIf (sOut c % 4 != 0) stMalformed 87 ++
  failIf (decide (8 < sHeads c)) stBounds 13 ++ failIf (decide (65536 < sNblk c)) stBounds 62 ++
  failIf (decide (128 < sTopk c)) stBounds 79 ++
  failIf (decide (2 ^ 24 < sKey c + 128 * sNblk c)) stBounds 62 ++
  failIf (decide (tileSram < sOut c + 4 * sTopk c)) stBounds 79 ++
  failIf (!bad && decide (tileSram < sQ c + queryBytes c)) stBounds 13 ++
  failIf (sNblk c != 0 && d.hitsCache b x (loftBase + sKey c) (128 * sNblk c)) stBounds 62
where
  /-- Q_FMT accepts FP32, BF16 and the FP8 formats (R135). -/
  badFmt (f : Nat) : Bool := !([0, 1, 3, 4].contains f)

/-- One step of R321: the larger of the two FP32 products, added in FP32. -/
def scoreStep (acc : Nat) (q : Num) (key : Byte) : Nat :=
  let prod (code : Nat) : Num := fp32.decode (fp32.encode false .nearest (q.mul (e2m1.decode code)))
  fp32Add acc (fp32.encode false .nearest ((prod (key.toNat % 16)).maxOf (prod (key.toNat / 16))))

/-- The score of one key: heads in ascending order, dimensions in ascending order, then rounded to BF16 (R321). -/
def scoreOf (heads : List (List Num)) (key : List Byte) : Nat :=
  let s := heads.foldl (fun acc q => (List.range 128).foldl (fun acc i => scoreStep acc (nth q i .nan) (nth key i 0)) acc) 0
  bf16.encode false .nearest (fp32.decode s)

/-- Whether entry u is listed before entry v: descending score, NaN last, equal scores by ascending index (R112, R321). -/
def scoreBefore (u v : Nat × Nat) : Bool :=
  let x := bf16.decode u.2
  let y := bf16.decode v.2
  if x = .nan then y == .nan && decide (u.1 ≤ v.1)
  else if y = .nan then true
  else if y.lt x then true else if x.lt y then false else decide (u.1 ≤ v.1)

/-- The list of min(TOPK, NBLK) entries of 4 bytes (R112). -/
def scoreList (n : Nat) (scores : List Nat) : List Byte :=
  ((sortBy scoreBefore ((List.range scores.length).map fun i => (i, nth scores i 0))).take n).flatMap fun p =>
    bytesLE (p.1 % 65536 + p.2 % 65536 * 65536) 4

/-- SCORE. -/
def Dev.scoreRun (b x : Nat) (d : Dev) (e : QEntry) : Dev :=
  let c := e.cmd
  let n := min (sTopk c) (sNblk c)
  if sHeads c = 0 || sNblk c = 0 then d.endCmd b x 5 e.idx stOk
  else
    let (keys, ms, d) := d.readLocal b x (loftBase + sKey c) (128 * sNblk c)
    let at_ := localBase b x + sOut c
    if !ms.isEmpty || d.poisoned (localBase b x + sQ c) (queryBytes c) then
      let (bs, d) := d.freeBytes (4 * n)
      (d.writeMarked at_ bs (List.replicate (4 * n) true)).endCmd b x 5 e.idx stPoison
    else
      let sz := packedSize (sFmt c) 128
      let heads := (List.range (sHeads c)).map fun h =>
        decodeRow (sFmt c) 128 (d.readBytes (localBase b x + sQ c + h * sz) sz)
      let scores := (List.range (sNblk c)).map fun k => scoreOf heads (bytesAt keys (128 * k) 128)
      (d.write at_ (scoreList n scores)).endCmd b x 5 e.idx stOk

/-- SCORE (R112). Undefined OPs of the block-select queue are rejected here. -/
def execScore (b x : Nat) (found : List (Nat × Ecc)) (s : State) : Out :=
  onUnit (okSite b x) s fun d =>
    (d.find b x found).startCmd b x 5 (fun op => op != 0)
      (fun d c => undefinedOp (opOf c) 1 ++ (if opOf c = 1 then scoreChecks b x d c else [])) (Dev.scoreRun b x)

end Sys2Proof.Machine
end

