-- ==== Sys2Proof/Machine/Arrival.lean ====
section
/-! DEFINITION. Arrivals at a tile: requests and posted packets (R113, R131), replies (R120), and the timeouts and retries of
its remote slots (R281, R282). -/

namespace Sys2Proof.Machine

/-! ## The ledger's entries -/

/-- The source key of a packet: member, barn, logical tile (R285). -/
def srcKey (p : Packet) : Nat := pSrcMember p * 2 ^ 13 + pSrcBarn p * 2 ^ 10 + pSrcTile p

/-- Whether two packets carry the same ledger key. -/
def sameKey (p q : Packet) : Bool := srcKey p == srcKey q && pSeq p == pSeq q

def Dev.port (d : Dev) (p : Nat) : PortSt := d.ports.get (fun _ => {}) p
def Dev.setPort (d : Dev) (p : Nat) (v : PortSt) : Dev := { d with ports := d.ports.set (fun _ => {}) p v }
def Dev.updPort (d : Dev) (p : Nat) (f : PortSt → PortSt) : Dev := d.setPort p (f (d.port p))

/-- Whether a packet is governed by the ledger. -/
def ledgered (p : Packet) : Bool := pType p == tyATOMIC || (pType p == tyREDUCE && pAck p == 1)

/-- The pending entry of a packet takes its status and result (R286); a REDUCE_ACK records only its status. -/
def Dev.recordResult (d : Dev) (port : Nat) (p : Packet) (status : Nat) (data : List Byte) : Dev :=
  let mine (e : LedgerEntry) : Bool := e.pending && sameKey e.req p
  let done (e : LedgerEntry) : LedgerEntry :=
    { e with pending := false, status := status, result := if pType p = tyATOMIC then data else [] }
  d.updPort port fun s => { s with ledger := updFirst mine done s.ledger }

/-! ## Requests -/

/-- Whether the reply to a request leaves through the tap it came by. -/
def Dev.replyByTap (d : Dev) (b : Nat) (req : Packet) : Bool :=
  !(pSrcMember req == d.self && pSrcBarn req == b) || ledgered req || req.host

/-- A tile's reply as it leaves. -/
def Dev.replyOf (d : Dev) (b x : Nat) (req : Packet) (status : Nat) (data : List Byte) (marks : List Bool) : Packet :=
  pSet (pSet (mkReply req status data marks) 41 32 x) 29 29 (boolNat (d.replyByTap b req))

/-- A tile's reply leaves at its router's local port. -/
def Dev.replyFrom (d : Dev) (b x : Nat) (req : Packet) (status : Nat) (data : List Byte) (marks : List Bool) : Dev :=
  let d := if ledgered req then d.recordResult b req status data else d
  d.injectAt b x (d.replyOf b x req status data marks)

/-- What a request does at a tile: refused while the tile is in reset (R131) or its barn is out of service (R40), else applied. -/
def Dev.atTile (d : Dev) (b x : Nat) (p : Packet) : Applied :=
  if (d.tile b x).inReset || !bitOf d.barnsIn b then
    ⟨if awaitsReply p then d else d.inc (r2 .RESET_DROP b x) Fld.RESET_DROP_DROP, stDenied, [], []⟩
  else d.applyTile b x p

/-- A request arrives at a tile, and is answered where it is awaited; it waits while its reply would find no room (R169). -/
def Dev.arriveTile (d : Dev) (b x : Nat) (p : Packet) : Dev :=
  let r := (d.take (.tile b x) p).atTile b x p
  if !awaitsReply p then r.dev.noteReject p r.status
  else if d.localRoom b x (d.replyOf b x p r.status r.data r.marks) then r.dev.replyFrom b x p r.status r.data r.marks
  else d

/-- A request or posted packet arrives at a target tile and is applied (R113). -/
def execTargetTileArrival (b x : Nat) (pkt : Packet) (found : List (Nat × Ecc)) (s : State) : Out :=
  onUnit (okSite b x) s fun d =>
    d.when (d.siteRuns b x && !isReply pkt) fun d => (d.find b x found).arriveTile b x pkt

/-! ## Replies (R118, R120) -/

/-- The data of a read reply becomes visible at its destination, or leaves again in a write packet; a reply that covers a whole cached
line replaces it (R203). -/
def Dev.readDone (d : Dev) (b x : Nat) (s : Slot) (data : List Byte) (marks : List Bool) : Dev :=
  let d := match s.fill with
    | some i => if data.length = 1024 then d.fillLine b x i (pAddr s.pkt) data marks else d
    | none => d
  if s.destRemote then
    d.writeFar b x ⟨s.idx, s.actEn, s.actr⟩ s.dest data marks (!(d.tile b x).readsLeft s.idx)
  else
    let st := markStatus marks (d.writeStatus b x s.dest data.length)
    (d.arriveOwn b x s.dest data marks s.actEn s.actr).endPart b x s.queue s.idx st

/-- A slot's operation ends with a reply of a status (R104, R107, R120). -/
def Dev.slotDone (d : Dev) (b x : Nat) (s : Slot) (reply : Packet) : Dev :=
  let st := pStatus reply
  if pType s.pkt = tyREAD && (st == stOk || st == stPoison) then d.readDone b x s reply.data reply.marks
  else if pType s.pkt = tyATOMIC && st == stOk then
    (d.writeLocal b x s.dest reply.data reply.marks).endPart b x s.queue s.idx st
  else d.endPart b x s.queue s.idx st

/-- Whether a reply answers the operation in a slot, not an earlier one in the same slot: by SEQ, and where the packet took none (R275) by
its operation (R130, R281; log 126). -/
def Slot.answeredBy (s : Slot) (p : Packet) : Bool := pSeq s.pkt == pSeq p && (pDstPort s.pkt == 1 || s.pkt.op == p.op)

/-- A reply reaches its tile: a reset notice marks the slot (R284), any other reply frees it and ends the operation; one with
no slot is counted stray (R130, R281). Credit returns are absorbed (R293). -/
def Dev.arriveReply (d : Dev) (b x : Nat) (p : Packet) : Dev :=
  if p.credits ≠ 0 then d.absorb b x p
  else match (d.tile b x).slot (pTag p) with
  | some s =>
    if s.answeredBy p then
      if pStatus p = stPortReset then d.updTile b x fun t => t.setSlot (pTag p) (some { s with marked := true })
      else (d.updTile b x fun t => t.setSlot (pTag p) none).slotDone b x s p
    else d.inc (r2 .STRAY_REPLY b x) Fld.STRAY_REPLY_STRAY
  | none => d.inc (r2 .STRAY_REPLY b x) Fld.STRAY_REPLY_STRAY

/-- A reply reaches its tile (R120). -/
def execReplyArrival (b x : Nat) (pkt : Packet) (s : State) : Out :=
  onUnit (okSite b x) s fun d =>
    d.when (d.siteRuns b x && isReply pkt) fun d => (d.take (.tile b x) pkt).arriveReply b x pkt

/-- The credit returns that have reached running tiles are absorbed. -/
def Dev.edgeCredits (d : Dev) : Dev :=
  let back : List (Nat × Nat × Packet) := d.net.filterMap fun f => match f.place with
    | .tile b x => if f.pkt.credits != 0 && d.siteRuns b x then some (b, x, f.pkt) else none
    | _ => none
  back.foldl (fun d c => (d.take (.tile c.1 c.2.1) c.2.2).absorb c.1 c.2.1 c.2.2) d

/-! ## Timeouts (R281, R282) -/

/-- A retry of the request in a slot: the same SEQ, RETRY set, a new ATTEMPT_BEAT, ORIG_DELTA; it spends a credit. -/
def Dev.retrySlot (d : Dev) (b x i : Nat) (s : Slot) : Dev :=
  let p := pSet (pSet (pSet s.pkt 136 136 1) 255 224 d.beat) 191 176 ((d.beat - s.issue) / 16)
  let d := (d.spend b x p).updTile b x fun t =>
    t.setSlot i (some { s with pkt := p, sent := d.beat, attempts := s.attempts + 1, marked := false })
  d.injectAt b x p

/-- A slot past its time: a ledgered request is sent again, any other ends. -/
def Dev.slotExpire (d : Dev) (b x i : Nat) (sl : Slot) : Dev :=
  if ledgered sl.pkt && decide (sl.attempts ≤ d.getF (r0 .YARD_LEDGER) Fld.YARD_LEDGER_RETRY_MAX) then
    d.when (d.hasCredits b x sl.pkt && d.localRoom b x sl.pkt) fun d => d.retrySlot b x i sl
  else
    (d.updTile b x fun t => t.setSlot i none).endPart b x sl.queue sl.idx (if sl.marked then stPortReset else stTimeout)

/-- A slot reaches REMOTE_TO: an ATOMIC or REDUCE_ACK is retried, once it has a credit, at most RETRY_MAX times; else the
operation ends with PORT_RESET where the attempt was marked, and with TIMEOUT otherwise. -/
def execSlotTimeout (b x i : Nat) (s : State) : Out :=
  onUnit (okSite b x && decide (i < 64)) s fun d =>
    match (d.tile b x).slot i with
    | none => d
    | some sl =>
      d.when (d.siteRuns b x && decide (sl.sent + d.getF (r0 .YARD_TIMING) Fld.YARD_TIMING_REMOTE_TO ≤ d.beat)) fun d => d.slotExpire b x i sl

end Sys2Proof.Machine
end

