-- ==== Sys2Proof/Machine/Mesh.lean ====
section
/-! DEFINITION. The barn mesh (R162-R184): routers, routes, the route loader and the taps. -/

namespace Sys2Proof.Machine

/-- Whether no earlier packet of its buffer stands before a packet (R171). -/
def Dev.isFront (d : Dev) (place : Place) (p : Packet) : Bool :=
  let l := d.bufferOf place (pVn p) (pMode p)
  !l.contains p || l.head? == some p

/-- A packet stands at an input: among those under way if it is not yet. -/
def Dev.standAt (d : Dev) (place : Place) (p : Packet) : Dev :=
  if d.net.any fun f => f.place == place && f.pkt == p then d else d.send place p

/-- Whether a packet has passed the checks of the router at whose input it stands. -/
def Dev.hasCome (d : Dev) (place : Place) (p : Packet) : Bool := d.net.any fun f => f.place == place && f.pkt == p && f.come

/-- A packet passes the checks of a router's input as q, and keeps its place in its buffer (R171). -/
def Dev.comeTo (d : Dev) (place : Place) (p q : Packet) : Dev :=
  let d := d.standAt place p
  { d with net := updFirst (fun f => f.place == place && f.pkt == p && !f.come) (fun f => { f with pkt := q, come := true }) d.net }

/-! ## Ingress (R165, R168) -/

/-- What makes a router drop a head flit at a port (R168). -/
def headBad (x port : Nat) (p : Packet) : Bool :=
  let t := pType p
  let sched := t == 0 || t == 1
  decide (1024 < pLen p) || decide (10 < t) || (pVn p != vnOf t) || (pClass p != boolNat sched) ||
  decide (768 ≤ pDstSite p) || Packet_get p 31 30 != 0 || Packet_get p 43 42 != 0 ||
  (t != tyFORWARD && pFwdType p != 0) ||
  (sched && (seamPort x port || p.hdr.toNat / 2 ^ 19 != 0 || pVn p != 0 || pMode p != 0))

/-- What ECC leaves of a packet (R165), by what it finds in the head flit and in each data flit: nothing where the head flit is lost,
POISON data where a data flit is. -/
def eccPacket (p : Packet) (head : Ecc) (body : List Ecc) : Option Packet :=
  if head = .uncorrectable then none
  else if body.contains .uncorrectable then some { p with marks := List.replicate p.data.length true }
  else some p

/-- Counts what ECC found at a port. -/
def Dev.countEcc (d : Dev) (b x port : Nat) (e : Ecc) : Dev :=
  match e with
  | .clean => d
  | .corrected => d.inc (r3 .PORT_ECC b x port) Fld.PORT_ECC_CORR
  | .uncorrectable => d.inc (r3 .PORT_ECC b x port) Fld.PORT_ECC_UNCORR

/-- Counts a packet sent on an output. -/
def Dev.countSent (d : Dev) (b x port : Nat) (p : Packet) : Dev :=
  let d := d.addPair (r3 .PORT_FLITS_LO b x port) (r3 .PORT_FLITS_HI b x port) (flits p)
  if pMode p = 1 then d.inc (r3 .PORT_ESC_PKTS b x port) Fld.PORT_ESC_PKTS_CNT else d

/-! ## Delivery (R178) -/

/-- The FORWARD packet that takes another's place. -/
def wrapForward (p : Packet) (site : Nat) : Packet :=
  pSet (pSet (pSet (pSet (pSet p 47 44 (pType p)) 3 0 tyFORWARD) 5 4 2) 28 19 site) 7 7 0

/-- The packet that a FORWARD carried. -/
def unwrapForward (p : Packet) : Packet :=
  if pType p = tyFORWARD then pSet (pSet (pSet p 3 0 (pFwdType p)) 5 4 (vnOf (pFwdType p))) 47 44 0 else p

/-- The packet that a vacated site sends on: wrapped, or with its new site where it is a FORWARD already. -/
def Dev.sendOn (d : Dev) (b x : Nat) (p : Packet) : Packet :=
  let site := d.getF (r2 .RTR_FWD b x) Fld.RTR_FWD_SITE
  if pType p = tyFORWARD then pSet p 28 19 site else wrapForward p site

/-- A packet has reached its site: to the tile, or where the site holds no logical tile forwarded, refused or dropped. A credit return stands
at its tile until the router absorbs it, at the beat edge at the latest (R293). -/
def Dev.deliverLocal (d : Dev) (b x : Nat) (p : Packet) : Dev :=
  if (d.tile b x).logical.isSome then (d.send (.tile b x) (unwrapForward p)).countSent b x 4 p
  else if d.flag (r2 .RTR_FWD b x) Fld.RTR_FWD_EN then
    let w := d.sendOn b x p
    d.injectAt b x w
  else
    let q := unwrapForward p
    if isReply q then d.inc (r2 .STRAY_REPLY b x) Fld.STRAY_REPLY_STRAY
    else if awaitsReply q then d.replyFrom b x q stDenied [] []
    else d.inc (r2 .RESET_DROP b x) Fld.RESET_DROP_DROP

/-- The output of a bounded packet at a router (R172). -/
def Dev.outputOf (d : Dev) (b x : Nat) (p : Packet) : Nat :=
  if pDstSite p = x then (if pDstPort p = 1 then 5 else 4)
  else if pMode p = 1 then Fld.ROUTE_TREE_PORT.get (d.routeEntry b x (pDstSite p))
  else dimPort x (pDstSite p)

def Dev.router (d : Dev) (b x : Nat) : RouterSt := d.routers.get (fun _ => {}) (b * 768 + x)
def RouterSt.cellsOf (r : RouterSt) (o : Nat) : List SchedCell := r.cells.get (fun _ => []) o

/-- SEL of an output (4: the sink) in a slot entry. -/
def selOf (w : W32) (o : Nat) : Nat := bitsOf w.toNat (4 * o + 2) (4 * o)

/-- Whether the schedule of a router runs at a beat (R185): from the first frame boundary at or after SCHED_START, until the boundary that
follows SCHED_EN 0. -/
def Dev.schedRuns (d : Dev) (b x t : Nat) : Bool :=
  let boundary := (d.beat / 128 + 1) * 128
  let start := d.pair (r2 .SCHED_START_LO b x) (r2 .SCHED_START_HI b x)
  let on := d.flag (r2 .RTR_CTRL b x) Fld.RTR_CTRL_SCHED_EN
  if d.flag (r2 .RTR_STATUS b x) Fld.RTR_STATUS_SCHED_ACTIVE then on && !(d.router b x).stopping || decide (t < boundary)
  else on && decide ((start + 127) / 128 * 128 ≤ t)

/-- Whether a bounded packet must not start on a mesh output: fewer than GUARD beats remain before the output's next reserved window
(R184), or a scheduled packet waits on a LATE output (R188). -/
def Dev.guarded (d : Dev) (b x o : Nat) : Bool :=
  let st := r2 .RTR_STATUS b x
  let opens (t : Nat) : Bool :=
    let w := d.rd (r3 .SCHED_SLOT b x (t / 2 % 64))
    t % 2 == 0 && Fld.SCHED_SLOT_CONT.get w == 0 && selOf w o != 0 && d.schedRuns b x t
  ((List.range (d.getF (r2 .RTR_CTRL b x) Fld.RTR_CTRL_GUARD)).any fun k => opens (d.beat + k)) ||
  (bitOf (d.getF st Fld.RTR_STATUS_LATE) o && !((d.router b x).cellsOf o).isEmpty)

/-! ## Turnstiles (R67-R71, R163, R170) -/

/-- Flits that stand in the Turnstile of a link into a stopped region: those of packets not yet taken from it. -/
def Dev.turnFlits (d : Dev) (b x port : Nat) : Nat :=
  sumNat ((d.net.filter fun f => f.place == .router b x port && !f.come).map fun f => flits f.pkt)

/-- Whether the Turnstile at a router's input takes the whole of a packet: while its reader's clock runs it empties as it fills; a stopped
reader leaves eight entries, and the writer stalls (R68). -/
def Dev.turnRoom (d : Dev) (b x port : Nat) (p : Packet) : Bool := d.siteRuns b x || decide (d.turnFlits b x port + flits p ≤ 8)

/-- Whether an output carries the flits of another packet, part of which a full Turnstile holds back. -/
def Dev.heldOff (d : Dev) (b x o : Nat) (p : Packet) : Bool :=
  match (d.router b x).stalled.get (fun _ => none) o with | some q => q != p | none => false

/-- The packet that a full Turnstile holds back on an output. -/
def Dev.setStalled (d : Dev) (b x o : Nat) (p : Option Packet) : Dev :=
  let r := d.router b x
  { d with routers := d.routers.set (fun _ => {}) (b * 768 + x) { r with stalled := r.stalled.set (fun _ => none) o p } }

/-! ## Choice among bounded packets (R183) -/

/-- Whether the port router's buffer for a tap and network takes a packet (R170); its size is that of a mesh input (DESIGN CHOICE, log 121). -/
def Dev.tapRoom (d : Dev) (b x : Nat) (p : Packet) : Bool :=
  let l := (d.bufferOf (.port b 32) (pVn p) (pMode p)).filter fun q => pDstSite q == x
  decide (sumNat (l.map flits) + flits p ≤ 18)

/-- Whether what a site does with a packet that has reached it finds room in the router's local input. -/
def Dev.sinkRoom (d : Dev) (b x : Nat) (p : Packet) : Bool :=
  if (d.tile b x).logical.isSome then true
  else if d.flag (r2 .RTR_FWD b x) Fld.RTR_FWD_EN then d.localRoom b x (d.sendOn b x p)
  else isReply (unwrapForward p) || !awaitsReply (unwrapForward p) || d.localRoom b x (mkReply (unwrapForward p) stDenied [] [])

/-- Whether a bounded packet holds the credits for its output: the next buffer has room for all of it (R169), and the Turnstile takes
it; a tap needs a bundle in service (R181). -/
def Dev.nextRoom (d : Dev) (b x : Nat) (p : Packet) : Bool :=
  match d.outputOf b x p with
  | 4 => d.sinkRoom b x p
  | 5 => !isTap x || (d.getF (r2 .TAP_STATUS b x) Fld.TAP_STATUS_IN_SERVICE != 0 && d.tapRoom b x p)
  | o =>
    match d.linked b x o with
    | some y => d.routerRoom b y (facing o) p
    | none => true

/-- The place of a network in the order VN1, VN2, VN3, VN0. -/
def vnOrder (vn : Nat) : Nat := nth [3, 0, 1, 2] vn 3

/-- Whether a router takes the head f before the head g at an output: first one that has waited AGE_MAX cycles, the oldest first; then
by network, the normal and the ESC buffer in turn. -/
def Dev.before (d : Dev) (b x o : Nat) (f g : Flight) : Bool :=
  let old (f : Flight) : Bool := decide (d.getF (r2 .RTR_CTRL b x) Fld.RTR_CTRL_AGE_MAX ≤ f.waited)
  let late (f : Flight) : Nat :=
    boolNat ((d.router b x).escNext.get (fun _ => false) (o * 4 + pVn f.pkt) != (pMode f.pkt == 1))
  if old f || old g then old f && (!old g || decide (g.waited < f.waited))
  else decide (2 * vnOrder (pVn f.pkt) + late f < 2 * vnOrder (pVn g.pkt) + late g)

/-- The head flits at a router's inputs that are ready for an output and hold their credits. -/
def Dev.ready (d : Dev) (b x o : Nat) : List Flight :=
  d.net.filter fun f => match f.place with
    | .router b' x' _ =>
      b' == b && x' == x && f.come && pClass f.pkt == 0 && d.outputOf b x f.pkt == o && d.isFront f.place f.pkt && d.nextRoom b x f.pkt
    | _ => false

/-- Whether a head flit has the output by R183. -/
def Dev.chosen (d : Dev) (b x port : Nat) (p : Packet) : Bool :=
  let o := d.outputOf b x p
  match d.net.find? fun f => f.place == .router b x port && f.pkt == p with
  | some f => !(d.ready b x o).any fun g => d.before b x o g f
  | none => true

/-- A packet has left by an output: counted, and its network's other buffer has the next turn. -/
def Dev.leftBy (d : Dev) (b x o : Nat) (p : Packet) : Dev :=
  let r := d.router b x
  let turn := r.escNext.set (fun _ => false) (o * 4 + pVn p) (pMode p == 0)
  Dev.countSent { d with routers := d.routers.set (fun _ => {}) (b * 768 + x) { r with escNext := turn } } b x o p

/-- A bounded packet moves one hop, once it holds its credits (R169), no scheduled window is near (R184) and the router chooses it (R183);
it stays where it stands otherwise. A link to a hole is absent (R173). -/
def Dev.routeOn (d : Dev) (b x port : Nat) (p : Packet) : Dev :=
  let here := Place.router b x port
  if !(d.nextRoom b x p && d.chosen b x port p) then d.standAt here p
  else match d.outputOf b x p with
    | 4 => (d.take here p).deliverLocal b x p
    | 5 => if isTap x then ((d.take here p).send (.port b 32) p).leftBy b x 5 p else d.take here p
    | o =>
      match d.linked b x o with
      | none => d.take here p
      | some y =>
        if d.guarded b x o || d.heldOff b x o p then d.standAt here p
        else if d.turnRoom b y (facing o) p then
          (((d.take here p).send (.router b y (facing o)) p).setStalled b x o none).leftBy b x o p
        else
          let d := d.standAt here p
          if d.turnFlits b y (facing o) < 8 then d.setStalled b x o (some p) else d

/-! ## Taps (R181, R182) -/

/-- The latest beats with an event, up to 16, within the last 100,000 beats. -/
def recent (l : List Nat) (beat : Nat) : List Nat := ((beat :: l).filter fun t => beat ≤ t + 100000).take 16

/-- A bundle's CRC fails: the flit is replayed (R181). -/
def execTapCrcError (b x bundle : Nat) (s : State) : Out :=
  onUnit (okSite b x && isTap x && decide (bundle < 5)) s fun d =>
    d.when (bitOf (d.getF (r2 .TAP_STATUS b x) Fld.TAP_STATUS_IN_SERVICE) bundle) fun d =>
      { (d.inc (r2 .TAP_CRC b x) Fld.TAP_CRC_CRC).inc (r2 .TAP_REPLAY b x) Fld.TAP_REPLAY_REPLAY with
        tapErrs := d.tapErrs.upd (fun _ => []) ((b * 768 + x) * 8 + bundle) fun l => recent l d.beat }

/-- Whether a tap has a bundle in service and its router is no hole. -/
def Dev.tapUsable (d : Dev) (b x : Nat) : Bool :=
  d.getF (r2 .TAP_STATUS b x) Fld.TAP_STATUS_IN_SERVICE != 0 && parentIn (d.parentWord b x)

/-- The tap that R182 gives a column and row of taps: its own, or the nearest usable in the same half, of either row, the lower column
on a tie. Distance is in mesh links, and of two taps in one column its own row's comes first (DEDUCED, log 122). -/
def Dev.chooseTap (d : Dev) (b row col : Nat) : Nat :=
  let gap (u v : Nat) : Nat := max u v - min u v
  let dist (x : Nat) : Nat := gap (x % 32) col + gap (x / 32) row
  let taps := (List.range 64).map (352 + ·)
  let ok := taps.filter fun x => x % 32 / 16 == col / 16 && d.tapUsable b x
  match sortBy (fun u v => decide (dist u < dist v) || (dist u == dist v && decide (u % 32 ≤ v % 32))) ok with
  | x :: _ => x
  | [] => row * 32 + col

/-- The row of taps that serves a site. -/
def tapRow (x : Nat) : Nat := if x / 32 < 12 then 11 else 12

/-- The Ringmaster gives the sites of a column their tap (R182). -/
def Dev.retap (d : Dev) (b row col : Nat) : Dev :=
  (List.range 12).foldl (fun d i =>
    let x := (if row = 11 then i else 12 + i) * 32 + col
    d.setF (r2 .RTR_TAP b x) Fld.RTR_TAP_TAP_SITE (d.chooseTap b row col)) d

/-- A bundle with 16 CRC errors in 100,000 beats is retired; a tap left with none has its column served elsewhere. -/
def execTapBundleRetire (b x bundle : Nat) (s : State) : Out :=
  onUnit (okSite b x && isTap x && decide (bundle < 5)) s fun d =>
    let r := r2 .TAP_STATUS b x
    let l := (d.tapErrs.get (fun _ => []) ((b * 768 + x) * 8 + bundle)).filter fun t => d.beat ≤ t + 100000
    d.when (decide (16 ≤ l.length) && bitOf (d.getF r Fld.TAP_STATUS_IN_SERVICE) bundle) fun d =>
      let d := d.setF r Fld.TAP_STATUS_IN_SERVICE (setBitNat (d.getF r Fld.TAP_STATUS_IN_SERVICE) bundle false)
      let d := (d.setF r Fld.TAP_STATUS_RETIRED_LIVE (setBitNat (d.getF r Fld.TAP_STATUS_RETIRED_LIVE) bundle true)).raise (140 + b)
      if d.tapUsable b x then d else d.retap b (x / 32) (x % 32)

/-! ## The route loader (R176) -/

/-- Whether the parents that a load would use lead every site in service to a root over neighbours in service. -/
def Dev.parentsValid (d : Dev) (b : Nat) : Bool :=
  let w (x : Nat) : W32 := d.rd (r2 .RT_PARENT b x)
  (List.range 768).all fun x =>
    !parentIn (w x) ||
    (let p := parentOf (w x)
     (p == x || ((portTowards x p).isSome && parentIn (w p))) &&
     (let top := (chainUp (fun y => parentOf (w y)) 768 x).getLastD x
      parentOf (w top) == top && parentIn (w top)))

/-- The entries of one barn in a map keyed by barn * span + index. -/
def clearBarn {α : Type} (m : Sparse α) (span b : Nat) : Sparse α := m.clear (b * span) span

/-- The tables of the barn's routers after a load: RT_PARENT and RT_MAP, and no entry written since. -/
def Dev.loadRoutes (d : Dev) (b : Nat) : Dev :=
  { d with
    routed := setBitNat d.routed b true
    parents := (List.range 768).foldl (fun m x => m.set (fun _ => 0) (b * 1024 + x) (d.rd (r2 .RT_PARENT b x))) d.parents
    maps := (List.range 704).foldl (fun m t => m.set (fun _ => 0) (b * 1024 + t) (d.rd (r2 .RT_MAP b t))) d.maps
    mapOver := clearBarn d.mapOver (768 * 1024) b
    routeOver := clearBarn d.routeOver (768 * 1024) b }

/-- Every router finishes its load: DONE, or NO_ROOT where the tree is none. -/
def Dev.loadDone (d : Dev) (b : Nat) : Dev :=
  let st := r1 .RT_STATUS b
  let d := (d.setF (r1 .RT_CTRL b) Fld.RT_CTRL_LOAD 0).setF st Fld.RT_STATUS_BUSY 0
  if d.parentsValid b then (d.loadRoutes b).setF st Fld.RT_STATUS_DONE 1 else d.setF st Fld.RT_STATUS_NO_ROOT 1

def execRouteLoadDone (b : Nat) (s : State) : Out :=
  onUnit (decide (b < 8)) s fun d =>
    d.when (d.flag (r1 .RT_STATUS b) Fld.RT_STATUS_BUSY) fun d => d.loadDone b

end Sys2Proof.Machine
end

