-- ==== Sys2Proof/Machine/Shape.lean ====
section
/-! DEFINITION. The shape table and the service level (R31-R34, R393, R416), and how barns and regions leave service. -/

namespace Sys2Proof.Machine

/-! ## The act's service header (Table 09-1) -/

/-- n bytes of the service header of the act that runs, at an offset; 0 where no act runs. -/
def Dev.hdrField (d : Dev) (off n : Nat) : Nat :=
  match d.act with
  | some a => if a.running then fieldLE a.header off n else 0
  | none => 0

/-- Whether an act runs. -/
def Dev.actRuns (d : Dev) : Bool := match d.act with | some a => a.running | none => false

/-- The operating points of the act (Table 12-11). -/
def Act.oppSet (a : Act) : Nat := fieldLE a.image 12 4 % 256

/-- The service tiles, as (barn, logical tile), the lead first. -/
def Dev.serviceTiles (d : Dev) : List (Nat × Nat) :=
  (List.range (d.hdrField 0x4C 4)).map fun i =>
    let w := d.hdrField (0x200 + 4 * i) 4
    (bitsOf w 12 10, w % 1024)

/-- The site that holds a logical tile. -/
def Dev.siteOf (d : Dev) (b t : Nat) : Option Nat := (List.range 768).find? fun x => (d.tile b x).logical == some t

/-- The sites of the service tiles in service. -/
def Dev.serviceSites (d : Dev) : List (Nat × Nat) :=
  d.serviceTiles.filterMap fun p => if bitOf d.barnsIn p.1 then (d.siteOf p.1 p.2).map fun x => (p.1, x) else none

/-! ## Service level (R383, R393, R416) -/

def Dev.phase (d : Dev) : Nat := d.getF (r0 .TACK_STATUS) Fld.TACK_STATUS_START_PHASE
def Dev.level (d : Dev) : Nat := d.getF (r0 .RM_STATUS) Fld.RM_STATUS_SERVICE_LEVEL
def Dev.setLevel (d : Dev) (n : Nat) : Dev := d.setF (r0 .RM_STATUS) Fld.RM_STATUS_SERVICE_LEVEL n

/-- Whether a Ringmaster holds ACTIVE. -/
def Dev.hasMaster (d : Dev) : Bool := d.getF (r0 .RM_STATUS) Fld.RM_STATUS_ACTIVE != 0

/-- Whether a stack is in service. -/
def Dev.stackIn (d : Dev) (n : Nat) : Bool :=
  d.flag (r1 .HBM_STATUS n) Fld.HBM_STATUS_TRAINED && !d.flag (r1 .HBM_STATUS n) Fld.HBM_STATUS_RETIRED

/-- A mask of the first n units that meet a predicate. -/
def maskOf (n : Nat) (p : Nat → Bool) : Nat := sumNat ((List.range n).map fun i => boolNat (p i) * 2 ^ i)

/-- HBM_STACKS of the shape table. -/
def Dev.stacksIn (d : Dev) : Nat := maskOf 20 d.stackIn

/-- Whether a module reports READY. -/
def Dev.moduleReady (d : Dev) (k : Nat) : Bool := d.flag (r1 .MOD_STATUS k) Fld.MOD_STATUS_READY

/-- Whether a waveguide's pair is declared failed (R240). -/
def Dev.wgFailed (d : Dev) (wg : Nat) : Bool := d.flag (r1 .WG_STATUS wg) Fld.WG_STATUS_FAILED

/-- The conditions of R393 and R416 for level 3, and that no VBASE, VPHOT or VAUX rail has had a fault: Table 13-1 gives level 4 after
one (R3, R415), R416 does not list it; the model takes both (DESIGN CHOICE, log 119). -/
def Dev.fullService (d : Dev) : Bool :=
  !d.pwr.baseFault &&
  d.barnsIn == 255 && d.stacksIn == 0xFFFFF && (List.range 8).all d.moduleReady && !(List.range 502).any d.wgFailed &&
  d.getF (r0 .RM_STATUS) Fld.RM_STATUS_A_STATE != 3 && d.getF (r0 .RM_STATUS) Fld.RM_STATUS_B_STATE != 3

/-- The service level of phase 6: 1 after a package trip, else 3 or 4 (R416). -/
def Dev.levelNow (d : Dev) : Nat :=
  if d.phase ≠ 6 then d.level
  else if d.flag (r0 .PWR_STATUS) Fld.PWR_STATUS_PKG_TRIP then 1
  else if d.fullService then 3 else 4

/-! ## The shape table (Table 01-7) -/

/-- Whether a yard link is up. -/
def Dev.ylinkUp (d : Dev) (l : Nat) : Bool := d.getF (r1 .YLINK_STATUS l) Fld.YLINK_STATUS_STATE == 2

/-- PEER[m]: the package's own figures for its own member number, what its HEARTBEATs reported for another. -/
def Dev.peerFields (d : Dev) (m : Nat) : List (Nat × Nat × Nat) :=
  let v := if m = d.self then (d.barnsIn, d.stacksIn, d.levelNow) else d.peerShape.get (fun _ => (0, 0, 0)) m
  [(0x100 + 16 * m, 4, v.1), (0x104 + 16 * m, 4, v.2.1), (0x108 + 16 * m, 4, v.2.2)]

/-- The fields of the shape table as (offset, bytes, value). -/
def Dev.shapeFields (d : Dev) : List (Nat × Nat × Nat) :=
  [(0x000, 4, 1), (0x004, 4, d.generation), (0x008, 8, d.beat), (0x010, 4, d.self),
   (0x014, 4, d.getF (r0 .YARD_STATUS) Fld.YARD_STATUS_MEMBERS), (0x018, 4, d.levelNow), (0x01C, 4, d.barnsIn),
   (0x020, 4, 704), (0x024, 4, 2097152), (0x028, 4, 16777216), (0x02C, 4, d.stacksIn), (0x030, 8, stackBytes),
   (0x038, 8, d.windowBytes), (0x040, 4, d.windowStacks.length), (0x044, 4, 4096), (0x048, 4, 4194304), (0x04C, 4, 64),
   (0x050, 4, maskOf 32 d.ylinkUp), (0x054, 4, maskOf 4 fun p => d.flag (r1 .ETH_STATUS p) Fld.ETH_STATUS_LINK_UP),
   (0x058, 4, maskOf 8 d.moduleReady)] ++ (List.range 16).flatMap d.peerFields

/-- The shape table written into a site's SRAM (R31): offsets that the table does not list read as zero. -/
def Dev.writeShape (d : Dev) (b x : Nat) : Dev :=
  let base := localBase b x + 0x1FF000
  d.shapeFields.foldl (fun a f => a.write (base + f.1) (bytesLE f.2.2 f.2.1)) (d.zero base 0x1000)

/-- Posts a tile event (R121). -/
def Dev.postEvent (d : Dev) (b x n : Nat) : Dev :=
  d.updTile b x fun t => { t with evtPending := Nat.lor t.evtPending (2 ^ n) }

/-- GENERATION becomes odd in the service tiles of the act that runs: a new generation is being written (R32). -/
def Dev.openShape (d : Dev) : Dev :=
  d.when d.actRuns fun d =>
    let g := d.generation / 2 * 2 + 1
    d.serviceSites.foldl (fun d p => d.write (localBase p.1 p.2 + 0x1FF004) (bytesLE g 4)) { d with generation := g }

/-- The other fields are written, then GENERATION becomes the next even value, and SHAPE is posted to each service tile (R32, R34). -/
def Dev.closeShape (d : Dev) : Dev :=
  d.when d.actRuns fun d =>
    let d := { d with generation := (d.generation / 2 + 1) * 2 }
    d.serviceSites.foldl (fun d p => (d.writeShape p.1 p.2).postEvent p.1 p.2 0) d

/-- The Ringmaster sets the service level as it now stands (R416), and while an act runs writes the next generation: odd, then even
(R32). An act starts at generation 2 (START_ACT). -/
def Dev.newShape (d : Dev) : Dev := d.when d.hasMaster fun d => ((d.setLevel d.levelNow).openShape).closeShape

/-- The Ringmaster recomputes the level; a change is a new generation (R416). -/
def Dev.relevel (d : Dev) : Dev := if d.levelNow = d.level then d else d.newShape

def execShapeGeneration (s : State) : Out := onUnit true s Dev.newShape

/-! ## Leaving service -/

/-- GATE set or cleared at a region, to take effect at the next beat edge (R74). -/
def Dev.gateRegion (d : Dev) (r : Nat) (on : Bool) : Dev :=
  (d.setF (r1 .REGION_CLK_CTRL r) Fld.REGION_CLK_CTRL_GATE (boolNat on)).updRegion r fun g => { g with gatePend := some on }

/-- GATE in all eight regions of a barn. -/
def Dev.gateBarn (d : Dev) (b : Nat) (on : Bool) : Dev := (List.range 8).foldl (fun d i => d.gateRegion (8 * b + i) on) d

/-- Takes a barn out of the shape table. -/
def Dev.barnLeaves (d : Dev) (b : Nat) : Dev :=
  if bitOf d.barnsIn b then Dev.newShape { d with barnsIn := setBitNat d.barnsIn b false } else d

/-- Bars a barn until the next start. -/
def Dev.bar (d : Dev) (b : Nat) : Dev := { d with barred := setBitNat d.barred b true }

/-- A barn's rails go to zero (R390, R438): VLOFT's enable goes low at once, the VCORE enables 1,000 beats later (R469). -/
def Dev.powerOff (d : Dev) (b : Nat) : Dev :=
  let off := d.beat + 1000
  let d := { d with vloftEn := setBitNat d.vloftEn b false }
  let half (d : Dev) (h : Nat) : Dev :=
    (d.updHalf h fun v => { v with offAt := some off }).setF (r1 .HALF_STATUS h) Fld.HALF_STATUS_VOLT_OK 0
  [2 * b, 2 * b + 1, 16 + b].foldl (fun d r => d.setF (r1 .RAIL_STATUS r) Fld.RAIL_STATUS_TARGET 0) (half (half d (2 * b)) (2 * b + 1))

/-- The Ringmaster takes a barn out of service with its clock regions gated, until the next start (R56, R438, R441). -/
def Dev.barnOut (d : Dev) (b : Nat) : Dev := ((d.barnLeaves b).gateBarn b true).bar b

end Sys2Proof.Machine
end

