-- ==== Sys2Proof/Machine/Member.lean ====
section
/-! DEFINITION. The yard as the package sees it: links to each member, the choice of a link, relays, the messages of Table 08-1, and
the step from JOINING to SYNCED (R266-R271, R292). -/

namespace Sys2Proof.Machine

def Dev.ylink (d : Dev) (l : Nat) : YLinkSt := d.yard.links.get (fun _ => {}) l

def Dev.updYlink (d : Dev) (l : Nat) (f : YLinkSt → YLinkSt) : Dev :=
  let y := d.yard
  { d with yard := { y with links := y.links.upd (fun _ => {}) l f } }

/-- What the package sends outside. -/
def Dev.emit (d : Dev) (m : Sent) : Dev := { d with sent := d.sent ++ [m] }

/-- A control message waits for the next control flit of a yard link (R262). -/
def Dev.sendYard (d : Dev) (l : Nat) (msg : W128) : Dev := d.updYlink l fun k => { k with ctl := k.ctl ++ [msg] }

/-- Bits [hi:lo] of a message. -/
def msgBits (m : W128) (hi lo : Nat) : Nat := bitsOf m.toNat hi lo

/-- A message from (lowest bit, value) pairs. -/
def mkMsg (fs : List (Nat × Nat)) : W128 := BitVec.ofNat 128 (sumNat (fs.map fun f => f.2 * 2 ^ f.1))

/-! ## State and links -/

/-- YARD_STATUS.STATE: 0 alone, 1 JOINING, 2 SYNCED, 3 MEMBER. -/
def Dev.yardState (d : Dev) : Nat := d.getF (r0 .YARD_STATUS) Fld.YARD_STATUS_STATE
def Dev.setYardState (d : Dev) (n : Nat) : Dev := d.setF (r0 .YARD_STATUS) Fld.YARD_STATUS_STATE n
def Dev.members (d : Dev) : Nat := d.getF (r0 .YARD_STATUS) Fld.YARD_STATUS_MEMBERS
def Dev.setMember (d : Dev) (m : Nat) (v : Bool) : Dev :=
  d.setF (r0 .YARD_STATUS) Fld.YARD_STATUS_MEMBERS (setBitNat d.members m v)

/-- L(m): the links up to member m, in ascending order (R267). -/
def Dev.linksTo (d : Dev) (m : Nat) : List Nat :=
  (List.range 32).filter fun l => d.ylinkUp l && d.getF (r1 .YLINK_STATUS l) Fld.YLINK_STATUS_PEER_MEMBER == m

/-- LINKS_TO of the package's own HEARTBEAT (R271). -/
def Dev.linksMask (d : Dev) : Nat := maskOf 16 fun m => !(d.linksTo m).isEmpty

/-- LINKS_TO of a member's last HEARTBEAT. -/
def Dev.peerLinks (d : Dev) (m : Nat) : Nat := d.getF (r1 .PEER_STATUS m) Fld.PEER_STATUS_LINKS_TO

/-- The links that packets to a member use: those in use until a move of flows has drained (R268). -/
def Dev.flowLinks (d : Dev) (m : Nat) : List Nat := d.yard.inUse.get (fun _ => []) m

/-- The relay towards a member (R292): a member itself. -/
def Dev.relayFor (d : Dev) (m : Nat) : Option Nat :=
  (List.range 16).find? fun r => r != d.self && r != m && bitOf d.members r && bitOf (d.peerLinks r) m && !(d.linksTo r).isEmpty

/-- Whether traffic to a member goes by relay. -/
def Dev.relayed (d : Dev) (m : Nat) : Bool := (d.linksTo m).isEmpty && (d.relayFor m).isSome

/-- The link of a list that R267 gives for a source and a target. -/
def pickLink (ls : List Nat) (srcBarn srcTile target : Nat) : Option Nat :=
  if ls.isEmpty then none else ls[(srcBarn * 704 + srcTile + target) % ls.length]?

/-! ## Messages (Table 08-1) -/

/-- The bits that Table 08-1 names for a message type, as (high, low); none for a type that it does not list. -/
def msgNamed (ty : Nat) : Option (List (Nat × Nat)) :=
  [[], [(19, 8)], [(19, 8)], [(9, 8), (23, 12)], [(15, 8), (23, 16), (35, 24)], [(15, 8)], [(15, 8)],
   [(39, 8), (43, 40), (48, 44), (50, 49), (55, 51), (99, 56), (127, 100)],
   [(11, 8), (19, 12), (39, 20), (42, 40), (43, 43), (59, 44), (127, 64)],
   [(11, 8), (55, 12)], [(11, 8)], [(11, 8), (16, 12), (127, 64)], [(11, 8), (19, 12)], [(11, 8), (19, 12)]][ty]?

/-- Whether a message is of a listed type with no other bit set (R262). -/
def msgGood (m : W128) : Bool :=
  match msgNamed (msgBits m 7 0) with
  | none => false
  | some fs => mkMsg ((0, msgBits m 7 0) :: fs.map fun f => (f.2, msgBits m f.1 f.2)) == m

/-- NEXT_SYNC: the beat of the next BEAT_SYNC pulse divided by 2^20 (R270). -/
def Dev.nextSync (d : Dev) : Nat := (d.beat / 2 ^ 20 + 1) % 2 ^ 44

/-- The IDENT of the package on a link (R270). -/
def Dev.identMsg (d : Dev) (l : Nat) : W128 :=
  mkMsg [(0, 7), (8, (d.rd (r0 .YARD_ID)).toNat), (40, d.self), (44, l), (49, d.yardState - 1), (51, popCount d.members 16),
    (56, d.nextSync), (100, (d.rd (r1 .TACK_ID 0)).toNat % 2 ^ 28)]

/-- The HEARTBEAT of the package (R271). -/
def Dev.heartMsg (d : Dev) : W128 :=
  mkMsg [(0, 8), (8, d.self), (12, d.barnsIn), (20, d.stacksIn), (40, d.levelNow), (43, boolNat d.inHoldover), (44, d.linksMask),
    (64, d.beat)]

/-- Sends a message on one link to a member, if one is up. -/
def Dev.tellMember (d : Dev) (m : Nat) (msg : W128) : Dev :=
  match (d.linksTo m).head? with
  | some l => d.sendYard l msg
  | none => d

/-- The peers with a link up. -/
def Dev.peersUp (d : Dev) : List Nat := (List.range 16).filter fun m => m != d.self && !(d.linksTo m).isEmpty

/-! ## Joining (Table 08-5) -/

/-- The first multiple of 2^20 at least 2^20 beats from now on. -/
def Dev.joinBeat (d : Dev) : Nat := (d.beat + 2 ^ 21 - 1) / 2 ^ 20 * 2 ^ 20

/-- Steps 3 and 4: once the counter is aligned, a JOINING package is SYNCED and sends JOIN to every peer. -/
def Dev.joinSynced (d : Dev) : Dev :=
  if d.yardState = 1 ∧ d.flag (r0 .BEAT_STATUS) Fld.BEAT_STATUS_SYNC_LOCKED then
    let y := d.yard
    let jb := d.joinBeat
    let d := { d.setYardState 2 with yard := { y with joins := y.joins.set (fun _ => none) d.self (some jb) } }
    d.peersUp.foldl (fun d m => d.tellMember m (mkMsg [(0, 9), (8, d.self), (12, jb / 2 ^ 20)])) d
  else d

/-- Arms the load of the next pulse with a beat (step 2). -/
def Dev.armLoad (d : Dev) (beat : Nat) : Dev :=
  (d.setPair (r0 .BEAT_LOAD_LO) (r0 .BEAT_LOAD_HI) (beat / 2 ^ 20 * 2 ^ 20)).setF (r0 .BEAT_CTRL) Fld.BEAT_CTRL_LOAD_ARM 1

end Sys2Proof.Machine
end

