-- ==== Sys2Proof/Machine/Sched.lean ====
section
/-! DEFINITION. The scheduled class and systolic lanes (R185-R194): slots, flows, sinks, ADD stages, slips; and the ingress of
every packet at a router. -/

namespace Sys2Proof.Machine

def Dev.setRouter (d : Dev) (b x : Nat) (r : RouterSt) : Dev := { d with routers := d.routers.set (fun _ => {}) (b * 768 + x) r }
def Dev.updRouter (d : Dev) (b x : Nat) (f : RouterSt → RouterSt) : Dev := d.setRouter b x (f (d.router b x))

def RouterSt.setCells (r : RouterSt) (o : Nat) (l : List SchedCell) : RouterSt := { r with cells := r.cells.set (fun _ => []) o l }
def RouterSt.inOf (r : RouterSt) (i : Nat) : List Packet := r.inbuf.get (fun _ => []) i
def RouterSt.setIn (r : RouterSt) (i : Nat) (l : List Packet) : RouterSt := { r with inbuf := r.inbuf.set (fun _ => []) i l }

/-- The outputs that a slot can use: the mesh outputs and the sink (4). -/
def outs : List Nat := [0, 1, 2, 3, 4]

/-! ## Flows and sinks (R186, R191, R194) -/

/-- A pointer after a packet of len bytes in a ring: it returns to zero when it reaches the end; ring 0 does not move it. -/
def ringNext (ptr len ring : Nat) : Nat := if ring = 0 then ptr else if ring ≤ ptr + len then 0 else ptr + len

/-- Whether a flow in use is ready (R186). -/
def Dev.flowReady (d : Dev) (b x f : Nat) : Bool :=
  let ac := r3 .FLOW_AC b x f
  let c := (d.tile b x).acOf (d.getF ac Fld.FLOW_AC_AC) - d.rd (r3 .FLOW_TARGET b x f)
  d.flag ac Fld.FLOW_AC_ENABLE &&
    (!d.flag ac Fld.FLOW_AC_READY_EN || d.getF (r3 .FLOW_LEN b x f) Fld.FLOW_LEN_LEN == 0 || decide (0 ≤ c.toInt))

/-- The next packet of a flow in tile SRAM: its bytes and their marks. -/
def Dev.flowData (d : Dev) (b x f : Nat) : List Byte × List Bool :=
  let a := d.getF (r3 .FLOW_SRC b x f) Fld.FLOW_SRC_SRC + d.getF (r3 .FLOW_PTR b x f) Fld.FLOW_PTR_PTR
  let n := d.getF (r3 .FLOW_LEN b x f) Fld.FLOW_LEN_LEN
  (d.readBytes (localBase b x + a) n, d.marksOf (localBase b x + a) n)

/-- A flow after one packet sent or added: SENT, PTR and TARGET advance. -/
def Dev.flowAdvance (d : Dev) (b x f : Nat) : Dev :=
  let n := d.getF (r3 .FLOW_LEN b x f) Fld.FLOW_LEN_LEN
  let p := ringNext (d.getF (r3 .FLOW_PTR b x f) Fld.FLOW_PTR_PTR) n (d.getF (r3 .FLOW_RING b x f) Fld.FLOW_RING_RING)
  ((d.inc (r3 .FLOW_SENT b x f) Fld.FLOW_SENT_SENT).setF (r3 .FLOW_PTR b x f) Fld.FLOW_PTR_PTR p).addF
    (r3 .FLOW_TARGET b x f) Fld.FLOW_TARGET_TARGET n

/-- A scheduled packet: TYPE 0 with data, TYPE 1 SCHED_NULL; every other header field but CLASS and LEN is zero (R166). -/
def schedPacket (null : Bool) (data : List Byte) (marks : List Bool) : Packet :=
  { hdr := BitVec.ofNat 256 (boolNat null + 2 ^ 6 + data.length * 2 ^ 8), data := data, marks := marks }

def isNull (p : Packet) : Bool := pType p == 1

/-- What the local port injects for a flow: its data, or SCHED_NULL where it is not ready or not in use (R186). -/
def Dev.inject (d : Dev) (b x f : Nat) : Packet × Dev :=
  if d.flowReady b x f then
    let (bs, ms) := d.flowData b x f
    (schedPacket false bs ms, d.flowAdvance b x f)
  else (schedPacket true [] [], d.inc (r3 .FLOW_SKIP b x f) Fld.FLOW_SKIP_SKIP)

/-- A packet at the sink (R194). -/
def Dev.sinkTake (d : Dev) (b x k : Nat) (p : Packet) : Dev :=
  let c := r3 .SINK_CTR b x k
  if isNull p then d
  else if !d.flag c Fld.SINK_CTR_ENABLE then d.inc (r3 .SINK_DROP b x k) Fld.SINK_DROP_SINK_DROP
  else if p.data.length ≠ d.getF (r3 .SINK_LEN b x k) Fld.SINK_LEN_LEN then
    (d.inc (r3 .SINK_DROP b x k) Fld.SINK_DROP_SINK_DROP).inc (r2 .RTR_ERR b x) Fld.RTR_ERR_LANE_MISMATCH
  else
    let ptr := d.getF (r3 .SINK_PTR b x k) Fld.SINK_PTR_PTR
    let n := p.data.length
    let d := d.writeMarked (localBase b x + d.getF (r3 .SINK_DST b x k) Fld.SINK_DST_DST + ptr) p.data p.marks
    let d := d.updTile b x fun t =>
      if d.flag c Fld.SINK_CTR_ACT_EN then t.addAc (d.getF c Fld.SINK_CTR_ACTR) (BitVec.ofNat 32 n) else t
    (d.inc (r3 .SINK_RECV b x k) Fld.SINK_RECV_RECV).setF (r3 .SINK_PTR b x k) Fld.SINK_PTR_PTR
      (ringNext ptr n (d.getF (r3 .SINK_RING b x k) Fld.SINK_RING_RING))

/-! ## ADD stages (R191-R193) -/

/-- What an ADD stage does with a packet: pass it, add the flow's data, or hold it. -/
inductive AddStep where
  | pass | mismatch | add | hold
  deriving DecidableEq, Repr

def Dev.addStep (d : Dev) (b x f : Nat) (p : Packet) : AddStep :=
  if isNull p then .pass
  else if p.data.length ≠ d.getF (r3 .FLOW_LEN b x f) Fld.FLOW_LEN_LEN then .mismatch
  else if d.flowReady b x f then .add else .hold

/-- The sum of a packet and the flow's next packet; marks of either stay. -/
def Dev.addFlow (d : Dev) (b x f : Nat) (p : Packet) : Packet :=
  let (bs, ms) := d.flowData b x f
  let marks := if p.marks.isEmpty then ms else if ms.isEmpty then p.marks else List.zipWith (· || ·) p.marks ms
  { p with data := laneAdd (d.getF (r3 .FLOW_LEN b x f) Fld.FLOW_LEN_FMT == 1) p.data bs, marks := marks }

/-- The cells of one slot and input that still await the sum take it. -/
def settleCells (slot inp : Nat) (p : Packet) (l : List SchedCell) : List SchedCell :=
  l.map fun c => if c.slot = slot ∧ c.inp = inp ∧ c.add then { c with pkt := some p, add := false } else c

def RouterSt.settle (r : RouterSt) (slot inp : Nat) (p : Packet) : RouterSt :=
  outs.foldl (fun r o => r.setCells o (settleCells slot inp p (r.cellsOf o))) r

/-- The ADD stage of a cell whose packet has come: passed or added, it awaits nothing more; held, it waits. -/
def Dev.stageCell (d : Dev) (b x : Nat) (c : SchedCell) (p : Packet) : Dev :=
  match d.addStep b x c.flow p with
  | .hold => d
  | .pass => d.updRouter b x fun r => r.settle c.slot c.inp p
  | .mismatch =>
    ((d.inc (r2 .RTR_ERR b x) Fld.RTR_ERR_LANE_MISMATCH).raise (156 + b)).updRouter b x fun r => r.settle c.slot c.inp p
  | .add => (d.flowAdvance b x c.flow).updRouter b x fun r => r.settle c.slot c.inp (d.addFlow b x c.flow p)

/-! ## Outputs (R187-R189) -/

/-- Scheduled flits held at an input: packets whose slot has not begun, and packets whose copies have not all left. -/
def RouterSt.schedFlits (r : RouterSt) (i : Nat) : Nat :=
  let waiting := (r.inOf i).map flits
  let cells := (outs.flatMap fun o => r.cellsOf o).filter fun c => c.inp == i && c.pkt.isSome
  let slots := (cells.map (·.slot)).eraseDups
  sumNat (waiting ++ slots.map fun s => (((cells.find? (·.slot == s)).bind (·.pkt)).map flits).getD 0)

/-- Gives a packet that has come to the earliest slot that awaits its input; else it waits in the input buffer. -/
def RouterSt.arrive (r : RouterSt) (i : Nat) (p : Packet) : RouterSt :=
  let open_ := ((outs.flatMap fun o => r.cellsOf o).filter fun c => c.inp == i && c.pkt.isNone).map (·.slot)
  match sortBy (fun u v => decide (u ≤ v)) open_ with
  | [] => r.setIn i (r.inOf i ++ [p])
  | s :: _ =>
    outs.foldl (fun r o => r.setCells o ((r.cellsOf o).map fun c =>
      if c.slot = s ∧ c.inp = i then { c with pkt := some p } else c)) r

/-- Scheduled flits that hold the credits of an input: those in its buffer, and those on the way to it. -/
def Dev.schedUsed (d : Dev) (b x i : Nat) : Nat :=
  (d.router b x).schedFlits i +
    sumNat ((d.net.filter fun f => f.place == .router b x i && pClass f.pkt == 1).map fun f => flits f.pkt)

/-- Whether an earlier packet of the same input still waits for an output (R171). -/
def RouterSt.behind (r : RouterSt) (c : SchedCell) : Bool :=
  (outs.flatMap fun o => r.cellsOf o).any fun e => e.inp == c.inp && decide (e.slot < c.slot)

/-- The first cell of an output leaves, if its packet has come and is the first of its input, its ADD is done and the next buffer has room:
the sites whose state this changes. On a link it goes to the next router's input, whose ingress takes it. -/
def Dev.pumpOut (d : Dev) (b x o : Nat) : Dev × List Nat :=
  match (d.router b x).cellsOf o with
  | [] => (d, [])
  | c :: rest =>
    if !d.siteRuns b x || (d.router b x).behind c then (d, []) else
    match c.pkt with
    | none => (d, [])
    | some p =>
      let d := if c.add then d.stageCell b x c p else d
      match (d.router b x).cellsOf o with
      | { pkt := some q, add := false, .. } :: rest' =>
        let gone := d.updRouter b x fun r => r.setCells o (if c.add then rest' else rest)
        let back := match neighbour x c.inp with | some y => if c.inp < 4 then [x, y] else [x] | none => [x]
        if o = 4 then (gone.sinkTake b x c.sink q, back)
        else
          match d.linked b x o with
          | none => (gone, back)
          | some y =>
            if decide (d.schedUsed b y (facing o) + flits q ≤ 9) && d.turnRoom b y (facing o) q && !d.heldOff b x o q then
              let d := (gone.countSent b x o q).addF (r3 .PORT_SCHED_FLITS b x o) Fld.PORT_SCHED_FLITS_CNT (flits q)
              (d.send (.router b y (facing o)) q, back)
            else (d, [])
      | _ => (d, [])

/-- Lets scheduled packets move at a list of sites and on from there, as often as fuel allows. -/
def Dev.pump : Nat → Nat → List Nat → Dev → Dev
  | 0, _, _, d => d
  | _, _, [], d => d
  | fuel + 1, b, x :: rest, d =>
    let r := outs.foldl (fun acc o => let n := Dev.pumpOut acc.1 b x o; (n.1, acc.2 ++ n.2)) (d, ([] : List Nat))
    Dev.pump fuel b (rest ++ r.2.eraseDups) r.1

/-- The bound on moves that one event sets off. -/
def pumpFuel : Nat := 4096

/-! ## Slots (R185, R188) -/

/-- ADD of an output (4: the sink) in a slot entry. -/
def addOf (w : W32) (o : Nat) : Bool := bitOf w.toNat (4 * o + 3)

/-- A slot takes an output: a slip where an earlier packet has not passed, which sets LATE (R188). -/
def Dev.openCell (d : Dev) (b x o : Nat) (c : SchedCell) : Dev :=
  let r := d.router b x
  let busy := !(r.cellsOf o).isEmpty
  let d := d.setRouter b x (r.setCells o (r.cellsOf o ++ [c]))
  if busy && o < 4 then
    let st := r2 .RTR_STATUS b x
    (d.inc (r3 .PORT_SLIP b x o) Fld.PORT_SLIP_CNT).setF st Fld.RTR_STATUS_LATE
      (setBitNat (d.getF st Fld.RTR_STATUS_LATE) o true)
  else d

/-- The packets that came before the slot began are taken by its cells. -/
def RouterSt.takeWaiting (r : RouterSt) : RouterSt :=
  [0, 1, 2, 3].foldl (fun r i =>
    match r.inOf i with
    | [] => r
    | p :: t =>
      if ((outs.flatMap fun o => r.cellsOf o).any fun c => c.inp == i && c.pkt.isNone) then (r.setIn i t).arrive i p else r) r

/-- A slot begins: the router sets its crossbar by the entry, injecting where the local port is selected (R185, R186). -/
def Dev.beginSlot (d : Dev) (b x n : Nat) : Dev :=
  let w := d.rd (r3 .SCHED_SLOT b x (n % 64))
  let d := d.updRouter b x fun r => { r with nextSlot := n + 1 }
  if Fld.SCHED_SLOT_CONT.get w = 1 then d
  else
    let flow := Fld.SCHED_SLOT_FLOW.get w
    let local_ := outs.any fun o => selOf w o == 5
    let (p, d) := if local_ then d.inject b x flow else (schedPacket true [] [], d)
    let d := outs.foldl (fun d o =>
      if selOf w o = 0 then d
      else d.openCell b x o ⟨n, selOf w o - 1, addOf w o, flow, Fld.SCHED_SLOT_SINK.get w,
        if selOf w o = 5 then some p else none⟩) d
    (d.updRouter b x RouterSt.takeWaiting).pump pumpFuel b [x]

/-- A slot begins at its beat by the site's copy, once, while the schedule runs (R45, R185); a hole has no schedule (R173). -/
def execSchedSlot (b x : Nat) (s : State) : Out :=
  onUnit (okSite b x) s fun d =>
    let t := d.siteBeat b x
    d.when (d.siteRuns b x && !d.hole b x && d.flag (r2 .RTR_STATUS b x) Fld.RTR_STATUS_SCHED_ACTIVE && t % 2 == 0 &&
      decide ((d.router b x).nextSlot ≤ t / 2)) fun d => d.beginSlot b x (t / 2)

/-- The schedule begins at the first frame boundary at or after SCHED_START. -/
def execSchedStart (b x : Nat) (s : State) : Out :=
  onUnit (okSite b x) s fun d =>
    let st := r2 .RTR_STATUS b x
    let t := d.siteBeat b x
    d.when (d.siteRuns b x && d.flag (r2 .RTR_CTRL b x) Fld.RTR_CTRL_SCHED_EN && !d.flag st Fld.RTR_STATUS_SCHED_ACTIVE &&
      t % 128 == 0 && decide (d.pair (r2 .SCHED_START_LO b x) (r2 .SCHED_START_HI b x) ≤ t)) fun d =>
        d.setF st Fld.RTR_STATUS_SCHED_ACTIVE 1

/-- The late outputs are counted; a schedule that is switched off ends. -/
def Dev.endFrame (d : Dev) (b x : Nat) : Dev :=
  let st := r2 .RTR_STATUS b x
  let late := d.getF st Fld.RTR_STATUS_LATE
  let d := [0, 1, 2, 3].foldl (fun d o =>
    if bitOf late o then d.inc (r3 .PORT_LATE_FRAMES b x o) Fld.PORT_LATE_FRAMES_CNT else d) d
  let d := d.setF st Fld.RTR_STATUS_LATE 0
  let go := d.flag (r2 .RTR_CTRL b x) Fld.RTR_CTRL_SCHED_EN && !(d.router b x).stopping
  let d := d.updRouter b x fun r => { r with stopping := false }
  if go then d else d.setF st Fld.RTR_STATUS_SCHED_ACTIVE 0

/-- A frame boundary: each LATE output counts a late frame, LATE clears, and a schedule switched off stops (R185, R188). -/
def execFrameBoundary (b x : Nat) (s : State) : Out :=
  onUnit (okSite b x) s fun d =>
    d.when (d.siteRuns b x && d.siteBeat b x % 128 == 0) fun d => d.endFrame b x

/-- An ADD stage that holds a packet finds its flow ready (R193). -/
def execAddStageResume (b x out : Nat) (s : State) : Out :=
  onUnit (okSite b x && decide (out < 5)) s fun d =>
    d.when (d.siteRuns b x) fun d => d.pump pumpFuel b [x]

/-! ## Ingress -/

/-- A packet that a router's input holds goes on, if it is the first of its buffer (R171). -/
def Dev.goOn (d : Dev) (b x port : Nat) (p : Packet) : Dev :=
  if d.isFront (.router b x port) p then d.routeOn b x port p else d

/-- A packet that comes in at a router: ECC on each flit (R165), the head's checks (R168), then its way on; from the local port it takes the
MODE of its route (R174). -/
def Dev.comeIn (d : Dev) (b x port : Nat) (p : Packet) (head : Ecc) (body : List Ecc) : Dev :=
  let here := Place.router b x port
  let body := body.take (flits p - 1)
  let d := (head :: body).foldl (fun d e => d.countEcc b x port e) d
  match eccPacket p head body with
  | none => d.take here p
  | some q0 =>
    let q := if port = 4 then d.setMode b x q0 else q0
    if headBad x port q then (d.take here p).inc (r3 .RPORT_MALFORMED b x port) Fld.RPORT_MALFORMED_CNT
    else if pClass q = 1 then
      ((d.take here p).updRouter b x fun r => r.arrive port q).pump pumpFuel b [x]
    else (d.comeTo here p q).goOn b x port q

/-- A packet at a router's input: it comes in, or one that has come in before goes on. -/
def Dev.ingress (d : Dev) (b x port : Nat) (p : Packet) (head : Ecc) (body : List Ecc) : Dev :=
  if d.hasCome (.router b x port) p then d.goOn b x port p else d.comeIn b x port p head body

/-- A router receives a packet at one of its ports (R162, R168); a hole takes none (R173). -/
def execRouterIngress (b x port : Nat) (pkt : Packet) (head : Ecc) (body : List Ecc) (s : State) : Out :=
  onUnit (okSite b x && hasPort x port) s fun d =>
    d.when (d.siteRuns b x && !d.hole b x) fun d => d.ingress b x port pkt head body

/-! ## Register writes of this block -/

/-- A rejected write adds 1 to the field of an error register that its reason names. -/
def Dev.rejectIn (d : Dev) (r : Reg) (busy malformed bounds : Field) : Reject → Dev
  | .busyRej => d.inc r busy
  | .malformed => d.inc r malformed
  | .bounds => d.inc r bounds

/-- A write accepted under its register's access codes, or rejected. -/
def Dev.writeOr (d : Dev) (r : Reg) (v : W32) (rej : Option Reject) (onRej : Dev → Reject → Dev) : Dev :=
  match rej with
  | some k => onRej d k
  | none => d.store r v

/-- Rejections of the router block. -/
def Dev.rtrReject (b x : Nat) (d : Dev) (k : Reject) : Dev :=
  d.rejectIn (r2 .RTR_ERR b x) Fld.RTR_ERR_BUSY_REJ Fld.RTR_ERR_MALFORMED Fld.RTR_ERR_BOUNDS k

/-- RTR_CTRL: setting SCHED_EN needs SCHED_START at least 1,000 beats ahead; clearing it stops the schedule at the next frame boundary. -/
def Dev.writeRtrCtrl (d : Dev) (b x : Nat) (v : W32) : Dev :=
  let r := r2 .RTR_CTRL b x
  let starts := Fld.RTR_CTRL_SCHED_EN.get v == 1 && !d.flag r Fld.RTR_CTRL_SCHED_EN
  let late := decide (d.pair (r2 .SCHED_START_LO b x) (r2 .SCHED_START_HI b x) < d.beat + 1000)
  let d := if Fld.RTR_CTRL_SCHED_EN.get v = 0 && d.flag (r2 .RTR_STATUS b x) Fld.RTR_STATUS_SCHED_ACTIVE then
      d.updRouter b x fun r => { r with stopping := true }
    else d
  d.writeOr r v (firstReject false false (starts && late)) (Dev.rtrReject b x)

/-- A slot entry that names no legal use of the crossbar (SCHED_SLOT). -/
def slotBad (x : Nat) (v : W32) : Bool :=
  outs.any (fun o => decide (6 ≤ selOf v o) || (addOf v o && (selOf v o == 5 || selOf v o == 0))) ||
  selOf v 4 == 5 ||
  decide (1 < (([0, 1, 2, 3] : List Nat).filter fun o => selOf v o == 5).length) ||
  ([0, 1, 2, 3] : List Nat).any (fun o => selOf v o != 0 && ((neighbour x o).isNone || seamPort x o))

/-- The checks that setting ENABLE makes of a descriptor: MALFORMED, BOUNDS (FLOW, SINK). -/
def descriptorRej (base len fmt ring : Nat) : Option Reject :=
  firstReject false (decide (1024 < len) || decide (1 < fmt) || (ring != 0 && ring % len != 0))
    (decide (tileSram < base + max ring len))

/-- FLOW_AC: ENABLE is set after the descriptor's checks; while it is 1 no other field changes. -/
def Dev.writeFlowAc (d : Dev) (b x f : Nat) (v : W32) : Dev :=
  let r := r3 .FLOW_AC b x f
  let on := d.flag r Fld.FLOW_AC_ENABLE
  let others := Fld.FLOW_AC_AC.get v != d.getF r Fld.FLOW_AC_AC || Fld.FLOW_AC_READY_EN.get v != d.getF r Fld.FLOW_AC_READY_EN
  let len := r3 .FLOW_LEN b x f
  let rej := if on && others then some .busyRej
    else if !on && Fld.FLOW_AC_ENABLE.get v == 1 then
      descriptorRej (d.getF (r3 .FLOW_SRC b x f) Fld.FLOW_SRC_SRC) (d.getF len Fld.FLOW_LEN_LEN) (d.getF len Fld.FLOW_LEN_FMT)
        (d.getF (r3 .FLOW_RING b x f) Fld.FLOW_RING_RING)
    else none
  d.writeOr r v rej (Dev.rtrReject b x)

/-- SINK_CTR: as FLOW_AC, with the sink's LEN and RING against DST. -/
def Dev.writeSinkCtr (d : Dev) (b x k : Nat) (v : W32) : Dev :=
  let r := r3 .SINK_CTR b x k
  let on := d.flag r Fld.SINK_CTR_ENABLE
  let others := Fld.SINK_CTR_ACTR.get v != d.getF r Fld.SINK_CTR_ACTR || Fld.SINK_CTR_ACT_EN.get v != d.getF r Fld.SINK_CTR_ACT_EN
  let rej := if on && others then some .busyRej
    else if !on && Fld.SINK_CTR_ENABLE.get v == 1 then
      descriptorRej (d.getF (r3 .SINK_DST b x k) Fld.SINK_DST_DST) (d.getF (r3 .SINK_LEN b x k) Fld.SINK_LEN_LEN) 0
        (d.getF (r3 .SINK_RING b x k) Fld.SINK_RING_RING)
    else none
  d.writeOr r v rej (Dev.rtrReject b x)

/-- Whether a register is a field of a flow or sink descriptor that must not change while it is in use. -/
def Dev.descriptorBusy (d : Dev) (r : Reg) : Bool :=
  match r.name with
  | .FLOW_SRC | .FLOW_LEN | .FLOW_RING | .FLOW_TARGET => d.flag ⟨.FLOW_AC, r.i, r.j, r.k⟩ Fld.FLOW_AC_ENABLE
  | .SINK_DST | .SINK_RING | .SINK_LEN => d.flag ⟨.SINK_CTR, r.i, r.j, r.k⟩ Fld.SINK_CTR_ENABLE
  | _ => false

/-- MAP of one router (R178). -/
def Dev.writeMap (d : Dev) (b x t : Nat) (v : W32) : Dev :=
  if 768 ≤ Fld.MAP_SITE.get v then Dev.rtrReject b x d .bounds
  else { d with mapOver := d.mapOver.set (fun _ => none) ((b * 768 + x) * 1024 + t) (some (v &&& 0x800003FF#32)) }

/-- ROUTE of one router: ports 5-7 are MALFORMED. -/
def Dev.writeRoute (d : Dev) (b x t : Nat) (v : W32) : Dev :=
  if 5 ≤ Fld.ROUTE_TREE_PORT.get v then Dev.rtrReject b x d .malformed
  else { d with routeOver := d.routeOver.set (fun _ => none) ((b * 768 + x) * 1024 + t) (some (v &&& 0xF#32)) }

/-- Writes of the router's registers. -/
def Dev.writeRouter (d : Dev) (r : Reg) (v : W32) : Dev :=
  let b := r.i
  let x := r.j
  let out (busy bad far : Bool) : Dev := d.writeOr r v (firstReject busy bad far) (Dev.rtrReject b x)
  match r.name with
  | .RTR_CTRL => d.writeRtrCtrl b x v
  | .SCHED_START_LO => out false (v.toNat % 128 != 0) false
  | .RTR_TAP => out false (!isTap (Fld.RTR_TAP_TAP_SITE.get v)) false
  | .RTR_FWD => out false false (decide (768 ≤ Fld.RTR_FWD_SITE.get v))
  | .SCHED_SLOT => out (d.flag (r2 .RTR_CTRL b x) Fld.RTR_CTRL_SCHED_EN) (slotBad x v) false
  | .FLOW_AC => d.writeFlowAc b x r.k v
  | .SINK_CTR => d.writeSinkCtr b x r.k v
  | .FLOW_SRC => out (d.descriptorBusy r) (Fld.FLOW_SRC_SRC.get v % 16 != 0) false
  | .SINK_DST => out (d.descriptorBusy r) (Fld.SINK_DST_DST.get v % 16 != 0) false
  | .MAP => d.writeMap b x r.k v
  | .ROUTE => d.writeRoute b x r.k v
  | _ => out (d.descriptorBusy r) false false

/-- Writes of a barn's route loader: LOAD is refused while the barn is in service (R176). -/
def Dev.writeLoader (d : Dev) (r : Reg) (v : W32) : Dev :=
  let b := r.i
  let st := r1 .RT_STATUS b
  let rej (d : Dev) (_ : Reject) : Dev := d.inc st Fld.RT_STATUS_REJ
  match r.name with
  | .RT_CTRL =>
    if Fld.RT_CTRL_LOAD.get v = 0 then d
    else if bitOf d.barnsIn b then rej d .busyRej
    else (((d.setF r Fld.RT_CTRL_LOAD 1).setF st Fld.RT_STATUS_BUSY 1).setF st Fld.RT_STATUS_DONE 0).setF st Fld.RT_STATUS_NO_ROOT 0
  | .RT_PARENT => d.writeOr r v (firstReject false false (decide (768 ≤ Fld.RT_PARENT_PARENT.get v))) rej
  | .RT_MAP => d.writeOr r v (firstReject false false (decide (768 ≤ Fld.RT_MAP_SITE.get v))) rej
  | _ => d.writeOr r v none rej

end Sys2Proof.Machine
end

