-- ==== Sys2Proof/Machine/Clock.lean ====
section
/-! DEFINITION. Beat, clocks and crossings (R43-R74): the beat counter, operating points and their changes, PLLs, stretching and
gating. -/

namespace Sys2Proof.Machine

/-! ## The beat counter (R43-R53) -/

def Dev.beatFlag (d : Dev) (f : Field) (v : Bool) : Dev := d.setF (r0 .BEAT_STATUS) f (boolNat v)

/-- Applies an offset, the counter less the beat that the pulse marks (R49): behind, the counter steps forward at once; ahead,
it holds for that many beats. The offset takes the place of what is left of an earlier hold. -/
def Dev.correct (d0 : Dev) (offset : Int) : Dev :=
  let d := d0.endHold
  if offset < 0 then { d with beat := (d.beat + (-offset).toNat) % 2 ^ 64 }
  else if offset = 0 then d
  else { d.beatFlag Fld.BEAT_STATUS_HOLD_ACTIVE true with holdLeft := offset.toNat }

/-- The counter against the nearest multiple of 2^20 beats (R48, R53). -/
def Dev.pulseOffset (d : Dev) : Int := signed 20 d.beat

/-- The armed value (R47). -/
def Dev.beatLoad (d : Dev) : Nat := d.pair (r0 .BEAT_LOAD_LO) (r0 .BEAT_LOAD_HI)

/-- A mismatched or missing pulse (R48). -/
def Dev.syncMismatch (d : Dev) (offset : Int) : Dev :=
  (((d.inc (r0 .SYNC_MISMATCH_CNT) Fld.SYNC_MISMATCH_CNT_CNT).setF (r0 .SYNC_LAST_OFFSET) Fld.SYNC_LAST_OFFSET_OFFSET
    (codeOf 32 offset)).beatFlag Fld.BEAT_STATUS_SYNC_LOCKED false).raise 180

/-- The counter is back on YREF (R53); yard streams are scheduled again from the next frame boundary. -/
def Dev.backOnYref (d : Dev) : Dev :=
  let y := d.yard
  { ((d.beatFlag Fld.BEAT_STATUS_HOLDOVER false).beatFlag Fld.BEAT_STATUS_REF_QUAL false) with
    returnPend := false
    yard := { y with streamsFrom := (d.beat / 128 + 1) * 128 } }

/-- A sampled BEAT_SYNC pulse: taken as BEAT_LOAD where armed (R47), as the return to YREF where one is due (R53), else compared
(R48). A pulse that finds LOAD_ARM set and a return due does both: the difference to BEAT_LOAD is applied and the return's own offset
is not (DESIGN CHOICE, log 118). -/
def Dev.syncPulse (d : Dev) : Dev :=
  let ctrl := r0 .BEAT_CTRL
  if d.flag ctrl Fld.BEAT_CTRL_LOAD_ARM then
    let d := if d.returnPend then d.backOnYref else d
    let d := d.correct (signed 64 (d.beat + 2 ^ 64 - d.beatLoad))
    Dev.joinSynced { (d.setF ctrl Fld.BEAT_CTRL_LOAD_ARM 0).beatFlag Fld.BEAT_STATUS_SYNC_LOCKED true with aligned := true }
  else if d.returnPend then (d.backOnYref).correct d.pulseOffset
  else if d.aligned then
    if d.pulseOffset = 0 then d.beatFlag Fld.BEAT_STATUS_SYNC_LOCKED true else d.syncMismatch d.pulseOffset
  else d

def Dev.syncOn (d : Dev) : Bool := d.flag (r0 .BEAT_CTRL) Fld.BEAT_CTRL_SYNC_EN

/-- An expected pulse does not arrive (R48). -/
def execSyncPulseMissing (s : State) : Out := onUnit true s fun d => d.when (d.syncOn && d.aligned) fun d => d.syncMismatch 0

/-- The hold of a backward correction ends (R49). -/
def execHoldEnd (s : State) : Out :=
  onUnit true s fun d =>
    d.when (d.flag (r0 .BEAT_STATUS) Fld.BEAT_STATUS_HOLD_ACTIVE && d.holdLeft == 0) fun d =>
      d.beatFlag Fld.BEAT_STATUS_HOLD_ACTIVE false

/-- Whether a retrace is under way. -/
def Dev.calRunning (d : Dev) : Bool :=
  let st := d.getF (r0 .CAL_STATUS) Fld.CAL_STATUS_STATE
  st == 1 || st == 2 || st == 3

/-- A retrace run is rejected with a reason at a chain; no correction is kept (R378, R380). -/
def Dev.calReject (d : Dev) (reason chain : Nat) : Dev :=
  let st := r0 .CAL_STATUS
  let d := ((d.setF st Fld.CAL_STATUS_STATE 5).setF st Fld.CAL_STATUS_REASON reason).setF st Fld.CAL_STATUS_CHAIN chain
  let cal := d.cal
  let d := (d.setF (r0 .CAL_CTRL) Fld.CAL_CTRL_START 0).inc (r0 .CAL_ERR) Fld.CAL_ERR_REJECTED
  { d with cal := { cal with found := [] } }

/-- Entry into holdover (R50, R51): the periods since the last YREF edge are added. -/
def Dev.enterHoldover (d : Dev) (periods : Nat) : Dev :=
  let d := { (d.beatFlag Fld.BEAT_STATUS_REF_OK false).beatFlag Fld.BEAT_STATUS_REF_QUAL false with returnPend := false }
  if d.inHoldover then d
  else
    let d := (((d.beatFlag Fld.BEAT_STATUS_HOLDOVER true).inc (r0 .REF_LOSS_CNT) Fld.REF_LOSS_CNT_CNT).passBeats periods).raise 181
    d.when (d.calRunning) fun d => d.calReject 5 0

/-- YREF has qualified again: back at once where BEAT_SYNC is ignored, else at the next pulse (R53). -/
def execYrefReturn (s : State) : Out :=
  onUnit true s fun d =>
    d.when (d.inHoldover && !d.flag (r0 .BEAT_CTRL) Fld.BEAT_CTRL_HOLDOVER_FORCE) fun d =>
      let d := d.beatFlag Fld.BEAT_STATUS_REF_OK true
      if d.syncOn then { d.beatFlag Fld.BEAT_STATUS_REF_QUAL true with returnPend := true } else d.backOnYref

/-- A return that awaited a pulse is made at the next YREF edge once SYNC_EN is 0 (R53). -/
def Dev.edgeReturn (d : Dev) : Dev := d.when (d.returnPend && !d.syncOn) Dev.backOnYref

/-- BEAT_CTRL: setting HOLDOVER_FORCE acts as a loss of YREF; SYNC_EN stays 0 while JOIN_EN is 0 (R269). -/
def Dev.writeBeatCtrl (d : Dev) (v0 : W32) : Dev :=
  let r := r0 .BEAT_CTRL
  let v := if d.flag (r0 .YARD_CTRL) Fld.YARD_CTRL_JOIN_EN then v0 else Fld.BEAT_CTRL_SYNC_EN.put v0 0
  let forced := Fld.BEAT_CTRL_HOLDOVER_FORCE.get v == 1 && !d.flag r Fld.BEAT_CTRL_HOLDOVER_FORCE
  let d := d.store r v
  d.when (forced && d.counting) fun d => d.enterHoldover 0

/-! ## Operating points (R54-R60) -/

def Dev.oppFreq (d : Dev) (h p : Nat) : Nat := d.getF (r2 .OPP_ENTRY h p) Fld.OPP_ENTRY_FREQ_MHZ
def Dev.oppVolt (d : Dev) (h p : Nat) : Nat := d.getF (r2 .OPP_ENTRY h p) Fld.OPP_ENTRY_VOLT_MV
def Dev.oppValid (d : Dev) (h p : Nat) : Bool := d.flag (r2 .OPP_ENTRY h p) Fld.OPP_ENTRY_VALID
def Dev.oppCur (d : Dev) (h : Nat) : Nat := d.getF (r1 .HALF_OPP h) Fld.HALF_OPP_CUR
def Dev.changeBeat (d : Dev) (h : Nat) : Nat := d.pair (r1 .HALF_CHANGE_BEAT_LO h) (r1 .HALF_CHANGE_BEAT_HI h)
def Dev.halfFlag (d : Dev) (h : Nat) (f : Field) (v : Bool) : Dev := d.setF (r1 .HALF_STATUS h) f (boolNat v)
def Dev.halfIs (d : Dev) (h : Nat) (f : Field) : Bool := d.flag (r1 .HALF_STATUS h) f

/-- The lock flag of a PLL: A (false) or B (true). -/
def pllLock (pll : Bool) : Field := if pll then Fld.HALF_STATUS_PLL_B_LOCK else Fld.HALF_STATUS_PLL_A_LOCK

/-- The driving PLL. -/
def Dev.driving (d : Dev) (h : Nat) : Bool := d.halfIs h Fld.HALF_STATUS_DRIVING
def Dev.setDriving (d : Dev) (h : Nat) (pll : Bool) : Dev := d.halfFlag h Fld.HALF_STATUS_DRIVING pll

def Half.lost (v : Half) (pll : Bool) : Bool := if pll then v.lostB else v.lostA
def Half.setLost (v : Half) (pll lost : Bool) : Half := if pll then { v with lostB := lost } else { v with lostA := lost }

/-- Sets a PLL's lock flag; one that locks is no longer lost. -/
def Dev.setLock (d : Dev) (h : Nat) (pll v : Bool) : Dev :=
  (if v then d.updHalf h fun f => f.setLost pll false else d).halfFlag h (pllLock pll) v
def Dev.locked (d : Dev) (h : Nat) (pll : Bool) : Bool := d.halfIs h (pllLock pll)

def Dev.clkReject (d : Dev) (k : Reject) : Dev :=
  match k with
  | .busyRej => d.inc (r0 .CLK_ERR) Fld.CLK_ERR_BUSY_REJ
  | _ => d.inc (r0 .CLK_ERR) Fld.CLK_ERR_BOUNDS

/-- The target of a rail's regulator, in mV. -/
def Dev.setTarget (d : Dev) (r mv : Nat) : Dev := d.setF (r1 .RAIL_STATUS r) Fld.RAIL_STATUS_TARGET mv

/-- VCORE starts towards the voltage of a point: the VID code is (VOLT_MV − 600) / 5; at the code driven it stays settled (R356). -/
def Dev.driveVcore (d : Dev) (h p : Nat) : Dev :=
  let code := (d.oppVolt h p - 600) / 5
  let d := d.setTarget h (d.oppVolt h p)
  if code = (d.half h).vid then d
  else (d.updHalf h fun v => { v with vid := code }).halfFlag h Fld.HALF_STATUS_VOLT_OK false

/-- An accepted change (R57). -/
def Dev.acceptChange (d : Dev) (h next : Nat) : Dev :=
  let cur := d.oppCur h
  let c : Change := { next := next, old := cur, c := d.changeBeat h, raise := decide (d.oppVolt h cur < d.oppVolt h next) }
  ((d.updHalf h fun v => { v with change := some c }).halfFlag h Fld.HALF_STATUS_BUSY true).halfFlag h Fld.HALF_STATUS_LATE false

/-- HALF_OPP: NEXT, and a request where COMMIT is 1 (R57). -/
def Dev.writeHalfOpp (d : Dev) (h : Nat) (v : W32) : Dev :=
  let r := r1 .HALF_OPP h
  let next := Fld.HALF_OPP_NEXT.get v
  if Fld.HALF_OPP_COMMIT.get v = 0 then d.setF r Fld.HALF_OPP_NEXT next
  else
    match firstReject (d.halfIs h Fld.HALF_STATUS_BUSY) false
      (!d.oppValid h next || decide (d.changeBeat h < d.beat + 3000)) with
    | some k => d.clkReject k
    | none => (d.setF r Fld.HALF_OPP_NEXT next).acceptChange h next

/-- OPP_ENTRY: not the entry in use, nor the one that a change under way goes to. -/
def Dev.writeOppEntry (d : Dev) (h p : Nat) (v : W32) : Dev :=
  let r := r2 .OPP_ENTRY h p
  let f := Fld.OPP_ENTRY_FREQ_MHZ.get v
  let mv := Fld.OPP_ENTRY_VOLT_MV.get v
  let inUse := d.oppCur h == p || (match (d.half h).change with | some c => c.next == p | none => false)
  let bad := decide (f < 800) || decide (1800 < f) || f % 25 != 0 || decide (mv < 600) || decide (900 < mv) || mv % 5 != 0
  d.writeOr r v (firstReject inUse false bad) Dev.clkReject

/-- Whether one PLL of a half is marked failed (R441). -/
def Dev.onePll (d : Dev) (h : Nat) : Bool := (d.half h).failedA || (d.half h).failedB

/-- A half's clock is stopped under R61, or runs again. -/
def Dev.pllStopped (d : Dev) (h : Nat) (v : Bool) : Dev := d.updHalf h fun f => { f with pllStop := v }

/-- Acts on a half's change under way where a condition of it holds. -/
def Dev.onChange (d : Dev) (h : Nat) (cond : Change → Bool) (f : Change → Dev → Dev) : Dev :=
  match (d.half h).change with
  | some c => d.when (cond c) (f c)
  | none => d

def Dev.setChange (d : Dev) (h : Nat) (c : Option Change) : Dev := d.updHalf h fun v => { v with change := c }

/-- c − 3,000 of a raise: VCORE starts towards the new voltage. -/
def Dev.raiseVcore (d : Dev) (h : Nat) : Dev :=
  d.onChange h (fun c => c.raise && !c.vcoreStarted && decide (c.c ≤ d.beat + 3000)) fun c d =>
    (d.driveVcore h c.next).setChange h (some { c with vcoreStarted := true })

def execChangeVcoreStart (h : Nat) (s : State) : Out := onUnit (decide (h < 16)) s fun d => d.raiseVcore h

/-- c − 2,000: the standby PLL starts to lock at the new frequency. -/
def Dev.lockStandby (d : Dev) (h : Nat) : Dev :=
  d.onChange h (fun c => !c.lockStarted && (!c.raise || c.vcoreStarted) && decide (c.c ≤ d.beat + 2000)) fun c d =>
    (d.setLock h (!d.driving h) false).setChange h (some { c with lockStarted := true })

def execStandbyLockStart (h : Nat) (s : State) : Out := onUnit (decide (h < 16)) s fun d => d.lockStandby h

/-- c − 500: the standby PLL has locked (Table 02-2); the readiness check of c − 1 tells where it has not. -/
def Dev.standbyLocked (d : Dev) (h : Nat) : Dev :=
  let due (c : Change) := c.lockStarted && c.ready.isNone && !d.onePll h && !(d.half h).lost (!d.driving h) && decide (c.c ≤ d.beat + 500)
  d.onChange h due fun _ d =>
    d.setLock h (!d.driving h) true

/-- c − 1: the readiness check (R59). -/
def execReadinessCheck (h : Nat) (locked settled : Bool) (s : State) : Out :=
  onUnit (decide (h < 16)) s fun d =>
    d.onChange h (fun c => c.lockStarted && c.ready.isNone && decide (c.c ≤ d.beat + 1)) fun c d =>
      let ok := (locked || d.onePll h) && (!c.raise || settled)
      let d := (d.setLock h (!d.driving h) (locked && !d.onePll h)).setChange h (some { c with ready := some ok })
      if ok then d else (d.halfFlag h Fld.HALF_STATUS_LATE true).inc (r0 .CLK_ERR) Fld.CLK_ERR_LATE

/-- The half runs from the other PLL at the new point; the former driving PLL relocks as standby (Table 02-2). A half left with one
PLL stops until that PLL locks at the new point (R441). -/
def Dev.switchHalf (d : Dev) (h : Nat) (c : Change) : Dev :=
  let old := d.driving h
  let d := if d.onePll h then d.pllStopped h true else d.setDriving h (!old)
  let d := (d.setLock h old false).setF (r1 .HALF_OPP h) Fld.HALF_OPP_CUR c.next
  let settled := c.raise || d.oppVolt h c.old == d.oppVolt h c.next
  (d.halfFlag h Fld.HALF_STATUS_VOLT_OK settled).setChange h (some { c with switched := true })

/-- No switch at c (R59): the standby relocks at the old point and a raised VCORE returns. -/
def Dev.missSwitch (d : Dev) (h : Nat) (c : Change) : Dev :=
  let d := d.setLock h (!d.driving h) false
  (if c.raise then d.driveVcore h c.old else d).setChange h (some { c with switched := true })

/-- A half switches at its beat, or stays where its readiness check failed. -/
def Dev.switchOne (d : Dev) (h : Nat) : Dev :=
  d.onChange h (fun c => !c.switched) fun c d => if c.ready = some true then d.switchHalf h c else d.missSwitch h c

/-- The halves whose changes not yet made name the same CHANGE_BEAT (R60). -/
def Dev.sameBeat (d : Dev) (t : Nat) : List Nat :=
  (List.range 16).filter fun h => match (d.half h).change with | some c => c.c == t && !c.switched | none => false

/-- Whether the readiness of a half's change has been checked. -/
def Dev.checked (d : Dev) (h : Nat) : Bool := match (d.half h).change with | some c => c.ready.isSome | none => false

/-- c: the halves with one CHANGE_BEAT switch, or stay, at one edge (R60), once each has had its readiness check. -/
def Dev.switchAt (d : Dev) (h : Nat) : Dev :=
  d.onChange h (fun c => !c.switched && decide (c.c ≤ d.beat) && (d.sameBeat c.c).all d.checked) fun c d =>
    (d.sameBeat c.c).foldl Dev.switchOne d

def execHalfSwitch (h : Nat) (s : State) : Out := onUnit (decide (h < 16)) s fun d => d.switchAt h

/-- c + 1 of a lowering: VCORE starts towards the new voltage. -/
def Dev.lowerVcore (d : Dev) (h : Nat) : Dev :=
  d.onChange h (fun c => !c.raise && c.switched && c.ready == some true && !c.lowering && decide (c.c + 1 ≤ d.beat)) fun c d =>
    (d.driveVcore h c.next).setChange h (some { c with lowering := true })

def execLoweringVcoreStart (h : Nat) (s : State) : Out := onUnit (decide (h < 16)) s fun d => d.lowerVcore h

/-- Whether BUSY can clear (R58, R59). -/
def Dev.changeOver (d : Dev) (c : Change) : Bool :=
  c.switched &&
  (if c.ready = some true then
    (if c.raise then decide (c.c + 1500 ≤ d.beat) else c.lowering && decide (c.c + 1001 ≤ d.beat))
  else decide (c.c ≤ d.beat))

/-- The Ringmaster moves a half to a point: CHANGE_BEAT, then NEXT and COMMIT. -/
def Dev.requestPoint (d : Dev) (h p : Nat) : Dev :=
  let d := d.setPair (r1 .HALF_CHANGE_BEAT_LO h) (r1 .HALF_CHANGE_BEAT_HI h) (d.beat + 3000)
  d.writeHalfOpp h (Fld.HALF_OPP_COMMIT.put (Fld.HALF_OPP_NEXT.put 0 p) 1)

/-- Whether CUR of a half names a point of the act's set (R56). -/
def Dev.inActSet (d : Dev) (h : Nat) : Bool := match d.act with | some a => bitOf a.oppSet (d.oppCur h) | none => false

/-- What the Ringmaster does when a change ends at a half that an act waits for (R56): after another change than the act's, the half
stays at a point of the set, or is moved; a failed change to the set is reissued at once; after three in a row the barn leaves
service. -/
def Dev.actChangeEnded (d : Dev) (h : Nat) (ok : Bool) : Dev :=
  match (d.half h).actWant with
  | none => d
  | some p =>
    if (d.half h).actAsked && ok || !(d.half h).actAsked && d.inActSet h then
      d.updHalf h fun v => { v with actWant := none, actAsked := false, actFails := 0 }
    else if !(d.half h).actAsked then (d.updHalf h fun v => { v with actAsked := true }).requestPoint h p
    else
      let n := (d.half h).actFails + 1
      if n < 3 then (d.updHalf h fun v => { v with actFails := n }).requestPoint h p
      else (d.updHalf h fun v => { v with actWant := none, actAsked := false, actFails := 0 }).barnOut (h / 2)

/-- BUSY clears: the voltage is settled and the standby is locked. -/
def execChangeBusyClear (h : Nat) (s : State) : Out :=
  onUnit (decide (h < 16)) s fun d =>
    d.onChange h d.changeOver fun c d =>
      let other := !d.driving h
      let d := (if d.onePll h || (d.half h).lost other then d else d.setLock h other true).halfFlag h Fld.HALF_STATUS_VOLT_OK true
      ((d.halfFlag h Fld.HALF_STATUS_BUSY false).setChange h none).actChangeEnded h (c.ready == some true)

/-! ## PLL faults (R61, R441) -/

/-- Whether the standby is on its way to, or at, the target point of a change. -/
def Dev.changing (d : Dev) (h : Nat) : Bool :=
  match (d.half h).change with
  | some c => c.lockStarted && !c.switched && !d.onePll h
  | none => false

/-- The driving PLL loses lock (R61): to a standby locked at the current point, else the clock stops. -/
def execPllLoss (h : Nat) (s : State) : Out :=
  onUnit (decide (h < 16)) s fun d =>
    let p := d.driving h
    d.when (d.locked h p) fun d =>
      let d := ((d.setLock h p false).inc (r0 .CLK_ERR) Fld.CLK_ERR_PLL_LOSS).raise (182 + h)
      let d := d.updHalf h fun v => (if p then { v with triesB := 0 } else { v with triesA := 0 }).setLost p true
      if d.locked h (!p) && !d.changing h then d.setDriving h (!p) else d.pllStopped h true

/-- A stopped half runs again from a PLL that has locked. -/
def Dev.resumePll (d : Dev) (h : Nat) (pll : Bool) : Dev :=
  let target := d.changing h
  let d := (d.setLock h pll true).pllStopped h false
  match (d.half h).change with
  | some c => if target then d.switchHalf h { c with ready := some true } else d.setDriving h pll
  | none => d.setDriving h pll

/-- A PLL of a stopped half locks (R61): during a change at the target point, and the switch is made at once; else at the current
point. -/
def execPllLockResume (h : Nat) (pll : Bool) (s : State) : Out :=
  onUnit (decide (h < 16)) s fun d =>
    let target := d.changing h
    d.when ((d.half h).pllStop && !(if pll then (d.half h).failedB else (d.half h).failedA) && (!target || pll != d.driving h)) fun d => d.resumePll h pll

def Half.tries (v : Half) (pll : Bool) : Nat := if pll then v.triesB else v.triesA
def Half.failed (v : Half) (pll : Bool) : Bool := if pll then v.failedB else v.failedA
def Half.setPll (v : Half) (pll : Bool) (tries : Nat) (failed : Bool) : Half :=
  if pll then { v with triesB := tries, failedB := failed } else { v with triesA := tries, failedA := failed }

/-- One attempt to relock a PLL; after the third without success it is marked failed. -/
def Dev.relockTry (d : Dev) (h : Nat) (pll locked : Bool) : Dev :=
  let v := d.half h
  if locked then
    let d := (d.updHalf h fun v => v.setPll pll 0 false).setLock h pll true
    if v.pllStop then (d.pllStopped h false).setDriving h pll else d
  else
    let n := v.tries pll + 1
    let d := d.updHalf h fun v => v.setPll pll n (decide (3 ≤ n))
    let w := d.half h
    d.when (w.failedA && w.failedB && w.pllStop) fun d => d.barnOut (h / 2)

/-- The Ringmaster resets a failed PLL and relocks it at the current point, up to 3 times (R441). -/
def execPllRelockAttempt (h : Nat) (pll locked : Bool) (s : State) : Out :=
  onUnit (decide (h < 16)) s fun d =>
    let v := d.half h
    d.when (d.hasMaster && !d.locked h pll && !v.failed pll && !d.changing h) fun d => d.relockTry h pll locked

/-! ## Replica lines (R66) -/

/-- The barn nodes of a region (Tables 02-3, 11-2). -/
def regionNodes (r : Nat) : List Nat :=
  let i := r % 8
  [0, 1].map fun k => 16 * (r / 8) + 4 * (2 * (i % 4 / 2) + k) + i / 4 * 2 + i % 2

/-- The inlet temperature in use. -/
def Dev.inlet (d : Dev) : Rat := (signed 16 (d.getF (r0 .PWR_COOL_T) Fld.PWR_COOL_T_INLET) : Rat) / 256

/-- The modelled temperature of a node; until the estimator's first step every node holds the inlet temperature (R361). -/
def Dev.nodeT (d : Dev) (i : Nat) : Rat := if d.pwr.stepped then d.pwr.temps.get (fun _ => 0) i else d.inlet

/-- The largest of a list of temperatures, not empty. -/
def maxRat : List Rat → Rat
  | [] => 0
  | h :: t => t.foldl (fun a b => if a < b then b else a) h

/-- The coefficients of a region's replica line in the calibration block (Table 12-8). -/
def Dev.replicaCoefs (d : Dev) (r : Nat) : List W32 := match d.cal.block with | some c => nth c.replicas r [] | none => []

/-- The trim of a region's replica line from its modelled temperature, with the coefficients of the calibration block (R66). -/
def execReplicaTrim (r : Nat) (s : State) : Out :=
  onUnit (decide (r < 64)) s fun d =>
    d.when (d.beat % 1000 == 0) fun d => d.updRegion r fun g =>
      { g with trim := some (Config.replicaTrim (d.replicaCoefs r) (maxRat ((regionNodes r).map d.nodeT))) }

/-- The compensation of the holdover oscillator (R51): from the offset of the calibration block with the retrace's correction, its
coefficients, and the modelled temperature of the base node that holds it. -/
def Dev.oscNow (d : Dev) : Option Rat :=
  d.cal.block.map fun c =>
    Config.oscTrim (c.holdover + (nth d.cal.now 114 ⟨0, 0⟩).gain) c.holdoverTemp (d.nodeT (276 + Config.oscNode % 192))

/-- Every 1,000 beats the compensation is refreshed (R51). -/
def Dev.edgeOscillator (d : Dev) : Dev := d.when (d.beat % 1000 == 0) fun d => { d with oscTrim := d.oscNow }

/-! ## Gating (R71-R74) -/

/-- REGION_CLK_CTRL: STRETCH_MAX at most 4; a change of GATE takes effect at the next beat edge. -/
def Dev.writeRegionCtrl (d : Dev) (r : Nat) (v : W32) : Dev :=
  let reg := r1 .REGION_CLK_CTRL r
  let on := Fld.REGION_CLK_CTRL_GATE.get v == 1
  if 4 < Fld.REGION_CLK_CTRL_STRETCH_MAX.get v then d.clkReject .bounds
  else
    let changed := on != d.flag reg Fld.REGION_CLK_CTRL_GATE
    let d := d.store reg v
    d.when changed fun d => d.updRegion r fun g => { g with gatePend := some on }

/-- Writes of the CLK block. -/
def Dev.writeClk (d : Dev) (r : Reg) (v : W32) : Dev :=
  match r.name with
  | .BEAT_CTRL => d.writeBeatCtrl v
  | .HALF_OPP => d.writeHalfOpp r.i v
  | .OPP_ENTRY => d.writeOppEntry r.i r.j v
  | .REGION_CLK_CTRL => d.writeRegionCtrl r.i v
  | .HALF_THROTTLE => d.writeOr r v (firstReject false false (decide (48 < Fld.HALF_THROTTLE_SKIP_MAX.get v))) Dev.clkReject
  | _ => d.writeOr r v none Dev.clkReject

end Sys2Proof.Machine
end

