-- ==== Sys2Proof/Machine/LoftCtl.lean ====
section
/-! DEFINITION. Loft coils, scrubbing and the loft's registers (R195-R204), and what starts a tile move (R432). -/

namespace Sys2Proof.Machine

/-! ## Tile moves begin (R432) -/

/-- The spare for a site: of lowest physical index in the same half, else in the other half. -/
def Dev.spareFor (d : Dev) (b x : Nat) : Option Nat :=
  let spares := (List.range 768).filter fun y => d.siteState b y == 1
  match spares.find? fun y => halfOf b y == halfOf b x with
  | some y => some y
  | none => spares.head?

/-- The Ringmaster moves a site's logical tile: REMAP_POST is written there, or without a spare the barn leaves service. -/
def Dev.postMove (d : Dev) (b x : Nat) : Dev :=
  if !d.hasMaster || !d.flag (r0 .FAR_CTRL) Fld.FAR_CTRL_MOVE_EN || (d.tile b x).logical.isNone then d
  else if (d.spareFor b x).isNone then ((d.inc (r0 .FAR_EVT) Fld.FAR_EVT_NO_SPARE).barnLeaves b).bar b
  else (d.setF (r2 .TILE_CTRL b x) Fld.TILE_CTRL_REMAP_POST 1).setF (r2 .FAR_SITE b x) Fld.FAR_SITE_MOVE_POSTED 1

/-- Words of tile SRAM that reported uncorrectable twice within 2^32 beats have their tiles moved (R3, R432). -/
def Dev.edgeMoves (d : Dev) : Dev :=
  (d.sramErrs.filter fun e => match e.2 with | u :: v :: _ => decide (u < v + 2 ^ 32) | _ => false).foldl (fun d e =>
    let k := (e.1 - localBase 0 0) / 2 ^ 25
    Dev.postMove { d with sramErrs := d.sramErrs.set (fun _ => []) e.1 [] } (k / 768) (k % 768)) d

/-! ## Coils (R197) -/

/-- A unit that crosses a coil fails its CRC and is replayed. -/
def execCoilCrcError (b x die : Nat) (s : State) : Out :=
  onUnit (okSite b x && decide (die < 4)) s fun d =>
    d.when (!bitOf (d.lostDies b x) die) fun d =>
      let crc := nth [Fld.LOFT_COIL_CRC_L0, Fld.LOFT_COIL_CRC_L1, Fld.LOFT_COIL_CRC_L2, Fld.LOFT_COIL_CRC_L3] die Fld.LOFT_COIL_CRC_L0
      { (d.inc (r2 .LOFT_COIL_CRC b x) crc).inc (r2 .LOFT_COIL_REPLAY b x) Fld.LOFT_COIL_REPLAY_REPLAY with
        coilErrs := d.coilErrs.upd (fun _ => []) ((b * 768 + x) * 4 + die) fun l => recent l d.beat }

/-- A coil is retired. -/
def Dev.retireCoil (d : Dev) (b x die : Nat) : Dev :=
  let st := r2 .LOFT_STATUS b x
  let site := r2 .FAR_SITE b x
  let d := d.setF st Fld.LOFT_STATUS_COIL_FAILED (setBitNat (d.lostDies b x) die true)
  let d := (d.setF site Fld.FAR_SITE_COIL_FAILED (setBitNat (d.getF site Fld.FAR_SITE_COIL_FAILED) die true)).raise (148 + b)
  let d := if d.hasMaster then d.postEvent b x 1 else d
  d.postMove b x

/-- A coil with 16 CRC errors in 100,000 beats is retired: its share of the slice is lost, LOFT_LOSS is posted, and the tile
moves (R197, R198, R432). -/
def execCoilRetire (b x die : Nat) (s : State) : Out :=
  onUnit (okSite b x && decide (die < 4)) s fun d =>
    let l := (d.coilErrs.get (fun _ => []) ((b * 768 + x) * 4 + die)).filter fun t => d.beat ≤ t + 100000
    d.when (decide (16 ≤ l.length) && !bitOf (d.lostDies b x) die) fun d => d.retireCoil b x die

/-- The scrub of a loft word: what its code finds now, or found before; a single-bit error is corrected and counted, an uncorrectable one
is counted, its address kept (R200, R201). -/
def Dev.scrubLoft (d : Dev) (b x off : Nat) (ecc : Ecc) : Dev :=
  let a := loftBase + off / 8 * 8
  let d := (d.findError b x (a, ecc)).correctSoft b x [localBase b x + a]
  if d.poisonAt (localBase b x + a) then
    (d.inc (r2 .LOFT_ECC b x) Fld.LOFT_ECC_UNCORR).setF (r2 .LOFT_POISON_ADDR b x) Fld.LOFT_POISON_ADDR_OFFSET (off / 8 * 8)
  else d

/-- A loft die reads and checks a unit in an idle slot (R201); off is the offset of the word in which an error was found. -/
def execLoftScrub (b x off : Nat) (ecc : Ecc) (s : State) : Out :=
  onUnit (okSite b x && decide (off < 2 ^ 24)) s fun d =>
    d.when (d.flag (r2 .LOFT_CTRL b x) Fld.LOFT_CTRL_SCRUB_EN && !lostByte (d.lostDies b x) (loftBase + off)) fun d => d.scrubLoft b x off ecc

/-! ## Cache registers (R202-R204) -/

/-- Every line is invalid, and no miss under way fills its line. -/
def Dev.invalidate (d : Dev) (b x : Nat) : Dev :=
  (d.updTile b x fun t =>
    { t with
      lines := []
      slots := t.slots.map fun p => (p.1, p.2.map fun s => { s with fill := none })
      held := t.held.map fun h => { h with slot := { h.slot with fill := none } } }).setF
    (r2 .LOFT_STATUS b x) Fld.LOFT_STATUS_INV_BUSY 1

/-- Whether the tile is halted and quiescent. -/
def Dev.idleTile (d : Dev) (b x : Nat) : Bool := (d.tile b x).halted && (d.tile b x).quiescent

/-- LOFT_CTRL (R204). -/
def Dev.writeLoftCtrl (d : Dev) (b x : Nat) (v : W32) (onRej : Dev → Reject → Dev) : Dev :=
  let r := r2 .LOFT_CTRL b x
  let mode := Fld.LOFT_CTRL_MODE.get v
  let mib := Fld.LOFT_CTRL_CACHE_MIB.get v
  let changes := mode != d.getF r Fld.LOFT_CTRL_MODE || mib != d.getF r Fld.LOFT_CTRL_CACHE_MIB
  let base := d.cacheBase b x
  let t := addrTarget base
  let malformed :=
    if mode = 1 then !within' 1 16 mib || base / 2 ^ 60 != 0 || addrMember base != d.self || decide (t < 8) || decide (28 < t)
    else mib != 0
  match firstReject (changes && !d.idleTile b x) malformed (mode == 1 && !d.addrFits base (d.cacheLen b x)) with
  | some k => onRej d k
  | none => (d.store r v).invalidate b x
where
  within' (lo hi v : Nat) : Bool := decide (lo ≤ v) && decide (v ≤ hi)

/-- Writes of a site's loft registers. -/
def Dev.writeLoft (d : Dev) (r : Reg) (v : W32) : Dev :=
  let b := r.i
  let x := r.j
  let onRej (d : Dev) (k : Reject) : Dev :=
    d.rejectIn (r2 .LOFT_ERR b x) Fld.LOFT_ERR_BUSY_REJ Fld.LOFT_ERR_MALFORMED Fld.LOFT_ERR_BOUNDS k
  match r.name with
  | .LOFT_CTRL => d.writeLoftCtrl b x v onRej
  | .LOFT_CACHE_BASE_LO | .LOFT_CACHE_BASE_HI | .LOFT_CACHE_LEN_LO | .LOFT_CACHE_LEN_HI =>
    if d.cacheMode b x && !d.idleTile b x then onRej d .busyRej
    else (d.store r v).invalidate b x
  | .LOFT_INV => if Fld.LOFT_INV_INV.get v = 1 then d.invalidate b x else d
  | _ => d.writeOr r v none onRej

/-- An invalidation ends. -/
def execLoftInvDone (b x : Nat) (s : State) : Out :=
  onUnit (okSite b x) s fun d => d.setF (r2 .LOFT_STATUS b x) Fld.LOFT_STATUS_INV_BUSY 0

end Sys2Proof.Machine
end

