-- ==== Sys2Proof/Machine/Power.lean ====
section
/-! DEFINITION. Power, heat and calibration (R355-R382): rails, the thermal estimator, the throttle and the stack caps, coolant and
diodes, trips, and the field retrace. -/

namespace Sys2Proof.Machine

/-! ## Numbers -/

/-- The value of an FP32 code as a rational number. -/
def f32Rat (c : W32) : Rat := (fp32.decode c.toNat).toRat

/-- A figure in whole units for a register: rounded down, or up where Config says so; the spec gives no rounding. -/
def shown (q : Rat) : Int := if q = q.floor then q.floor else q.floor + (boolNat (Config.roundsUp q) : Nat)

/-- The smallest natural number at or above a rational one. -/
def ceilNat (q : Rat) : Nat := q.ceil.toNat

/-- The sum of a list of rational numbers. -/
def sumRat (l : List Rat) : Rat := l.foldl (· + ·) 0

/-- The mean of a list, 0 for an empty one. -/
def meanRat (l : List Rat) : Rat := if l.isEmpty then 0 else sumRat l / l.length

/-! ## Rails (Table 11-1) -/

/-- The nominal voltage of a rail other than VCORE, in mV. -/
def nominalMv (r : Nat) : Nat :=
  if r < 24 then 800 else if r < 28 then 1100 else if r < 40 then 750 else if r < 44 then 1200 else 1800

/-- The calibration of a chain for a sample taken at a beat: the corrections in force then, over the factory values (R359,
R381). -/
def Dev.chainAt (d : Dev) (k beat : Nat) : CalPair :=
  let c := match d.cal.block with | some c => nth c.chains k ⟨0, 0⟩ | none => ⟨0, 0⟩
  let x := nth (if d.cal.since ≤ beat then d.cal.now else d.cal.before) k ⟨0, 0⟩
  ⟨c.gain + x.gain, c.offset + x.offset⟩

/-- A reading in 0.1 µV, corrected, in volts. -/
def corrected (c : CalPair) (raw : Int) : Rat := ((raw : Rat) * (1 + (c.gain : Rat) / 10000000) + c.offset) / 10000000

/-- The resistance of a rail's sense element in ohms. -/
def Dev.senseOhm (d : Dev) (r : Nat) : Rat :=
  match d.cal.block with
  | some c =>
    let s := nth c.sense r (0, 0)
    (s.1 : Rat) / 100000000 * (1 + (s.2 : Rat) / 10000000 * Config.senseDelta r)
  | none => 0

/-- Voltage in V and current in A of a sample. -/
def Dev.sampleVI (d : Dev) (r : Nat) (s : RailSample) : Rat × Rat :=
  (corrected (d.chainAt r s.beat) s.volt, corrected (d.chainAt (45 + r) s.beat) s.sense / d.senseOhm r)

/-- Whether a sample of the interval that closes lies in one of the slots 0-14 of a rotation of 16 slots of 10 beats (R358); rotations
are counted from beat 0 (DESIGN CHOICE, log 151). -/
def Dev.inInterval (d : Dev) (s : RailSample) : Bool :=
  decide (d.beat ≤ s.beat + 1000) && decide (s.beat < d.beat) && decide (s.beat % 160 < 150)

/-- Samples with the values of the idle slots between them: the mean of the samples on either side (R358). -/
def withIdle : List (Nat × Rat × Rat) → List (Rat × Rat)
  | [] => []
  | [s] => [s.2]
  | s :: t :: l =>
    let rest := withIdle (t :: l)
    s.2 :: (if s.1 / 160 < t.1 / 160 then ((s.2.1 + t.2.1) / 2, (s.2.2 + t.2.2) / 2) :: rest else rest)

/-- The measured interval of a rail: mean voltage, mean current, power and largest current. -/
def Dev.railMean (d : Dev) (r : Nat) (ss : List RailSample) : Rat × Rat × Rat × Rat :=
  let vi := withIdle ((ss.filter d.inInterval).map fun s => (s.beat, d.sampleVI r s))
  (meanRat (vi.map (·.1)), meanRat (vi.map (·.2)), meanRat (vi.map fun p => p.1 * p.2), maxRat (vi.map (·.2)))

/-! ## Settings (R376) -/

/-- A setting of PWR_THR, PWR_PKG or PWR_DIODE_CFG in force: as the last close of an interval took it. -/
def Dev.setting (d : Dev) (r : Reg) (f : Field) : Nat := f.get ((d.pwr.settings.get (fun _ => none) r.addr).getD r.resetWord)

/-- A close takes the settings, but for a write in its own beat, which waits for the following close. -/
def Dev.takeSettings (d : Dev) : Dev :=
  [r0 .PWR_THR, r0 .PWR_PKG, r0 .PWR_DIODE_CFG].foldl (fun d r =>
    let w := match d.pwr.late.get (fun _ => none) r.addr with
      | some (b, w) => if b = d.beat then w else d.rd r
      | none => d.rd r
    { d with pwr := { d.pwr with settings := d.pwr.settings.set (fun _ => none) r.addr (some w) } }) d

/-! ## The estimator (R360-R362) -/

/-- Sites of a barn cell that are in service. -/
def Dev.cellSites (d : Dev) (b c : Nat) : Nat :=
  ((List.range 48).filter fun i => decide (d.getF (r2 .FAR_SITE b ((c / 4 * 6 + i / 8) * 32 + c % 4 * 8 + i % 8))
    Fld.FAR_SITE_STATE < 2)).length

/-- The barn cells of a half. -/
def halfCells (h : Nat) : List Nat := (List.range 16).filter fun c => c % 4 / 2 == h % 2

/-- A share of a total; the static share where the total is zero. -/
def shareOf (part total static : Rat) : Rat := if total = 0 then static else part / total

/-- Engine activity of a barn node, weighted. -/
def activityOf (cal : CalBlock) (m : PowerSample) (i : Nat) : Rat :=
  sumRat ((List.range 6).map fun e => f32Rat (nth cal.weights e 0) * (nth (nth m.busy i []) e 0 : Nat))

/-- The power of a node (R362), from the powers of the rails. -/
def Dev.nodePower (d : Dev) (cal : CalBlock) (m : PowerSample) (rail : Nat → Rat) (i : Nat) : Rat :=
  if i < 128 then
    let b := i / 16
    let c := i % 16
    let h := 2 * b + c % 4 / 2
    let sf := f32Rat (nth cal.sf (8 * h + d.oppCur h) 0)
    let n (c : Nat) : Rat := d.cellSites b c
    let static := shareOf (n c) (sumRat ((halfCells h).map n)) 0
    let act (c : Nat) : Rat := activityOf cal m (16 * b + c)
    rail h * (sf * static + (1 - sf) * shareOf (act c) (sumRat ((halfCells h).map act)) static)
  else if i < 256 then
    let b := (i - 128) / 16
    let by' (c : Nat) : Rat := (nth m.loftBytes (16 * b + c) 0 : Nat)
    let sfl := f32Rat cal.sfl
    rail (16 + b) * (sfl / 16 + (1 - sfl) * shareOf (by' (i % 16)) (sumRat ((List.range 16).map by')) (1 / 16))
  else if i < 276 then
    let s := i - 256
    let by' (s : Nat) : Rat := (nth m.stackBytes s 0 : Nat)
    let sfh := f32Rat cal.sfh
    rail (24 + s / 5) * (sfh / 5 + (1 - sfh) * shareOf (by' s) (sumRat ((List.range 5).map fun k => by' (s / 5 * 5 + k))) (1 / 5))
  else ((nth m.baseMw (i - 276) 0 : Int) : Rat) / 1000

/-- One step of one node (R361). -/
def Dev.stepNode (d : Dev) (cal : CalBlock) (t : Nat → Rat) (p : Nat → Rat) (pPkg : Rat) (i : Nat) : Rat :=
  let k := nth cal.nodes i (0, 0, 0)
  let cool := d.inlet + f32Rat k.2.2 * pPkg / 1000
  let flow := sumRat (cal.edges.map fun e =>
    if e.1 = i then f32Rat e.2.2 * (t i - t e.2.1) else if e.2.1 = i then f32Rat e.2.2 * (t i - t e.1) else 0)
  t i + (p i - flow - f32Rat k.2.1 * (t i - cool)) / (100000 * f32Rat k.1)

/-- The estimator's step over every node. -/
def Dev.estimate (d : Dev) (m : PowerSample) (rail : Nat → Rat) (pPkg : Rat) : Dev :=
  match d.cal.block with
  | none => d
  | some cal =>
    let new := (List.range 468).map fun i => (i, d.stepNode cal d.nodeT (d.nodePower cal m rail) pPkg i)
    let d := { d with pwr := { d.pwr with stepped := true, temps := new.foldl (fun s p => s.set (fun _ => 0) p.1 p.2) d.pwr.temps } }
    new.foldl (fun d p => d.setF (r1 .NODE_T p.1) Fld.NODE_T_T (codeOf 12 (shown (p.2 * 16)))) d

/-! ## Throttle and stack caps (R206, R207, R369-R373) -/

/-- The barn and loft nodes of a half. -/
def halfNodes (h : Nat) : List Nat :=
  (halfCells h).map (16 * (h / 2) + ·) ++ (halfCells h).map (128 + 16 * (h / 2) + ·)

/-- The temperature term of a half (R370). -/
def Dev.tempTerm (d : Dev) (h : Nat) : Nat :=
  let thr := r0 .PWR_THR
  let e := maxRat ((halfNodes h).map fun i =>
    d.nodeT i - (if i < 128 then d.setting thr Fld.PWR_THR_THR_BARN else d.setting thr Fld.PWR_THR_THR_LOFT : Nat))
  if e ≤ 0 then 0 else min 48 (ceilNat (e * (d.setting thr Fld.PWR_THR_THR_GAIN : Nat) * 64 / 1000))

/-- The diode floor of a half (R367). -/
def Dev.diodeFloor (d : Dev) (h : Nat) : Nat :=
  if d.flag (r1 .DIODE0 (h / 2)) Fld.DIODE0_DISAGREE && d.flag (r0 .PWR_CTRL) Fld.PWR_CTRL_DIODE_EN then
    d.setting (r0 .PWR_DIODE_CFG) Fld.PWR_DIODE_CFG_DISAGREE_SKIP
  else 0

/-- The package term (R371). -/
def Dev.pkgStep (d : Dev) (pPkg : Rat) : Dev :=
  let cfg := r0 .PWR_PKG
  let tdp : Rat := (d.setting cfg Fld.PWR_PKG_TDP_W : Nat)
  let step : Rat := (d.setting cfg Fld.PWR_PKG_STEP_W : Nat)
  let out := r0 .PWR_PKG_POWER
  let pkg := d.getF out Fld.PWR_PKG_POWER_PKG_SKIP
  let hot := if tdp < pPkg then d.pwr.overFor + 1 else 0
  let new :=
    if !d.flag (r0 .PWR_CTRL) Fld.PWR_CTRL_PKG_EN then 0
    else if 7000 < pPkg ∨ (d.setting cfg Fld.PWR_PKG_HOLD ≤ hot ∧ tdp < pPkg) then min 48 (pkg + ceilNat ((pPkg - tdp) / step))
    else if pPkg < tdp - step ∧ 0 < pkg then pkg - 1 else pkg
  let shownP := (shown (pPkg * 8)).toNat
  let d := { d with pwr := { d.pwr with overFor := hot } }
  let d := (d.setF out Fld.PWR_PKG_POWER_POWER shownP).setF out Fld.PWR_PKG_POWER_PKG_SKIP new
  let d := d.setF (r0 .PWR_STATUS) Fld.PWR_STATUS_PKG_ACTIVE (boolNat (new != 0))
  let d := d.setF (r0 .PWR_PKG_MAX) Fld.PWR_PKG_MAX_MAX (max (d.getF (r0 .PWR_PKG_MAX) Fld.PWR_PKG_MAX_MAX) shownP)
  if tdp < pPkg then d.inc (r0 .PWR_PKG_OVER) Fld.PWR_PKG_OVER_OVER else d

/-- The hottest of nodes by temperature, the lowest number on a tie. -/
def Dev.hottest (d : Dev) : List Nat → Nat
  | [] => 0
  | h :: t => t.foldl (fun a i => if d.nodeT a < d.nodeT i then i else a) h

/-- The thermal throttle's demand of a half (R369, R373). -/
def Dev.halfThermal (d : Dev) (h : Nat) : Dev :=
  let hot := d.hottest (sortBy (fun a b => decide (a ≤ b)) (halfNodes h))
  let term := d.tempTerm h
  let floor := d.diodeFloor h
  let r := r1 .HALF_THERMAL1 h
  let fault := d.getF r Fld.HALF_THERMAL1_FAULT_TERM
  let skip := max (max term floor) (max fault (d.getF (r0 .PWR_PKG_POWER) Fld.PWR_PKG_POWER_PKG_SKIP))
  let d := (d.setF (r1 .HALF_THERMAL0 h) Fld.HALF_THERMAL0_HOT_T (codeOf 12 (shown (d.nodeT hot * 16)))).setF
    (r1 .HALF_THERMAL0 h) Fld.HALF_THERMAL0_HOT_NODE hot
  let d := ((d.setF r Fld.HALF_THERMAL1_TEMP_TERM term).setF r Fld.HALF_THERMAL1_FLOOR floor).setF r Fld.HALF_THERMAL1_THERMAL_SKIP skip
  if skip = 0 then d else d.inc (r1 .HALF_THERMAL2 h) Fld.HALF_THERMAL2_THROTTLED

/-- The cap loop of a barn (R206, R207). -/
def Dev.capStep (d : Dev) (b : Nat) (p : Rat) : Dev :=
  let cap := r1 .STACK_CAP b
  let w : Rat := (d.getF cap Fld.STACK_CAP_CAP_W : Nat)
  let out := r1 .STACK_POWER b
  let k := d.getF out Fld.STACK_POWER_CAP_SKIP
  let k := min 48 (
    if w < p then k + ceilNat ((p - w) / (d.getF cap Fld.STACK_CAP_STEP_W : Nat))
    else if p < w - (d.getF cap Fld.STACK_CAP_HYST_W : Nat) ∧ 0 < k then k - 1 else k)
  let maxOf (h : Nat) : Nat := d.getF (r1 .HALF_THROTTLE h) Fld.HALF_THROTTLE_SKIP_MAX
  let sat := decide (w < p) && (decide (maxOf (2 * b) ≤ k) || decide (maxOf (2 * b + 1) ≤ k))
  let shownP := (shown (p * 8)).toNat
  let evt := r1 .STACK_CAP_EVT b
  let d := (d.setF out Fld.STACK_POWER_POWER shownP).setF out Fld.STACK_POWER_CAP_SKIP k
  let d := d.setF (r1 .STACK_POWER_MAX b) Fld.STACK_POWER_MAX_MAX (max (d.getF (r1 .STACK_POWER_MAX b) Fld.STACK_POWER_MAX_MAX) shownP)
  let d := if w < p then d.inc evt Fld.STACK_CAP_EVT_OVER else d
  let d := if sat then (d.inc evt Fld.STACK_CAP_EVT_CAP_SAT).raise (172 + b) else d
  let run := if sat then d.pwr.satRun.get (fun _ => 0) b + 1 else 0
  let d := { d with pwr := { d.pwr with satRun := d.pwr.satRun.set (fun _ => 0) b run } }
  [2 * b, 2 * b + 1].foldl (fun d h => d.setF (r1 .HALF_THROTTLE h) Fld.HALF_THROTTLE_SKIP
    (min (maxOf h) (max k (d.getF (r1 .HALF_THERMAL1 h) Fld.HALF_THERMAL1_THERMAL_SKIP)))) d

/-! ## The interval (R359) -/

/-- What an interval leaves in a rail's registers. -/
def Dev.closeRail (d : Dev) (r : Nat) (m : Rat × Rat × Rat × Rat) : Dev :=
  let d := ((d.setF (r1 .RAIL_V r) Fld.RAIL_V_V (shown (m.1 * 4000)).toNat).setF (r1 .RAIL_I r) Fld.RAIL_I_I
    (shown (m.2.1 * 64)).toNat).setF (r1 .RAIL_P r) Fld.RAIL_P_P (shown (m.2.2.1 * 8)).toNat
  let d := d.setF (r1 .RAIL_STATUS r) Fld.RAIL_STATUS_AT_LIMIT (boolNat (decide (r < 16) && decide (320 ≤ m.2.2.2)))
  let e := d.pwr.energy.get (fun _ => 0) r + m.2.2.1 / 100
  let d := { d with pwr := { d.pwr with energy := d.pwr.energy.set (fun _ => 0) r e } }
  let d := d.setPair (r1 .RAIL_ENERGY_LO r) (r1 .RAIL_ENERGY_HI r) e.floor.toNat
  let left := d.pwr.railLeft.get (fun _ => 0) r - 1
  let d := { d with pwr := { d.pwr with railLeft := d.pwr.railLeft.set (fun _ => 0) r left } }
  let d := if left = 0 then d.setF (r1 .RAIL_STATUS r) Fld.RAIL_STATUS_FAULT 0 else d
  if r < 16 then
    let target : Rat := (d.oppVolt r (d.oppCur r) : Nat)
    d.halfFlag r Fld.HALF_STATUS_VOLT_OK (decide (target - 10 ≤ m.1 * 1000) && decide (m.1 * 1000 ≤ target + 10))
  else d

/-- Whether any rail shows a fault, any diode disagrees, any base node is hot. -/
def Dev.anyRailFault (d : Dev) : Bool := (List.range 45).any fun r => d.flag (r1 .RAIL_STATUS r) Fld.RAIL_STATUS_FAULT
def Dev.anyDisagree (d : Dev) : Bool := (List.range 24).any fun i => d.flag (r1 .DIODE0 i) Fld.DIODE0_DISAGREE
def Dev.baseHot (d : Dev) : Bool := (List.range 192).any fun i => decide (100 < d.nodeT (276 + i))

/-- The fault term of a half stands for 100 intervals (R373): the closes at which it still counts. -/
def Dev.ageTerm (d : Dev) (h : Nat) : Dev :=
  let left := d.pwr.termLeft.get (fun _ => 0) h
  if left = 0 then d.setF (r1 .HALF_THERMAL1 h) Fld.HALF_THERMAL1_FAULT_TERM 0
  else { d with pwr := { d.pwr with termLeft := d.pwr.termLeft.set (fun _ => 0) h (left - 1) } }

/-- The close of an interval: rails, estimator, throttle, caps. -/
def Dev.closeInterval (d : Dev) (m : PowerSample) : Dev :=
  let d := Dev.takeSettings { d with pwr := { d.pwr with closedAt := some d.beat } }
  let ms := (List.range 45).map fun r => d.railMean r (nth m.rails r [])
  let rail (r : Nat) : Rat := (nth ms r (0, 0, 0, 0)).2.2.1
  let pPkg := sumRat ((List.range 45).map rail)
  let d := (List.range 45).foldl (fun d r => d.closeRail r (nth ms r (0, 0, 0, 0))) d
  let d := d.setF (r0 .PWR_STATUS) Fld.PWR_STATUS_RAIL_FAULT (boolNat d.anyRailFault)
  let d := d.estimate m rail pPkg
  let hot := d.baseHot
  let d := if hot && !d.flag (r0 .PWR_STATUS) Fld.PWR_STATUS_BASE_HOT then d.raise 309 else d
  let d := d.setF (r0 .PWR_STATUS) Fld.PWR_STATUS_BASE_HOT (boolNat hot)
  let d := (List.range 16).foldl (fun d h => d.ageTerm h) d
  let d := (List.range 16).foldl (fun d h => d.halfThermal h) (d.pkgStep pPkg)
  (List.range 8).foldl (fun d b => d.capStep b (rail (2 * b) + rail (2 * b + 1) + rail (16 + b))) d

def execPowerInterval (meas : PowerSample) (s : State) : Out :=
  onUnit true s fun d => d.when (d.counting && d.beat % 1000 == 0 && decide (1000 ≤ d.beat) && d.pwr.closedAt != some d.beat) fun d =>
    d.closeInterval meas

/-- The fault term of a half returns to zero (R373). -/
def execFaultTermEnd (h : Nat) (s : State) : Out :=
  onUnit (decide (h < 16)) s fun d =>
    d.when (d.pwr.termLeft.get (fun _ => 0) h == 0) fun d => d.setF (r1 .HALF_THERMAL1 h) Fld.HALF_THERMAL1_FAULT_TERM 0

/-- The next slower point of the act's set, of the valid points where no act is loaded (R374). -/
def Dev.slowerPoint (d : Dev) (h : Nat) : Option Nat :=
  let mine (p : Nat) : Bool := match d.act with | some a => bitOf a.oppSet p | none => d.oppValid h p
  let c := (List.range 8).filter fun p => mine p && decide (d.oppFreq h p < d.oppFreq h (d.oppCur h))
  (sortBy (fun p q => decide (d.oppFreq h q ≤ d.oppFreq h p)) c).head?

/-- After 100 CAP_SAT intervals in a row the Ringmaster lowers both halves by one point within the act's set (R374). -/
def execOppLower (b : Nat) (s : State) : Out :=
  onUnit (decide (b < 8)) s fun d =>
    d.when (d.hasMaster && decide (100 ≤ d.pwr.satRun.get (fun _ => 0) b)) fun d =>
      let d := { d with pwr := { d.pwr with satRun := d.pwr.satRun.set (fun _ => 0) b 0 } }
      [2 * b, 2 * b + 1].foldl (fun d h => match d.slowerPoint h with | some p => d.requestPoint h p | none => d) d

/-- A fault of a rail. -/
def Dev.faultRail (d : Dev) (r : Nat) : Dev :=
  let d := ((d.setF (r1 .RAIL_STATUS r) Fld.RAIL_STATUS_FAULT 1).inc (r1 .RAIL_FAULTS r) Fld.RAIL_FAULTS_CNT).inc
    (r0 .PWR_ERR) Fld.PWR_ERR_RAIL_FAULTS
  let d := (d.setF (r0 .PWR_STATUS) Fld.PWR_STATUS_RAIL_FAULT 1).raise (262 + r)
  let p := d.pwr
  let d := { d with pwr := { p with
    railLeft := p.railLeft.set (fun _ => 0) r 100
    railBeats := p.railBeats.upd (fun _ => []) r fun l => (d.beat :: l).take 16
    termLeft := if r < 16 then p.termLeft.set (fun _ => 0) r 100 else p.termLeft } }
  if r < 16 then d.setF (r1 .HALF_THERMAL1 r) Fld.HALF_THERMAL1_FAULT_TERM 48
  else if r < 28 then d
  else Dev.relevel { d with pwr := { d.pwr with baseFault := true } }

/-- Whether a rail is a VCORE rail in a change of its voltage (R357). -/
def Dev.vcoreMoves (d : Dev) (r : Nat) : Bool :=
  decide (r < 16) && (d.half r).change.isSome && !d.halfIs r Fld.HALF_STATUS_VOLT_OK

/-- Whether a mean of 100 beats in µV lies outside a rail's bounds: its target ±50 mV for VCORE, its nominal ±5 % for another rail. A
rail that the device has switched off is not judged (DEDUCED, log 152). -/
def Dev.outsideBounds (d : Dev) (r uv : Nat) : Bool :=
  if r < 16 then
    let t := d.getF (r1 .RAIL_STATUS r) Fld.RAIL_STATUS_TARGET * 1000
    t != 0 && (decide (uv + 50000 < t) || decide (t + 50000 < uv))
  else
    let n := nominalMv r
    (decide (24 ≤ r) || bitOf d.vloftEn (r - 16)) && (decide (uv < n * 950) || decide (n * 1050 < uv))

/-- The mean voltage of a rail over 100 beats is measured: outside its bounds it is a fault, except during a VCORE change (R357, R373). -/
def execRailFault (r uv : Nat) (s : State) : Out :=
  onUnit (decide (r < 45)) s fun d => d.when (d.outsideBounds r uv && !d.vcoreMoves r) fun d => d.faultRail r

/-! ## Stretching (R64, R65) -/

def Dev.stretchMax (d : Dev) (r : Nat) : Nat :=
  if d.flag (r1 .REGION_CLK_CTRL r) Fld.REGION_CLK_CTRL_STRETCH_EN then
    d.getF (r1 .REGION_CLK_CTRL r) Fld.REGION_CLK_CTRL_STRETCH_MAX
  else 0

/-- A cycle of droop beyond STRETCH_MAX (R65); the 16th of a region in one estimator interval is a fault of its VCORE rail (R357). -/
def Dev.saturate (d : Dev) (r : Nat) : Dev :=
  let i := d.beat / 1000
  let g := d.region r
  let n := if g.satIn = i then g.satCount + 1 else 1
  let d := ((d.inc (r1 .REGION_STRETCH_SAT r) Fld.REGION_STRETCH_SAT_SAT).raise (198 + r)).updRegion r fun g =>
    { g with satIn := i, satCount := n }
  if n = 16 then d.faultRail (halfOfRegion r) else d

/-- A stretch of a region by at most STRETCH_MAX; what lies beyond saturates. -/
def Dev.stretchBy (d : Dev) (r depth : Nat) : Dev :=
  let m := d.stretchMax r
  let n := min depth m
  let d := if n = 0 then d else
    (d.addPair (r1 .REGION_STRETCH_LO r) (r1 .REGION_STRETCH_HI r) 1).updRegion r fun g =>
      { g with stretching := true, units := g.units - 800 * n }
  if depth ≤ m then d else d.saturate r

/-- The replica shows that the next cycle would fail by depth eighths of a period: lengthened as far as STRETCH_MAX allows, and
beyond it counted as saturated (R65). -/
def execStretch (r depth : Nat) (s : State) : Out :=
  onUnit (decide (r < 64)) s fun d =>
    d.when (d.running r && depth != 0) fun d => d.stretchBy r depth

/-! ## Coolant and diodes (R363-R367) -/

/-- Puts an inlet temperature in use. -/
def Dev.setInlet (d : Dev) (t : Int) : Dev := d.setF (r0 .PWR_COOL_T) Fld.PWR_COOL_T_INLET (codeOf 16 t)

/-- FAILSAFE in 1/256 °C. -/
def Dev.failsafe (d : Dev) : Int := (d.getF (r0 .PWR_COOL) Fld.PWR_COOL_FAILSAFE : Int) * 256

/-- Whether a reading is accepted (R364). -/
def Dev.inletOk (d : Dev) (t : Int) : Bool :=
  decide (-10 * 256 ≤ t) && decide (t ≤ 90 * 256) &&
  (match d.pwr.accepted with | some a => decide (t - a ≤ 5 * 256) && decide (a - t ≤ 5 * 256) | none => true)

/-- A coolant reading, or its failure. -/
def Dev.coolantReading (d : Dev) (ack : Bool) (raw : Nat) : Dev :=
  let t := signed 16 raw
  let st := r0 .PWR_STATUS
  if ack && d.inletOk t then
    let good := d.pwr.goodReads + 1
    let d := { d with pwr := { d.pwr with accepted := some t, badReads := 0, goodReads := good } }
    if d.flag st Fld.PWR_STATUS_COOL_FAILSAFE && decide (good < 3) then d
    else ((d.setInlet t).setF st Fld.PWR_STATUS_COOL_FAILSAFE 0).setF st Fld.PWR_STATUS_COOL_VALID 1
  else
    let d := d.inc (r0 .PWR_COOL_T) (if ack then Fld.PWR_COOL_T_IMPLAUS else Fld.PWR_COOL_T_NACK)
    let bad := d.pwr.badReads + 1
    let d := { d with pwr := { d.pwr with badReads := bad, goodReads := 0 } }
    if bad = 3 then
      (((d.setInlet d.failsafe).setF st Fld.PWR_STATUS_COOL_FAILSAFE 1).setF st Fld.PWR_STATUS_COOL_VALID 0).raise 307
    else d

/-- Whether an event of every 100,000 beats is due, last at a beat. -/
def Dev.dueEvery (d : Dev) (n : Nat) (last : Option Nat) : Bool := match last with | some t => decide (t + n ≤ d.beat) | none => true

/-- A read of the inlet sensor, every 100,000 beats (R363): accepted, or counted and after three in a row replaced by FAILSAFE. -/
def execCoolantRead (ack : Bool) (raw : Nat) (s : State) : Out :=
  onUnit true s fun d =>
    d.when (d.flag (r0 .PWR_CTRL) Fld.PWR_CTRL_COOL_EN && d.dueEvery 100000 d.pwr.coolAt) fun d =>
      let d := { d with pwr := { d.pwr with coolAt := some d.beat } }
      (d.emit (.coolant (d.getF (r0 .PWR_COOL) Fld.PWR_COOL_ADDR) (d.getF (r0 .PWR_COOL) Fld.PWR_COOL_REG))).coolantReading ack raw

/-- The node that holds a diode (R366). -/
def diodeNode (i : Nat) : Nat := if i < 8 then 16 * i + 10 else if i < 20 then 276 + 16 * (i - 8) + 5 else 276 + 16 * (i - 16) + 9

def Dev.setDisagree (d : Dev) (i : Nat) (v : Bool) : Dev :=
  let d := d.setF (r1 .DIODE0 i) Fld.DIODE0_DISAGREE (boolNat v)
  d.setF (r0 .PWR_STATUS) Fld.PWR_STATUS_DISAGREE (boolNat d.anyDisagree)

/-- A diode reading, compared with the model. -/
def Dev.diodeReading (d : Dev) (i t : Nat) : Dev :=
  let model := d.nodeT (diodeNode i)
  let r := r1 .DIODE0 i
  let d := (d.setF r Fld.DIODE0_DIODE_T t).setF r Fld.DIODE0_MODEL_T (codeOf 12 (shown (model * 16)))
  let diff := (t : Rat) / 16 - model
  let tol : Rat := (d.setting (r0 .PWR_DIODE_CFG) Fld.PWR_DIODE_CFG_DIODE_TOL : Nat)
  let far := decide (tol < diff) || decide (tol < -diff)
  let bad := if far then d.pwr.diodeBad.get (fun _ => 0) i + 1 else 0
  let good := if far then 0 else d.pwr.diodeGood.get (fun _ => 0) i + 1
  let d := { d with pwr := { d.pwr with
    diodeBad := d.pwr.diodeBad.set (fun _ => 0) i bad
    diodeGood := d.pwr.diodeGood.set (fun _ => 0) i good } }
  let d := if far then d.inc (r1 .DIODE1 i) Fld.DIODE1_MISMATCH else d
  if bad = 3 && !d.flag r Fld.DIODE0_DISAGREE then (d.setDisagree i true).raise 308
  else if 10 ≤ good && !bitOf d.pwr.diodeFailed i then d.setDisagree i false else d

/-- A diode is read, t in 1/16 °C, every 100,000 beats, and compared with the model (R366, R367). -/
def execDiodeRead (i t : Nat) (s : State) : Out :=
  onUnit (decide (i < 24) && decide (t < 4096)) s fun d =>
    d.when (d.dueEvery 100000 (d.pwr.diodeAt.get (fun _ => none) i)) fun d =>
      Dev.diodeReading { d with pwr := { d.pwr with diodeAt := d.pwr.diodeAt.set (fun _ => none) i (some d.beat) } } i t

/-! ## Trips (R368) -/

/-- Whether a diode last read 125 °C or more. -/
def Dev.diodeTrips (d : Dev) (i : Nat) : Bool := decide (125 * 16 ≤ d.getF (r1 .DIODE0 i) Fld.DIODE0_DIODE_T)

/-- Whether a barn or loft node of a barn has reached TRIP_T, or its diode 125 °C. -/
def Dev.barnTrips (d : Dev) (b : Nat) : Bool :=
  let trip : Rat := (d.setting (r0 .PWR_THR) Fld.PWR_THR_TRIP_T : Nat)
  d.diodeTrips b || (d.pwr.stepped && (List.range 16).any fun c =>
    decide (trip ≤ d.nodeT (16 * b + c)) || decide (trip ≤ d.nodeT (128 + 16 * b + c)))

def Dev.countTrip (d : Dev) : Dev := d.inc (r0 .PWR_ERR) Fld.PWR_ERR_TRIPS

/-- A barn trips: GATE in its regions, out of service, TRIPPED; barred after three trips in 2^32 beats (R439). -/
def Dev.tripBarn (d : Dev) (b : Nat) : Dev :=
  let st := r0 .PWR_STATUS
  let d := (d.setF st Fld.PWR_STATUS_TRIPPED (setBitNat (d.getF st Fld.PWR_STATUS_TRIPPED) b true)).gateBarn b true
  let l := ((d.beat :: d.pwr.tripBeats.get (fun _ => []) b).filter fun t => d.beat < t + 2 ^ 32).take 3
  let d := { d with pwr := { d.pwr with tripBeats := d.pwr.tripBeats.set (fun _ => []) b l } }
  let d := if l.length = 3 then d.bar b else d
  ((d.countTrip.raise (310 + b)).barnLeaves b).powerOff b

/-- Whether a base or stack diode's 125 °C is confirmed. -/
def Dev.diodeConfirmed (d : Dev) (i : Nat) : Bool :=
  decide (100 ≤ d.nodeT (diodeNode i)) ||
  (List.range 24).any fun j => decide (8 ≤ j) && j != i && !bitOf d.pwr.diodeFailed j && d.diodeTrips j

/-- The package trips: GATE in every region, level S1. -/
def Dev.tripPackage (d : Dev) : Dev :=
  let ins := (List.range 8).filter (bitOf d.barnsIn)
  let d := (List.range 8).foldl (fun d b => d.gateBarn b true) (d.setF (r0 .PWR_STATUS) Fld.PWR_STATUS_PKG_TRIP 1)
  let d := ins.foldl Dev.powerOff d
  let d := d.countTrip.raise 318
  Dev.newShape { d.setLevel 1 with barnsIn := 0 }

/-- A barn or a diode at its trip temperature. -/
def Dev.tripUnit (d : Dev) (unit : Nat) : Dev :=
  if unit < 8 then
    d.when (d.barnTrips unit && !bitOf (d.getF (r0 .PWR_STATUS) Fld.PWR_STATUS_TRIPPED) unit) fun d => d.tripBarn unit
  else d.when (d.diodeTrips unit && !bitOf d.pwr.diodeFailed unit) fun d =>
    if d.diodeConfirmed unit then
      d.when (!d.flag (r0 .PWR_STATUS) Fld.PWR_STATUS_PKG_TRIP) Dev.tripPackage
    else (({ d with pwr := { d.pwr with diodeFailed := setBitNat d.pwr.diodeFailed unit true } }).setDisagree unit true).raise 308

/-- Trips act in hardware at the beat edge (R368). -/
def Dev.edgeTrips (d : Dev) : Dev := (List.range 24).foldl (fun d i => d.tripUnit i) d

/-- A trip of barn 0-7, or of diode 8-23. -/
def execTrip (unit : Nat) (s : State) : Out :=
  onUnit (decide (unit < 24)) s fun d => d.tripUnit unit

/-! ## Writes of the PWR block and the stack caps -/

def Dev.pwrReject (d : Dev) (_ : Reject) : Dev := d.inc (r0 .PWR_ERR) Fld.PWR_ERR_BOUNDS

/-- Whether a value lies in a range. -/
def within (lo hi v : Nat) : Bool := decide (lo ≤ v) && decide (v ≤ hi)

/-- Whether a value of a PWR register lies outside its stated range. -/
def pwrBad (n : RegName) (v : W32) : Bool :=
  match n with
  | .PWR_THR =>
    !(within 80 100 (Fld.PWR_THR_THR_BARN.get v) && within 75 95 (Fld.PWR_THR_THR_LOFT.get v) && within 5 50 (Fld.PWR_THR_THR_GAIN.get v) &&
      within 100 115 (Fld.PWR_THR_TRIP_T.get v) && decide (Fld.PWR_THR_THR_BARN.get v + 5 ≤ Fld.PWR_THR_TRIP_T.get v))
  | .PWR_PKG =>
    !(within 1000 5800 (Fld.PWR_PKG_TDP_W.get v) && within 1 250 (Fld.PWR_PKG_HOLD.get v) && within 16 255 (Fld.PWR_PKG_STEP_W.get v))
  | .PWR_DIODE_CFG => !(within 2 30 (Fld.PWR_DIODE_CFG_DIODE_TOL.get v) && within 0 48 (Fld.PWR_DIODE_CFG_DISAGREE_SKIP.get v))
  | .PWR_COOL => !within 10 70 (Fld.PWR_COOL_FAILSAFE.get v)
  | _ => false

/-- Writes of the PWR block: three settings wait for the next close (R376); COOL_EN 0 puts FAILSAFE in use. -/
def Dev.writePwr (d : Dev) (r : Reg) (v : W32) : Dev :=
  if pwrBad r.name v then d.pwrReject .bounds
  else
    let old := d.rd r
    let d' := d.store r v
    match r.name with
    | .PWR_THR | .PWR_PKG | .PWR_DIODE_CFG =>
      let keep := match d.pwr.late.get (fun _ => none) r.addr with
        | some (b, w) => if b = d.beat then some (b, w) else some (d.beat, old)
        | none => some (d.beat, old)
      { d' with pwr := { d.pwr with late := d.pwr.late.set (fun _ => none) r.addr keep } }
    | .PWR_CTRL =>
      if Fld.PWR_CTRL_COOL_EN.get v = 0 then (d'.setInlet d.failsafe).setF (r0 .PWR_STATUS) Fld.PWR_STATUS_COOL_VALID 0 else d'
    | .PWR_COOL => if d'.flag (r0 .PWR_CTRL) Fld.PWR_CTRL_COOL_EN then d' else d'.setInlet d'.failsafe
    | _ => d'

/-- Writes of a barn's stack cap registers. -/
def Dev.writeCap (d : Dev) (r : Reg) (v : W32) : Dev :=
  let e := r1 .STACK_ERR r.i
  let onRej (d : Dev) (k : Reject) : Dev := d.rejectIn e Fld.STACK_ERR_BOUNDS Fld.STACK_ERR_MALFORMED Fld.STACK_ERR_BOUNDS k
  match r.name with
  | .STACK_CAP =>
    d.writeOr r v (firstReject false (Fld.STACK_CAP_STEP_W.get v == 0) (!within 100 520 (Fld.STACK_CAP_CAP_W.get v))) onRej
  | _ => d.writeOr r v none onRej

end Sys2Proof.Machine
end

