-- ==== Sys2Proof/Machine/Hbm.lean ====
section
/-! DEFINITION. The HBM controllers: requests, ECC, stream trackers and the stream buffer, temperature, the striped window, and the
retirement of stacks (R209-R228). -/

namespace Sys2Proof.Machine

def Dev.hbm (d : Dev) (n : Nat) : HbmSt := d.hbms.get (fun _ => {}) n
def Dev.setHbm (d : Dev) (n : Nat) (v : HbmSt) : Dev := { d with hbms := d.hbms.set (fun _ => {}) n v }
def Dev.updHbm (d : Dev) (n : Nat) (f : HbmSt → HbmSt) : Dev := d.setHbm n (f (d.hbm n))

/-- Requests being executed: the demand reads that wait. -/
def HbmSt.outstanding (h : HbmSt) : Nat := sumNat (h.fetches.map fun f => f.waits.length)

/-! ## ECC and repair (R214-R216) -/

/-- The row of a stack address needs repair: it is repaired while its bank has a repair left; otherwise the stack is to retire (R216). -/
def Dev.repairRow (d : Dev) (n a : Nat) : Dev :=
  let bank := Config.bankOf n (Config.rowOf n a)
  if (d.hbm n).repairs.get (fun _ => 0) bank < Config.bankRepairs n bank then
    ((d.inc (r1 .HBM_PPR n) Fld.HBM_PPR_SOFT).inc (r1 .HBM_PPR n) Fld.HBM_PPR_HARD_PENDING).updHbm n fun h =>
      { h with repairs := h.repairs.upd (fun _ => 0) bank (· + 1) }
  else d.updHbm n fun h => { h with noRepair := true }

/-- An uncorrectable burst has been read: counted, and its address recorded. -/
def Dev.noteUncorr (d : Dev) (n a : Nat) : Dev :=
  ((d.inc (r1 .HBM_ECC_UNCORR n) Fld.HBM_ECC_UNCORR_UNCORR).setPair (r1 .HBM_ECC_LAST_LO n) (r1 .HBM_ECC_LAST_HI n) (a / 32 * 32)).updHbm n
    fun h => { h with ueBeats := (d.beat :: h.ueBeats.filter fun t => d.beat < t + 2 ^ 32).take 256 }

/-- What a read of the burst at stack address a finds: a correctable error is corrected, an uncorrectable one marks the burst and
its row is repaired. -/
def Dev.eccFound (d : Dev) (n a : Nat) (e : Ecc) : Dev :=
  match e with
  | .clean => d
  | .corrected => d.addPair (r1 .HBM_ECC_CORR_LO n) (r1 .HBM_ECC_CORR_HI n) 1
  | .uncorrectable =>
    let u := (hbmBase n + a) / 32 * 32
    if d.poison.get (fun _ => false) u then d
    else ({ d with poison := d.poison.set (fun _ => false) u true }).repairRow n a

/-- The stack reads bursts: it reports the severity of its on-die ECC (R209), the controller's code finds what it finds in each, and each
uncorrectable one is counted (R214). -/
def Dev.readBursts (d : Dev) (n : Nat) (us : List Nat) (found : List (Nat × Ecc)) (sev : Nat) : Dev :=
  if us.isEmpty then d
  else us.foldl (fun d u =>
    let a := u - hbmBase n
    let d := match found.find? fun f => f.1 / 32 * 32 == a with
      | some f => d.eccFound n a f.2
      | none => d
    if d.poisonAt u then d.noteUncorr n a else d) (d.updHbm n fun h => { h with severity := some sev })

/-- The bursts of a write that a merge reads: those it covers in part, and for an atomic or reduction all (R214). -/
def mergedBursts (n a len : Nat) (all : Bool) : List Nat :=
  let at_ := hbmBase n + a
  (unitsOf at_ len).filter fun u => all || decide (u < at_) || decide (at_ + len < u + 32)

/-! ## The stream buffer and the trackers (R219-R223) -/

def lineOf (a : Nat) : Nat := a / 1024

/-- The lines that a range touches. -/
def linesOf (a n : Nat) : List Nat := if n = 0 then [] else (List.range (lineOf (a + n - 1) - lineOf a + 1)).map (lineOf a + ·)

def HbmSt.buffered (h : HbmSt) (l : Nat) : Bool := h.lines.any fun b => b.line == l
def HbmSt.fetching (h : HbmSt) (l : Nat) : Bool := h.fetches.any fun f => f.line == l

/-- Starts the fetch of a line that is neither buffered nor in fetch, within the stack. -/
def HbmSt.fetch (h : HbmSt) (l : Nat) : HbmSt :=
  if h.buffered l || h.fetching l || decide (stackBytes / 1024 ≤ l) then h
  else { h with fetches := h.fetches ++ [{ line := l }] }

/-- An enabled block region that holds a line: its base line and lines per block (R222). -/
def Dev.blockRegion (d : Dev) (n l : Nat) : Option (Nat × Nat) :=
  (List.range 8).findSome? fun i =>
    let base := (d.pair (r2 .TRK_REGION0 n i) (r2 .TRK_REGION1 n i)) % 2 ^ 37 / 1024
    let len := (d.pair (r2 .TRK_REGION2 n i) (r2 .TRK_REGION3 n i)) % 2 ^ 37 / 1024
    if d.flag (r2 .TRK_REGION0 n i) Fld.TRK_REGION0_EN && decide (base ≤ l) && decide (l < base + len) then
      some (base, 2 ^ d.getF (r2 .TRK_REGION1 n i) Fld.TRK_REGION1_SHIFT)
    else none

/-- The tracker with the oldest demand makes room where all 64 are in use (R223); the flag says whether one was taken. -/
def HbmSt.roomForTracker (h : HbmSt) : HbmSt × Bool :=
  if h.trackers.length < 64 then (h, false)
  else
    let oldest := h.trackers.foldl (fun m t => min m t.last) (2 ^ 64)
    ({ h with trackers := eraseFirst (fun t => t.last == oldest) h.trackers }, true)

/-- Whether a tracker covers a line. -/
def Tracker.covers (t : Tracker) (depth l : Nat) : Bool := decide (t.line ≤ l) && decide (l ≤ t.line + depth)

/-- The tracker that a demand line meets: the stream's own, which follows its stream from line to line whatever DEPTH is (DEDUCED,
log 131); otherwise any that covers the line. -/
def HbmSt.tracker (h : HbmSt) (k : StreamKey) (depth l : Nat) : Option Tracker :=
  match h.trackers.find? fun t => t.key == k && t.covers (max 1 depth) l with
  | some t => some t
  | none => h.trackers.find? fun t => t.covers depth l

def Dev.countSteal (d : Dev) (n : Nat) (stolen : Bool) : Dev := if stolen then d.inc (r1 .TRK_STEAL n) Fld.TRK_STEAL_STEAL else d

/-- What one demand line does to the trackers (R221, R222). -/
def Dev.demandLine (d : Dev) (n : Nat) (k : StreamKey) (l : Nat) : Dev :=
  let h := d.hbm n
  let note (h : HbmSt) : HbmSt := { h with recent := ((k, l) :: h.recent).take 256 }
  if !d.flag (r1 .HBM_CTRL n) Fld.HBM_CTRL_TRACK_EN then d.setHbm n (note h)
  else
    match d.blockRegion n l with
    | some (base, size) =>
      let first := base + (l - base) / size * size
      let block := (List.range size).map (first + ·)
      if block.any fun i => h.buffered i || h.fetching i then d.setHbm n (note h)
      else
        let (h, stolen) := h.roomForTracker
        (d.setHbm n (note (block.foldl HbmSt.fetch h))).countSteal n stolen
    | none =>
      let depth := d.getF (r1 .TRK_CTRL n) Fld.TRK_CTRL_DEPTH
      let ahead (h : HbmSt) : HbmSt := ((List.range depth).map (l + 1 + ·)).foldl HbmSt.fetch h
      match h.tracker k depth l with
      | some t =>
        if t.key = k then
          let step (t : Tracker) : Tracker := { t with line := l, last := d.beat }
          d.setHbm n (note (ahead { h with trackers := updFirst (fun u => u == t) step h.trackers }))
        else d.setHbm n (note h)
      | none =>
        if h.recent.any fun r => r.1 == k && r.2 + 1 == l then
          let (h, stolen) := h.roomForTracker
          (d.setHbm n (note (ahead { h with trackers := h.trackers ++ [⟨k, l, d.beat⟩] }))).countSteal n stolen
        else d.setHbm n (note h)

/-! ## Requests (R217, R218) -/

/-- A reply of a controller, recorded where the ledger governs the request; it leaves through the controller's port router. The rejection
of a posted packet joins the status of its copy (R104). -/
def Dev.hbmReply (d : Dev) (n : Nat) (p : Packet) (status : Nat) (data : List Byte) (marks : List Bool) : Dev :=
  let d := if ledgered p then d.recordResult (8 + n) p status data else d
  if awaitsReply p then d.send (.port (8 + n) 32) (mkReply p status data marks) else d.noteReject p status

/-- A read is answered from memory as it stands; one delivered POISON counts (R214). -/
def Dev.answerRead (d : Dev) (n : Nat) (p : Packet) : Dev :=
  let a := d.stackOffset (pAddr p)
  let ms := d.marksOf (hbmBase n + a) (pLen p)
  let d' := if ms.isEmpty then d else d.inc (r1 .HBM_ERR n) Fld.HBM_ERR_POISON
  d'.hbmReply n p (markStatus ms stOk) (d.stackBytesAt (pAddr p) (hbmBase n + a) (pLen p)) ms

/-- Whether a range touches a line. -/
def touchesLine (a len l : Nat) : Bool := len != 0 && decide (lineOf a ≤ l) && decide (l ≤ lineOf (a + len - 1))

/-- Whether a waiting read has a line in a range. -/
def Dev.readMeets (d : Dev) (a len : Nat) (p : Packet) : Bool := (linesOf (d.stackOffset (pAddr p)) (pLen p)).any (touchesLine a len)

/-- Before a write takes effect its lines leave the buffer and a line in fetch is discarded on arrival (R220). Reads that wait for a
fetch and touch those lines came before the write, so they are answered first (R218). -/
def Dev.dropLines (d : Dev) (n a len : Nat) : Dev :=
  let h := d.hbm n
  let waits := (h.fetches.flatMap Fetch.waits).filter (d.readMeets a len)
  let d := waits.foldl (fun d p => d.answerRead n p) d
  d.updHbm n fun h => { h with
    lines := h.lines.filter fun b => !touchesLine a len b.line
    fetches := h.fetches.map fun f =>
      { f with waits := f.waits.filter fun p => !d.readMeets a len p, discard := f.discard || touchesLine a len f.line } }

/-- A range of a stack is set to zero. -/
def Dev.zeroStack (d : Dev) (n a len : Nat) : Dev :=
  let d := ((d.dropLines n a len).addPair (r1 .HBM_WRITE_BYTES_LO n) (r1 .HBM_WRITE_BYTES_HI n) len).zero (hbmBase n + a) len
  if d.winChanges = 0 || len = 0 then d else { d with winWritten := (hbmBase n + a, len) :: d.winWritten }

/-- Whether a range meets an enabled write-protect window. -/
def Dev.protectedRange (d : Dev) (n a len : Nat) : Bool :=
  (List.range 8).any fun i =>
    let base := (d.pair (r2 .HBM_WP0 n i) (r2 .HBM_WP1 n i)) % 2 ^ 37 / 1024 * 1024
    let wlen := (d.pair (r2 .HBM_WP2 n i) (r2 .HBM_WP3 n i)) % 2 ^ 37 / 1024 * 1024
    d.flag (r2 .HBM_WP0 n i) Fld.HBM_WP0_EN && decide (a < base + wlen) && decide (base < a + len) && len != 0 && wlen != 0

/-- A read waits for the first of its lines that is in fetch; with none in fetch it is answered. -/
def Dev.waitOrAnswer (d : Dev) (n : Nat) (p : Packet) : Dev :=
  let h := d.hbm n
  match (linesOf (d.stackOffset (pAddr p)) (pLen p)).find? fun l => h.fetches.any fun f => f.line == l && !f.discard with
  | some l => d.updHbm n fun h =>
      { h with fetches := updFirst (fun f => f.line == l && !f.discard) (fun f => { f with waits := f.waits ++ [p] }) h.fetches }
  | none => d.answerRead n p

/-- A read at a controller (R219): from the buffer, or after the fetches under way, or from the stack. -/
def Dev.hbmRead (d : Dev) (n : Nat) (p : Packet) (found : List (Nat × Ecc)) (sev : Nat) : Dev :=
  let a := d.stackOffset (pAddr p)
  let ls := linesOf a (pLen p)
  let h := d.hbm n
  let k : StreamKey := ⟨pSrcMember p, pSrcBarn p, pSrcSite p⟩
  let d' :=
    if ls.all fun l => h.buffered l || (h.fetching l && !(h.fetches.any fun f => f.line == l && f.discard)) then
      let d := (d.inc (r1 .TRK_HIT n) Fld.TRK_HIT_HIT).updHbm n fun h =>
        { h with lines := h.lines.map fun b => if ls.contains b.line then { b with used := true } else b }
      d.waitOrAnswer n p
    else
      let d := (d.inc (r1 .TRK_MISS n) Fld.TRK_MISS_MISS).addPair (r1 .HBM_READ_BYTES_LO n) (r1 .HBM_READ_BYTES_HI n) (pLen p)
      (d.readBursts n (unitsOf (hbmBase n + a) (pLen p)) found sev).answerRead n p
  ls.foldl (fun d l => d.demandLine n k l) d'

/-- A write, atomic or reduction at a controller (R160, R161, R214). -/
def Dev.hbmWrite (d : Dev) (n : Nat) (p : Packet) (found : List (Nat × Ecc)) (sev : Nat) : Dev :=
  let a := d.stackOffset (pAddr p)
  let len := reqBytes p
  let at_ := hbmBase n + a
  let d := (d.dropLines n a len).addPair (r1 .HBM_WRITE_BYTES_LO n) (r1 .HBM_WRITE_BYTES_HI n) len
  let d := d.readBursts n (mergedBursts n a len (pType p != tyWRITE && pType p != tyMCAST)) found sev
  if pType p = tyWRITE || pType p = tyMCAST then (d.writeStackMarked at_ p.data p.marks).hbmReply n p stOk [] []
  else if d.poisoned at_ len then
    let d := if awaitsReply p then d else d.inc (r1 .HBM_ERR n) Fld.HBM_ERR_POISON
    d.hbmReply n p stPoison [] []
  else if pType p = tyATOMIC then
    let old := natLE (d.stackBytesAt (pAddr p) at_ len)
    (d.writeStackMarked at_ (bytesLE (atomicNew p old) len) (if p.marks.isEmpty then [] else List.replicate len true)).hbmReply
      n p stOk (bytesLE old len) []
  else
    (d.writeStackMarked at_ (combineRow (pAop p) (pDtype p) (d.stackBytesAt (pAddr p) at_ len) p.data) p.marks).hbmReply n p stOk [] []

/-- A packet at a controller: the checks of R217 in order, then its execution. -/
def Dev.hbmRequest (d : Dev) (n : Nat) (p : Packet) (found : List (Nat × Ecc)) (sev : Nat) : Dev :=
  let a := d.stackOffset (pAddr p)
  let len := reqBytes p
  let e := r1 .HBM_ERR n
  let accept := d.flag (r1 .HBM_CTRL n) Fld.HBM_CTRL_ACCEPT && !d.flag (r1 .HBM_STATUS n) Fld.HBM_STATUS_RETIRED
  if !accept then (d.inc e Fld.HBM_ERR_DENIED).hbmReply n p stDenied [] []
  else if stackBytes < a + len then (d.inc e Fld.HBM_ERR_BOUNDS).hbmReply n p stBounds [] []
  else if pType p != tyREAD && d.protectedRange n a len then (d.inc e Fld.HBM_ERR_DENIED).hbmReply n p stDenied [] []
  else if len = 0 then d.hbmReply n p stOk [] []
  else if pType p = tyREAD then d.hbmRead n p found sev
  else d.hbmWrite n p found sev

/-- Whether two packets have one source and one virtual network (R179, R218). -/
def sameStream (p q : Packet) : Bool :=
  pSrcMember p == pSrcMember q && pSrcBarn p == pSrcBarn q && pSrcTile p == pSrcTile q && pVn p == pVn q

/-- Whether no packet of the same source and network came to a place before a packet. -/
def Dev.inTurn (d : Dev) (place : Place) (p : Packet) : Bool :=
  let l := (d.net.filter fun f => f.place == place && sameStream f.pkt p).map Flight.pkt
  !l.contains p || l.head? == some p

def execHbmRequest (n : Nat) (pkt : Packet) (found : List (Nat × Ecc)) (sev : Nat) (s : State) : Out :=
  onUnit (decide (n < 20)) s fun d =>
    d.when (!isReply pkt && d.inTurn (.hbm n) pkt) fun d => (d.take (.hbm n) pkt).hbmRequest n pkt found sev

/-- A prefetched line arrives: buffered, the oldest fill leaving where the buffer is full, and its waiting reads answered, unless another
of their lines is still in fetch. -/
def Dev.fillBuffer (d : Dev) (n : Nat) (f : Fetch) (found : List (Nat × Ecc)) (sev : Nat) : Dev :=
  let d := (d.inc (r1 .TRK_PF_LINES n) Fld.TRK_PF_LINES_LINES).addPair (r1 .HBM_READ_BYTES_LO n) (r1 .HBM_READ_BYTES_HI n) 1024
  let d := d.updHbm n fun h => { h with fetches := eraseFirst (· == f) h.fetches }
  let d := d.readBursts n (unitsOf (hbmBase n + f.line * 1024) 1024) found sev
  if f.discard then f.waits.foldl (fun d p => d.waitOrAnswer n p) d
  else
    let h := d.hbm n
    let full := decide (32768 ≤ h.lines.length)
    let unread := full && (match h.lines with | b :: _ => !b.used | [] => false)
    let new : BufLine := { line := f.line, fill := d.beat, used := !f.waits.isEmpty }
    let d := d.setHbm n { h with lines := (if full then h.lines.drop 1 else h.lines) ++ [new] }
    let d := if unread then d.inc (r1 .TRK_PF_UNUSED n) Fld.TRK_PF_UNUSED_UNUSED else d
    f.waits.foldl (fun d p => d.waitOrAnswer n p) d

def execPrefetchFill (n line : Nat) (found : List (Nat × Ecc)) (sev : Nat) (s : State) : Out :=
  onUnit (decide (n < 20)) s fun d =>
    match (d.hbm n).fetches.find? fun f => f.line == line with
    | some f => d.when (!d.flag (r1 .HBM_STATUS n) Fld.HBM_STATUS_RETIRED) fun d => d.fillBuffer n f found sev
    | none => d

/-- A buffered line reaches LINE_TTL (R219). -/
def execLineExpire (n line : Nat) (s : State) : Out :=
  onUnit (decide (n < 20)) s fun d =>
    match (d.hbm n).lines.find? fun b => b.line == line with
    | some b =>
      d.when (decide (b.fill + d.getF (r1 .TRK_TIME n) Fld.TRK_TIME_LINE_TTL ≤ d.beat)) fun d =>
        let d := d.updHbm n fun h => { h with lines := eraseFirst (fun c => c.line == line) h.lines }
        if b.used then d else d.inc (r1 .TRK_PF_UNUSED n) Fld.TRK_PF_UNUSED_UNUSED
    | none => d

/-- A tracker sees no demand for IDLE beats (R221). -/
def execTrackerIdle (n i : Nat) (s : State) : Out :=
  onUnit (decide (n < 20)) s fun d =>
    match (d.hbm n).trackers[i]? with
    | some t =>
      d.when (decide (t.last + d.getF (r1 .TRK_TIME n) Fld.TRK_TIME_IDLE ≤ d.beat)) fun d =>
        d.updHbm n fun h => { h with trackers := h.trackers.eraseIdx i }
    | none => d

/-! ## Training, temperature, scrub (R212, R213, R215) -/

/-- A stack trains at start, or is retired (R212). -/
def execHbmTraining (n : Nat) (passed : Bool) (s : State) : Out :=
  onUnit (decide (n < 20)) s fun d =>
    let st := r1 .HBM_STATUS n
    d.when (d.phase == 3 && !d.flag st Fld.HBM_STATUS_TRAINED && !d.flag st Fld.HBM_STATUS_RETIRED) fun d =>
      if passed then d.setF st Fld.HBM_STATUS_TRAINED 1 else d.setF st Fld.HBM_STATUS_RETIRED 1

/-- Timing tracking inside the refresh windows, every 2^20 beats. -/
def execHbmTracking (n : Nat) (s : State) : Out :=
  onUnit (decide (n < 20)) s fun d =>
    d.when (d.stackIn n && d.beat % 2 ^ 20 == 0) fun d => d.updHbm n fun h => { h with tracked := some d.beat }

/-- Sets a status bit, raising the controller's source where it changes from 0 to 1. -/
def Dev.hbmAlarm (d : Dev) (n : Nat) (f : Field) (v : Bool) : Dev :=
  let st := r1 .HBM_STATUS n
  let d' := d.setF st f (boolNat v)
  if v && !d.flag st f then d'.raise (120 + n) else d'

/-- Whether model and readout differ by more than 10 °C. -/
def Dev.hbmDiffers (d : Dev) (n : Nat) : Bool :=
  match (d.hbm n).readout with
  | some t => decide (10 < d.nodeT (256 + n) - (t : Nat)) || decide (10 < (t : Rat) - d.nodeT (256 + n))
  | none => false

/-- A stack's temperature, as modelled and as used, and the alarms that follow. -/
def Dev.hbmThermal (d : Dev) (n : Nat) : Dev :=
  let model := d.nodeT (256 + n)
  let used := match (d.hbm n).readout with | some t => if model < (t : Nat) then ((t : Nat) : Rat) else model | none => model
  let r := r1 .HBM_TEMP n
  let d := (d.setF r Fld.HBM_TEMP_MODEL (codeOf 8 (shown model))).setF r Fld.HBM_TEMP_USED (codeOf 8 (shown used))
  let d := d.setF (r1 .HBM_STATUS n) Fld.HBM_STATUS_HOT (boolNat (decide (85 < used)))
  let limiting := decide (95 ≤ used) || (d.flag (r1 .HBM_STATUS n) Fld.HBM_STATUS_LIMITING && decide (90 ≤ used))
  let d := d.hbmAlarm n Fld.HBM_STATUS_LIMITING limiting
  if d.hbmDiffers n then d.hbmAlarm n Fld.HBM_STATUS_DISAGREE true else d

/-- The controller acts on the higher of the modelled temperature and the readout (R213). -/
def execHbmThermalUpdate (n : Nat) (s : State) : Out :=
  onUnit (decide (n < 20)) s fun d =>
    d.when (d.stackIn n && d.beat % 1000 == 0) fun d => d.hbmThermal n

/-- Every 2^20 beats the controller reads the stack's own readout, t in °C; DISAGREE clears where the two agree again. -/
def execHbmReadout (n t : Nat) (s : State) : Out :=
  onUnit (decide (n < 20) && decide (t < 256)) s fun d =>
    d.when (d.stackIn n && d.beat % 2 ^ 20 == 0) fun d =>
      let d := (d.updHbm n fun h => { h with readout := some t }).setF (r1 .HBM_TEMP n) Fld.HBM_TEMP_STACK t
      d.hbmAlarm n Fld.HBM_STATUS_DISAGREE (d.hbmDiffers n)

/-- What the scrub of a stack's line finds. -/
def Dev.scrubStack (d : Dev) (n addr : Nat) (ecc : Ecc) (sev : Nat) : Dev :=
  let fresh := ecc == .uncorrectable && !d.poisonAt (hbmBase n + addr)
  let d := (d.updHbm n fun h => { h with severity := some sev }).eccFound n addr ecc
  let d := if fresh then d.noteUncorr n addr else d
  if ecc = .corrected then
    let row := Config.rowOf n addr
    let pass := d.beat / (max 1 (d.getF (r1 .HBM_SCRUB n) Fld.HBM_SCRUB_PERIOD) * 2 ^ 20)
    let again := (d.hbm n).scrubbed.any fun e => e.1 == row && e.2 + 1 == pass
    let d := d.updHbm n fun h => { h with scrubbed := (row, pass) :: h.scrubbed.filter fun e => e.1 != row }
    if again then d.repairRow n addr else d
  else d

/-- The patrol scrub reads and checks the burst at a stack address (R215, R216). -/
def execHbmScrub (n addr : Nat) (ecc : Ecc) (sev : Nat) (s : State) : Out :=
  onUnit (decide (n < 20) && decide (addr < stackBytes)) s fun d =>
    d.when (d.stackIn n && d.flag (r1 .HBM_CTRL n) Fld.HBM_CTRL_SCRUB_EN) fun d => d.scrubStack n addr ecc sev

/-! ## The window (R224-R227) -/

/-- WIN_CTRL: COMMIT (R226). -/
def Dev.winCommit (d : Dev) : Dev :=
  let mask := d.getF (r0 .WIN_MASK) Fld.WIN_MASK_MASK
  let c := d.pair (r0 .WIN_APPLY_LO) (r0 .WIN_APPLY_HI)
  let bad := (List.range 20).any fun n => bitOf mask n && !d.stackIn n
  match firstReject d.winNext.isSome bad (decide (c < d.beat + 1000)) with
  | some k => d.rejectIn (r0 .WIN_ERR) Fld.WIN_ERR_BUSY_REJ Fld.WIN_ERR_MALFORMED Fld.WIN_ERR_BOUNDS k
  | none => { d.setF (r0 .WIN_CTRL) Fld.WIN_CTRL_PENDING 1 with winNext := some (mask, c) }

def Dev.writeWin (d : Dev) (r : Reg) (v : W32) : Dev :=
  match r.name with
  | .WIN_CTRL => if Fld.WIN_CTRL_COMMIT.get v = 1 then d.winCommit else d
  | _ => d.writeOr r v none fun d _ => d

/-- A stack that retires stops accepting once the window no longer maps to it (Table 06-2). -/
def Dev.stopAccepting (d : Dev) (mask : Nat) : Dev :=
  (List.range 20).foldl (fun d n =>
    if (d.hbm n).retiring.isSome && (d.hbm n).closedAt.isNone && !bitOf mask n then
      (d.setF (r1 .HBM_CTRL n) Fld.HBM_CTRL_ACCEPT 0).updHbm n fun h => { h with closedAt := some d.beat }
    else d) d

/-- A window mask takes effect: no data moves, and where the window changes its contents are undefined from then on (R227). -/
def Dev.windowInForce (d : Dev) (mask : Nat) : Dev :=
  let same := d.getF (r0 .WIN_IN_FORCE) Fld.WIN_IN_FORCE_MASK == mask
  let d := (d.setF (r0 .WIN_IN_FORCE) Fld.WIN_IN_FORCE_MASK mask).setF (r0 .WIN_CTRL) Fld.WIN_CTRL_PENDING 0
  let d := if same then d else { d with winChanges := d.winChanges + 1, winWritten := [] }
  Dev.stopAccepting { d with winNext := none } mask

/-- The new mask takes effect in every router and engine (R226). -/
def Dev.winDue (d : Dev) : Dev :=
  match d.winNext with
  | some (mask, c) => d.when (decide (c ≤ d.beat)) fun d => d.windowInForce mask
  | none => d

def execWinApply (s : State) : Out := onUnit true s Dev.winDue

/-! ## Retirement (R228) -/

/-- HBM_CTRL.RETIRE: the stack's interface stops and its stream buffer empties; reads that still wait stay outstanding. -/
def Dev.hbmRetire (d : Dev) (n : Nat) : Dev :=
  ((d.setF (r1 .HBM_CTRL n) Fld.HBM_CTRL_RETIRE 1).setF (r1 .HBM_STATUS n) Fld.HBM_STATUS_RETIRED 1).updHbm n fun h =>
    { h with lines := [], trackers := [], fetches := h.fetches.filter fun f => !f.waits.isEmpty }

/-- The Ringmaster retires a stack in service: GENERATION becomes odd and issue closes (Table 06-2). -/
def Dev.retireStack (d : Dev) (n : Nat) : Dev :=
  let d := d.openShape
  let d := (List.range 8).foldl (fun d b =>
    d.setF (r1 .STACK_SVC b) Fld.STACK_SVC_SVC (setBitNat (d.getF (r1 .STACK_SVC b) Fld.STACK_SVC_SVC) n false)) d
  let g := r0 .GATE_STACK_SVC
  let d := d.setF g Fld.GATE_STACK_SVC_SVC (setBitNat (d.getF g Fld.GATE_STACK_SVC_SVC) n false)
  d.updHbm n fun h => { h with retiring := some d.beat, masked := false, closedAt := none }

/-- The stacks that are being retired, as a mask. -/
def Dev.retiringMask (d : Dev) : Nat := maskOf 20 fun n => (d.hbm n).retiring.isSome

/-- 20 beats after a retirement began the window without the stack is committed, for 1,080 beats later (Table 06-2); a commit that is
pending then ends first. -/
def Dev.maskStack (d : Dev) (n : Nat) : Dev :=
  match (d.hbm n).retiring with
  | some t =>
    d.when (!(d.hbm n).masked && d.winNext.isNone && decide (t + 20 ≤ d.beat)) fun d =>
      let inForce := d.getF (r0 .WIN_IN_FORCE) Fld.WIN_IN_FORCE_MASK
      let mask := inForce - Nat.land inForce d.retiringMask
      let d := (d.setF (r0 .WIN_MASK) Fld.WIN_MASK_MASK mask).setPair (r0 .WIN_APPLY_LO) (r0 .WIN_APPLY_HI) (d.beat + 1080)
      (d.winCommit).updHbm n fun h => { h with masked := true }
  | none => d

def execStackRetire (n : Nat) (s : State) : Out :=
  onUnit (decide (n < 20)) s fun d =>
    d.when (d.hasMaster && d.stackIn n && (d.hbm n).retiring.isNone && d.winNext.isNone) fun d => d.retireStack n

/-- Whether a site's cache range touches a stack or the window. -/
def Dev.cacheTouches (d : Dev) (b x n : Nat) : Bool :=
  d.cacheMode b x && (addrTarget (d.cacheBase b x) == 8 + n || addrTarget (d.cacheBase b x) == 28)

/-- A drained stack is retired, and cached lines of it are dropped. -/
def Dev.stackDrained (d : Dev) (n : Nat) : Dev :=
  let d := (d.hbmRetire n).updHbm n fun h => { h with retiring := none, closedAt := none, masked := false }
  let d := (List.range 8).foldl (fun d b => (List.range 768).foldl (fun d x =>
    if d.cacheTouches b x n then d.invalidate b x else d) d) d
  d.newShape

/-- OUTSTANDING has reached 0: the stack is retired, caches over it are invalidated, and the shape table is completed. -/
def execStackRetireDrained (n : Nat) (s : State) : Out :=
  onUnit (decide (n < 20)) s fun d =>
    let h := d.hbm n
    d.when (d.hasMaster && h.retiring.isSome && !d.flag (r1 .HBM_CTRL n) Fld.HBM_CTRL_ACCEPT && h.outstanding == 0) fun d => d.stackDrained n

/-- A command that a retiring stack has not answered 1,000 beats after it stopped accepting completes with POISON, lowering OUTSTANDING:
the i-th that waits. -/
def execHbmCommandTimeout (n i : Nat) (s : State) : Out :=
  onUnit (decide (n < 20)) s fun d =>
    let h := d.hbm n
    match (h.fetches.flatMap Fetch.waits)[i]?, h.closedAt with
    | some p, some c =>
      d.when (!d.flag (r1 .HBM_CTRL n) Fld.HBM_CTRL_ACCEPT && decide (c + 1000 ≤ d.beat)) fun d =>
        let data := d.stackBytesAt (pAddr p) (hbmBase n + d.stackOffset (pAddr p)) (pLen p)
        let drop (f : Fetch) : Fetch := { f with waits := eraseFirst (· == p) f.waits }
        (d.setHbm n { h with fetches := updFirst (fun f => f.waits.contains p) drop h.fetches }).hbmReply n p stPoison data
          (List.replicate data.length true)
    | _, _ => d

/-! ## Register writes -/

/-- Whether an entry of a window or region changes a field other than EN while EN is 1. -/
def Dev.entryBusy (d : Dev) (head : Reg) (r : Reg) (v : W32) : Bool :=
  let en := (d.rd head).toNat % 2 == 1
  let drop := if r = head then 2 else 1
  en && (writeWord r.name.fields (d.rd r) v).toNat / drop != (d.rd r).toNat / drop

/-- Whether setting EN of a write-protect window is rejected. -/
def Dev.wpBad (d : Dev) (n i : Nat) (v : W32) : Bool :=
  let base := (v.toNat + (d.rd (r2 .HBM_WP1 n i)).toNat % 32 * 2 ^ 32) / 1024 * 1024
  let len := (d.pair (r2 .HBM_WP2 n i) (r2 .HBM_WP3 n i)) % 2 ^ 37 / 1024 * 1024
  v.toNat % 2 == 1 && decide (stackBytes < base + len)

/-- Whether setting EN of a block region is rejected. -/
def Dev.regionBad (d : Dev) (n i : Nat) (v : W32) : Bool :=
  let base := (v.toNat + (d.rd (r2 .TRK_REGION1 n i)).toNat % 32 * 2 ^ 32) / 1024 * 1024
  let len := (d.pair (r2 .TRK_REGION2 n i) (r2 .TRK_REGION3 n i)) % 2 ^ 37 / 1024 * 1024
  let k := d.getF (r2 .TRK_REGION1 n i) Fld.TRK_REGION1_SHIFT
  v.toNat % 2 == 1 && (k == 7 || base % (1024 * 2 ^ k) != 0 || len % (1024 * 2 ^ k) != 0 || decide (stackBytes < base + len))

/-- Writes of a controller's registers. -/
def Dev.writeHbm (d : Dev) (r : Reg) (v : W32) : Dev :=
  let n := r.i
  let rej (d : Dev) (_ : Reject) : Dev := d.inc (r1 .HBM_ERR n) Fld.HBM_ERR_REG_REJ
  let out (bad : Bool) : Dev := d.writeOr r v (firstReject false false bad) rej
  match r.name with
  | .HBM_CTRL =>
    let d' := out false
    if Fld.HBM_CTRL_RETIRE.get v = 1 then d'.hbmRetire n else d'
  | .HBM_SCRUB => out (Fld.HBM_SCRUB_PERIOD.get v == 0)
  | .TRK_CTRL => out (decide (512 < Fld.TRK_CTRL_DEPTH.get v) || decide (100 < Fld.TRK_CTRL_PF_SHARE.get v))
  | .HBM_WP0 => out (d.entryBusy (r2 .HBM_WP0 n r.j) r v || d.wpBad n r.j v)
  | .HBM_WP1 | .HBM_WP2 | .HBM_WP3 => out (d.entryBusy (r2 .HBM_WP0 n r.j) r v)
  | .TRK_REGION0 => out (d.entryBusy (r2 .TRK_REGION0 n r.j) r v || d.regionBad n r.j v)
  | .TRK_REGION1 | .TRK_REGION2 | .TRK_REGION3 => out (d.entryBusy (r2 .TRK_REGION0 n r.j) r v)
  | _ => out false

end Sys2Proof.Machine
end

