-- ==== Sys2Proof/Machine/Coding.lean ====
section
/-! DEFINITION. What links carry bit by bit: the lane words of the Jenong base and their CRC-32C (R234), and the codewords of the yard:
header, scrambler, RS(544,514) and PAM4 levels (R258, R260), with the training frames of R261. -/

namespace Sys2Proof.Machine

/-! ## Flits as bytes -/

/-- The i-th flit of a packet as bytes (R164): the first holds the header and 96 bytes of data, the others 128 bytes of data. -/
def flitBytes (p : Packet) (i : Nat) : List Byte :=
  if i = 0 then bytesLE p.hdr.toNat 32 ++ p.data.take 96 else (p.data.drop (96 + 128 * (i - 1))).take 128

/-- The bytes that a flit carries; those behind the end of a packet are not named by any rule. -/
def flitCarried : Flit → List Byte
  | .head p => flitBytes p 0
  | .body p i => flitBytes p i
  | .control msgs => (msgs.take 8).flatMap fun m => bytesLE m.toNat 16

/-- The 128 bytes that a transmitter puts on a link: what the flit carries, and zeros (DESIGN CHOICE, log 132). -/
def flitPadded (f : Flit) : List Byte := bytesAt (flitCarried f) 0 128

def isControlFlit : Flit → Bool
  | .control _ => true
  | _ => false

/-! ## Lane words (R234) -/

/-- One bit of a CRC-32C: polynomial 0x1EDC_6F41, least significant bit first, started and ended with an inversion, as the code of that
name is known (PRESUMED, log 132). -/
def crcBit (c : Nat) : Nat := if c % 2 = 1 then Nat.xor (c / 2) 0x82F63B78 else c / 2

def crcByte (c : Nat) (b : Byte) : Nat := (List.range 8).foldl (fun c _ => crcBit c) (Nat.xor c b.toNat)

def crc32c (bs : List Byte) : Nat := Nat.xor (bs.foldl crcByte 0xFFFFFFFF) 0xFFFFFFFF

/-- The 16 lane words of a flit: 64 data bits, the sync value, and two bits of the CRC. -/
def laneWords (control : Bool) (bs : List Byte) : List (BitVec 68) :=
  let crc := crc32c bs
  (List.range 16).map fun j =>
    BitVec.ofNat 68 (fieldLE bs (8 * j) 8 + (if control then 2 else 1) * 2 ^ 64 + bitsOf crc (2 * j + 1) (2 * j) * 2 ^ 66)

/-- The data bytes of lane words. -/
def wordBytes (ws : List (BitVec 68)) : List Byte := ws.flatMap fun w => bytesLE (w.toNat % 2 ^ 64) 8

/-- The check of a flit: 16 words of one sync value with the CRC of their data. It tells a control flit from a data flit; none where it
fails. -/
def flitCheck (ws : List (BitVec 68)) : Option Bool := [false, true].find? fun c => ws == laneWords c (wordBytes ws)

/-- Whether bytes that passed a check are those of a flit. -/
def flitIn (f : Flit) (control : Bool) (bs : List Byte) : Bool := isControlFlit f == control && (flitCarried f).isPrefixOf bs

/-! ## RS(544,514) (R260): the field and the generator polynomial of IEEE 802.3 Clause 91 (PRESUMED, log 133) -/

/-- Multiplication by the primitive element, modulo x^10 + x^3 + 1. -/
def gfX (a : Nat) : Nat := if 1024 ≤ 2 * a then Nat.xor (2 * a) 0x409 else 2 * a

def gfMul (a b : Nat) : Nat :=
  ((List.range 10).foldl (fun (s : Nat × Nat) i => (if bitOf b i then Nat.xor s.1 s.2 else s.1, gfX s.2)) (0, a)).1

/-- A power of the primitive element. -/
def gfPow (n : Nat) : Nat := (List.range (n % 1023)).foldl (fun a _ => gfX a) 1

/-- The inverse: the 1,022nd power. -/
def gfInv (a : Nat) : Nat :=
  ((List.range 9).foldl (fun (s : Nat × Nat) _ => (gfMul s.1 (gfMul s.2 s.2), gfMul s.2 s.2)) (1, a)).1

/-- The product of (x + a^j), j = 0-29, the coefficient of x^29 first, without that of x^30. -/
def rsGen : List Nat :=
  (((List.range 30).foldl (fun p j => List.zipWith Nat.xor (p ++ [0]) (0 :: p.map (gfMul (gfPow j)))) [1]).drop 1)

/-- The 30 check symbols of data symbols. -/
def rsParity (data : List Nat) : List Nat :=
  let g := rsGen
  data.foldl (fun reg m =>
    let fb := Nat.xor m (reg.headD 0)
    List.zipWith Nat.xor (reg.drop 1 ++ [0]) (g.map (gfMul fb))) (List.replicate 30 0)

def rsEncode (data : List Nat) : List Nat := data ++ rsParity data

/-- The syndromes of a received word. -/
def rsSyndromes (r : List Nat) : List Nat :=
  (List.range 30).map fun j => let a := gfPow j; r.foldl (fun s c => Nat.xor (gfMul s a) c) 0

def polyAt (p : List Nat) (x : Nat) : Nat := p.foldr (fun c s => Nat.xor c (gfMul s x)) 0

/-- A step of the search for the shortest recurrence of the syndromes: the locator, the one before with its discrepancy and age, the
length. -/
structure RsStep where
  loc : List Nat := [1]
  old : List Nat := [1]
  len : Nat := 0
  gap : Nat := 1
  disc : Nat := 1

def rsStep (s : List Nat) (q : RsStep) (n : Nat) : RsStep :=
  let d := (List.range (q.len + 1)).foldl (fun a i => Nat.xor a (gfMul (nth q.loc i 0) (nth s (n - i) 0))) 0
  if d = 0 then { q with gap := q.gap + 1 }
  else
    let f := gfMul d (gfInv q.disc)
    let sub := List.replicate q.gap 0 ++ q.old.map (gfMul f)
    let next := (List.range (max q.loc.length sub.length)).map fun i => Nat.xor (nth q.loc i 0) (nth sub i 0)
    if 2 * q.len ≤ n then { loc := next, old := q.loc, len := n + 1 - q.len, gap := 1, disc := d }
    else { q with loc := next, gap := q.gap + 1 }

/-- A received word with the errors taken out that its syndromes locate. -/
def rsRepair (r s : List Nat) : List Nat :=
  let q := (List.range 30).foldl (rsStep s) {}
  let omega := (List.range 30).map fun n => (List.range (n + 1)).foldl (fun a i => Nat.xor a (gfMul (nth q.loc i 0) (nth s (n - i) 0))) 0
  let slope := (List.range q.loc.length).map fun i => if i % 2 = 0 then nth q.loc (i + 1) 0 else 0
  let n := r.length
  ((List.range n).zip r).map fun c =>
    let x := gfPow (n - 1 - c.1)
    let y := gfInv x
    if polyAt q.loc y = 0 then Nat.xor c.2 (gfMul x (gfMul (polyAt omega y) (gfInv (polyAt slope y)))) else c.2

/-- RS decoding: the codeword within 15 symbols of a received word, and how many were corrected; none where it is uncorrectable. -/
def rsDecode (r : List Nat) : Option (List Nat × Nat) :=
  let s := rsSyndromes r
  if s.all (· == 0) then some (r, 0)
  else
    let c := rsRepair r s
    let n := ((r.zip c).filter fun p => p.1 != p.2).length
    if (rsSyndromes c).all (· == 0) && decide (n ≤ 15) then some (c, n) else none

/-! ## The scrambler: 1 + x^39 + x^58. A state holds the last 58 bits on the line, the latest lowest. -/

/-- The lowest n bits of a number, scrambled; and the state after them. -/
def scramble (st w n : Nat) : Nat × Nat :=
  (List.range n).foldl (fun (s : Nat × Nat) i =>
    let b := bitOf w i ^^ (bitOf s.2 38 ^^ bitOf s.2 57)
    (s.1 + boolNat b * 2 ^ i, (2 * s.2 + boolNat b) % 2 ^ 58)) (0, st)

/-- The lowest n bits of a number, descrambled; and the state after them. -/
def descramble (st w n : Nat) : Nat × Nat :=
  (List.range n).foldl (fun (s : Nat × Nat) i =>
    let b := bitOf w i ^^ (bitOf s.2 38 ^^ bitOf s.2 57)
    (s.1 + boolNat b * 2 ^ i, (2 * s.2 + boolNat (bitOf w i)) % 2 ^ 58)) (0, st)

/-! ## PAM4 -/

/-- The level of a bit pair: 00, 01, 11, 10 are 0, 1, 2, 3. -/
def pamLevel (pair : Nat) : Nat := nth [0, 1, 3, 2] pair 0

/-- n symbols of two bits each, the least significant first. -/
def pamLevels (w n : Nat) : List Nat := (List.range n).map fun i => pamLevel (bitsOf w (2 * i + 1) (2 * i))

/-- The bits of levels. -/
def pamBits : List Nat → Nat
  | [] => 0
  | l :: t => pamLevel l + 4 * pamBits t

/-! ## Codewords (R258) -/

/-- The number that symbols of 10 bits give, the first lowest, and back. -/
def symbolsNat : List Nat → Nat
  | [] => 0
  | s :: t => s + 1024 * symbolsNat t

def natSymbols (w n : Nat) : List Nat := (List.range n).map fun i => bitsOf w (10 * i + 9) (10 * i)

/-- The 5,140 data bits of a codeword: CSEQ, CTL, and five flits. -/
def codewordBits (cseq : Nat) (fs : List Flit) : Nat :=
  cseq + sumNat (((List.range 5).zip fs).map fun c => boolNat (isControlFlit c.2) * 2 ^ (12 + c.1)) +
    natLE (fs.flatMap flitPadded) * 2 ^ 20

/-- The 2,720 levels of a codeword under a scrambler state, and the state after it. -/
def codewordLevels (st cseq : Nat) (fs : List Flit) : List Nat × Nat :=
  let s := scramble st (codewordBits cseq fs) 5140
  (pamLevels (symbolsNat (rsEncode (natSymbols s.1 514))) 2720, s.2)

/-- What a receiver makes of the symbols r of a codeword, once decoded: the data bits and the symbols corrected, none where it is
uncorrectable; and the descrambler state after it. -/
def codewordOut (st : Nat) (r : List Nat) : Option (List Nat × Nat) → Option (Nat × Nat) × Nat
  | some (c, n) => let t := descramble st (symbolsNat (c.take 514)) 5140; (some (t.1, n), t.2)
  | none => (none, (descramble st (symbolsNat (r.take 514)) 5140).2)

/-- What a receiver finds in the levels of a codeword under a descrambler state. -/
def codewordData (st : Nat) (levels : List Nat) : Option (Nat × Nat) × Nat :=
  let r := natSymbols (pamBits levels) 544
  codewordOut st r (rsDecode r)

/-- The bytes of the i-th flit of a codeword's data bits. -/
def codewordFlit (w i : Nat) : List Byte := bytesLE (w / 2 ^ (20 + 1024 * i)) 128

/-- Whether data bits are those of flits: CTL and the bytes of each. -/
def flitsAre (w : Nat) (fs : List Flit) : Bool :=
  fs.length == 5 && ((List.range 5).zip fs).all fun c => flitIn c.2 (bitOf w (12 + c.1)) (codewordFlit w c.1)

/-! ## Training frames (R261) -/

/-- The marker: a 64-bit value sent twice. -/
def trainMarker : List Nat := let w := 0x7E1A55C30F96B24D; pamLevels (w + w * 2 ^ 64) 64

/-- Bits of PRBS31 (x^31 + x^28 + 1) from a state, and the state after them. -/
def prbs31 (st n : Nat) : Nat × Nat :=
  (List.range n).foldl (fun (s : Nat × Nat) i =>
    let b := bitOf s.2 30 ^^ bitOf s.2 27
    (s.1 + boolNat b * 2 ^ i, (2 * s.2 + boolNat b) % 2 ^ 31)) (0, st)

/-- A training frame of 2,720 levels, with a CH_REQ in place of the 64 symbols behind the marker where there is one to send; and the
PRBS31 state after it. -/
def trainFrame (st : Nat) (req : Option W128) : List Nat × Nat :=
  let n := match req with | some _ => 2592 | none => 2656
  let s := prbs31 st (2 * n)
  (trainMarker ++ (match req with | some m => pamLevels m.toNat 64 | none => []) ++ pamLevels s.1 n, s.2)

/-- Whether frames carry the marker in two that follow one another. -/
def markerFound (a b : List Nat) : Bool := a.take 64 == trainMarker && b.take 64 == trainMarker

end Sys2Proof.Machine
end

