-- ==== Sys2Proof/Machine/Olink.lean ====
section
/-! DEFINITION. The link layer of the Jenong base (R231, R234-R240): links between port routers, flits, acknowledgement and replay,
credits, lane maps. A packet is dealt into flits when its link can take the whole of it (R230). -/

namespace Sys2Proof.Machine

/-! ## Links and their ends -/

/-- The optical link of a waveguide: 28 barn links of eight waveguides, then one link per waveguide. -/
def linkOf (wg : Nat) : Nat := if wg < 224 then wg / 8 else wg - 196

/-- The waveguides of a link, in ascending order. -/
def linkWgs (e : Nat) : List Nat := if e < 28 then (List.range 8).map (8 * e + ·) else [e + 196]

/-- The port routers at end 0 and end 1 of a link (Table 07-5). -/
def linkEnds (e : Nat) : Nat × Nat :=
  let i := wgInfo ((linkWgs e).headD 0)
  match i.1 with
  | 0 => (i.2.1, i.2.2.1)
  | 1 => (i.2.1, 8 + i.2.2.1)
  | 2 => (i.2.1, 28 + i.2.2.1)
  | 3 => (28 + i.2.1, 8 + i.2.2.1)
  | _ => (28 + i.2.1, 28 + i.2.2.1)

/-- The link between two port routers, if there is one (Table 07-5). -/
def pairLink (p q : Nat) : Option Nat :=
  let i := min p q
  let j := max p q
  if i = j then none
  else if j < 8 then some (i * (15 - i) / 2 + j - i - 1)
  else if i < 8 ∧ j < 28 then some (28 + 20 * i + (j - 8))
  else if i < 8 then some (188 + 4 * i + (j - 28))
  else if i < 28 ∧ 28 ≤ j then some (220 + 20 * (j - 28) + (i - 8))
  else if 28 ≤ i then some (300 + (i - 28) * (7 - (i - 28)) / 2 + j - i - 1)
  else none

/-- The direction of a link in which a router sends: 0 from end 0 to end 1 (R248). -/
def dirFrom (e p : Nat) : Nat := if (linkEnds e).1 = p then 0 else 1

/-- The routers that send and receive in a direction of a link. -/
def dirEnds (e dir : Nat) : Nat × Nat := if dir = 0 then linkEnds e else ((linkEnds e).2, (linkEnds e).1)

/-- Flits of a replay buffer and of an input pool (R231, R238). -/
def replayCap (e : Nat) : Nat := if e < 28 then 2048 else 256
def poolCap (e : Nat) : Nat := if e < 28 then 2048 else 512

def Dev.olink (d : Dev) (e dir : Nat) : LinkDir := d.olinks.get (fun _ => {}) (2 * e + dir)
def Dev.updOlink (d : Dev) (e dir : Nat) (f : LinkDir → LinkDir) : Dev :=
  { d with olinks := d.olinks.upd (fun _ => {}) (2 * e + dir) f }
def Dev.lane (d : Dev) (wg dir : Nat) : LaneDir := d.lanes.get (fun _ => {}) (2 * wg + dir)
def Dev.updLane (d : Dev) (wg dir : Nat) (f : LaneDir → LaneDir) : Dev :=
  { d with lanes := d.lanes.upd (fun _ => {}) (2 * wg + dir) f }

/-- Lanes in service in a direction: WG_STATUS, with lanes 14 and 15 of direction 1 in WG_STATUS2. -/
def Dev.lanesIn (d : Dev) (wg dir : Nat) : Nat :=
  if dir = 0 then d.getF (r1 .WG_STATUS wg) Fld.WG_STATUS_IN0
  else d.getF (r1 .WG_STATUS wg) Fld.WG_STATUS_IN1 + d.getF (r1 .WG_STATUS2 wg) Fld.WG_STATUS2_IN1H * 2 ^ 14

def Dev.setLanesIn (d : Dev) (wg dir mask : Nat) : Dev :=
  if dir = 0 then d.setF (r1 .WG_STATUS wg) Fld.WG_STATUS_IN0 mask
  else (d.setF (r1 .WG_STATUS wg) Fld.WG_STATUS_IN1 mask).setF (r1 .WG_STATUS2 wg) Fld.WG_STATUS2_IN1H (mask / 2 ^ 14)

/-- Whether the pair of a link is declared failed. -/
def Dev.linkFailed (d : Dev) (e : Nat) : Bool := d.wgFailed ((linkWgs e).headD 0)

/-- Whether a direction has a lane under the map last sent. -/
def Dev.hasLane (d : Dev) (e dir : Nat) : Bool := (linkWgs e).any fun wg => (d.lane wg dir).sent != 0

/-- Whether a port router is under reset (R284). -/
def Dev.inReset (d : Dev) (p : Nat) : Bool := (d.ports.get (fun _ => {}) p).resetAt.isSome

/-! ## Sending -/

/-- A pool takes n more flits of a network: a share is reserved to each of four networks, the rest is free to any. -/
def poolRoom (used : Sparse Nat) (cap share vn n : Nat) : Bool :=
  let u (v : Nat) : Nat := used.get (fun _ => 0) v + (if v = vn then n else 0)
  decide (sumNat ((List.range 4).map fun v => u v - share) + 4 * share ≤ cap)

/-- The flits of a packet in order: the first carries its header. -/
def flitsOf (p : Packet) : List Flit := .head p :: (List.range (flits p - 1)).map fun i => .body p (i + 1)

/-- Data numbered modulo 4,096 from a sequence on. -/
def numbered {α : Type} (s : Nat) (l : List α) : List (Nat × α) := (List.range l.length).zip l |>.map fun c => ((s + c.1) % 4096, c.2)

/-- Whether a link direction can take the whole of a packet: lanes, replay buffer, credits, and neither end under reset. -/
def Dev.linkCan (d : Dev) (e dir : Nat) (p : Packet) : Bool :=
  let k := d.olink e dir
  !d.linkFailed e && d.hasLane e dir && decide (k.replay.length + flits p ≤ replayCap e) &&
    poolRoom k.used (poolCap e) 18 (pVn p) (flits p) && !d.inReset (linkEnds e).1 && !d.inReset (linkEnds e).2

/-- Deals a packet into flits, kept until they are acknowledged. -/
def Dev.linkPut (d : Dev) (e dir : Nat) (p : Packet) : Dev :=
  d.updOlink e dir fun k => { k with
    next := (k.next + flits p) % 4096
    replay := k.replay ++ numbered k.next (flitsOf p)
    used := k.used.upd (fun _ => 0) (pVn p) (· + flits p) }

/-- A control message leaves in a direction (R236). -/
def Dev.sendCtl (d : Dev) (e dir : Nat) (m : W128) : Dev := d.updOlink e dir fun k => { k with ctl := k.ctl ++ [m] }

/-- A control message arrives: it is no longer under way. -/
def Dev.takeCtl (d : Dev) (e dir : Nat) (m : W128) : Dev := d.updOlink e dir fun k => { k with ctl := eraseFirst (· == m) k.ctl }

/-- A packet leaves an input that a link feeds: its flits are returned (R231). -/
def Dev.creditBack (d : Dev) (p inp : Nat) (pkt : Packet) : Dev :=
  match pairLink p inp with
  | some e => if inp < 32 then d.sendCtl e (dirFrom e p) (mkMsg [(0, 3), (8, pVn pkt), (12, flits pkt)]) else d
  | none => d

/-! ## Lane maps (R237, R239) -/

/-- The mask that a transmitter wants on a waveguide: WG_CTRL, its own lanes, and what the receiver asked for. -/
def Dev.wantMask (d : Dev) (wg dir : Nat) : Nat :=
  let k := d.lane wg dir
  Nat.land (d.getF (r1 .WG_CTRL wg) (if dir = 0 then Fld.WG_CTRL_MASK0 else Fld.WG_CTRL_MASK1)) (Nat.land k.tx k.asked)

/-- Whether a mask drops a lane of another. -/
def drops (old new : Nat) : Bool := Nat.land old new != old

/-- The beat since which a direction has no lane, after a change of its masks (R240). -/
def Dev.noteZero (d : Dev) (e dir : Nat) (had : Bool) : Dev :=
  let has := d.hasLane e dir
  let beat := d.beat
  d.updOlink e dir fun k => { k with zeroSince := if has then none else if had then some beat else k.zeroSince }

/-- The transmitter sends the lane map that its masks call for, if it differs from the last (R237). The sequence that it names is that of
the oldest flit not acknowledged, so that what has to be sent again goes over the new lanes (DEDUCED, log 135). -/
def Dev.remapLink (d : Dev) (e dir : Nat) : Dev :=
  let changed := (List.range 8).zip (linkWgs e) |>.filter fun c => (d.lane c.2 dir).sent != d.wantMask c.2 dir
  if changed.isEmpty then d
  else
    let had := d.hasLane e dir
    let epoch := ((d.olink e dir).epoch + 1) % 256
    let s := (((d.olink e dir).replay.head?).map Prod.fst).getD (d.olink e dir).next
    let d := d.updOlink e dir fun k => { k with epoch := epoch }
    let last := changed.length - 1
    let d := ((List.range 8).zip changed).foldl (fun d c =>
      let want := d.wantMask c.2.2 dir
      let d := if drops (d.lane c.2.2 dir).sent want then d.inc (r1 .WG_EVT c.2.2) Fld.WG_EVT_NARROW else d
      let d := d.updLane c.2.2 dir fun k => { k with sent := want }
      d.sendCtl e dir (mkMsg [(0, 4), (8, c.2.1), (11, boolNat (c.1 == last)), (16, want), (32, epoch), (40, s)])) d
    d.noteZero e dir had

/-- Both directions of a waveguide's link. -/
def Dev.remapWg (d : Dev) (wg : Nat) : Dev := (d.remapLink (linkOf wg) 0).remapLink (linkOf wg) 1

/-- A receiver asks on the reverse link for the lanes that it can use of a waveguide (R239). -/
def Dev.askLanes (d : Dev) (wg dir : Nat) : Dev :=
  let v := if wg < 224 then wg % 8 else 0
  d.sendCtl (linkOf wg) (1 - dir) (mkMsg [(0, 6), (8, v), (16, (d.lane wg dir).rx)])

/-- The lanes that masks by waveguide index name, by waveguide and then by wavelength (R235). -/
def lanesOf (masks : List Nat) : List Nat :=
  ((List.range 8).zip masks).flatMap fun c => ((List.range 16).filter (bitOf c.2)).map (16 * c.1 + ·)

/-- The masks in force by waveguide index, and what a map makes of masks. -/
def Dev.masksIn (d : Dev) (e dir : Nat) : List Nat := (linkWgs e).map fun wg => d.lanesIn wg dir
def LaneMap.onto (m : LaneMap) (masks : List Nat) : List Nat := m.masks.foldl (fun l c => l.set c.1 c.2) masks

/-- Whether flit a comes before flit b, modulo 4,096. -/
def flitBefore (a b : Nat) : Bool := a != b && decide ((b + 4096 - a) % 4096 < 2048)

/-- The lanes over which a flit is dealt (R239): those of the map before, where it comes before the sequence of the map in force; else
those of the map in force and of the maps to come that begin at or before it. -/
def Dev.lanesFor (d : Dev) (e dir seq : Nat) : List Nat :=
  let k := d.olink e dir
  let now := lanesOf ((k.due.filter fun m => !flitBefore seq m.start).foldl (fun l m => m.onto l) (d.masksIn e dir))
  match k.prior with
  | some (s, old) => if flitBefore seq s then old else now
  | none => now

/-- The lanes of a flit's 16 words: one after the other from where the flit before it ended (R235). -/
def dealWords (lanes : List Nat) (start : Nat) : List Nat :=
  let first := (lanes.filter fun n => decide (n < start)).length
  (List.range 16).map fun j => nth lanes ((first + j) % lanes.length) 0

/-- A map that has arrived is in force from its sequence on. -/
def Dev.applyMap (d : Dev) (e dir : Nat) : Dev :=
  let k := d.olink e dir
  let (now, later) := k.due.partition fun m => !flitBefore k.expect m.start
  if now.isEmpty then d
  else
    let old := lanesOf (d.masksIn e dir)
    let d := now.foldl (fun d m => m.masks.foldl (fun d c => match (linkWgs e)[c.1]? with
      | some wg => d.setLanesIn wg dir c.2
      | none => d) d) d
    d.updOlink e dir fun k => { k with due := later, prior := some ((now.map LaneMap.start).headD 0, old) }

/-- A LANE_MAP arrives: gathered until the message with LAST, then answered (R237, R239). -/
def Dev.laneMap (d : Dev) (e dir : Nat) (m : W128) : Dev :=
  let k := d.olink e dir
  let epoch := msgBits m 39 32
  let g : LaneMap := match k.gathered with
    | some g => if g.epoch = epoch then g else ⟨epoch, msgBits m 51 40, []⟩
    | none => ⟨epoch, msgBits m 51 40, []⟩
  let g := { g with masks := g.masks ++ [(msgBits m 10 8, msgBits m 31 16)] }
  if msgBits m 11 11 = 1 then
    let d := d.updOlink e dir fun k => { k with gathered := none, due := k.due ++ [g] }
    (d.sendCtl e (1 - dir) (mkMsg [(0, 5), (8, epoch)])).applyMap e dir
  else d.updOlink e dir fun k => { k with gathered := some g }

/-! ## Control messages (R236): each arrives in direction dir of the link of waveguide wg -/

/-- ACK: the flits up to the one named are acknowledged (R238). -/
def Dev.optAck (d : Dev) (e dir : Nat) (m : W128) : Dev :=
  d.updOlink e (1 - dir) fun k => match findIdxFrom (fun c => c.1 == msgBits m 19 8) k.replay 0 with
    | some i => { k with replay := k.replay.drop (i + 1) }
    | none => k

/-- NACK: the flits from the one named on are sent again and counted (R238). -/
def Dev.optNack (d : Dev) (wg dir : Nat) (m : W128) : Dev :=
  let k := d.olink (linkOf wg) (1 - dir)
  match findIdxFrom (fun c => c.1 == msgBits m 19 8) k.replay 0 with
  | some i => d.addF (r1 .WG_REPLAY wg) Fld.WG_REPLAY_REPLAY (k.replay.length - i)
  | none => d

/-- CREDIT: flits of a network return (R231). -/
def Dev.optCredit (d : Dev) (e dir : Nat) (m : W128) : Dev :=
  d.updOlink e (1 - dir) fun k => { k with used := k.used.upd (fun _ => 0) (msgBits m 9 8) (· - msgBits m 23 12) }

def Dev.laneMapAck (d : Dev) (e dir : Nat) (m : W128) : Dev :=
  d.updOlink e (1 - dir) fun k => { k with acked := msgBits m 15 8 }

/-- LANE_REQ: the transmitter of the reverse direction sends a map with the mask asked for (R239). -/
def Dev.laneReq (d : Dev) (e dir : Nat) (m : W128) : Dev :=
  match (linkWgs e)[msgBits m 10 8]? with
  | some wg => (d.updLane wg (1 - dir) fun k => { k with asked := msgBits m 31 16 }).remapLink e (1 - dir)
  | none => d

/-- What a control message does; types 0x07-0xFF are ignored and counted (R236). -/
def Dev.optCtl (d : Dev) (wg dir : Nat) (m : W128) : Dev :=
  let e := linkOf wg
  match msgBits m 7 0 with
  | 0 => d
  | 1 => d.optAck e dir m
  | 2 => d.optNack wg dir m
  | 3 => d.optCredit e dir m
  | 4 => d.laneMap e dir m
  | 5 => d.laneMapAck e dir m
  | 6 => d.laneReq e dir m
  | _ => d.inc (r1 .WG_CRC wg) Fld.WG_CRC_CRC

def okWg (wg dir : Nat) : Bool := decide (wg < 502) && decide (dir < 2)

/-- A command that brings one control message of a type. -/
def ctlRow (ty wg dir : Nat) (m : W128) (s : State) (f : Dev → Dev) : Out :=
  onUnit (okWg wg dir) s fun d =>
    d.when (msgBits m 7 0 == ty && !d.inReset (dirEnds (linkOf wg) dir).2) fun d => f (d.takeCtl (linkOf wg) dir m)

def execAck (wg dir : Nat) (msg : W128) (s : State) : Out := ctlRow 1 wg dir msg s fun d => d.optAck (linkOf wg) dir msg
def execNack (wg dir : Nat) (msg : W128) (s : State) : Out := ctlRow 2 wg dir msg s fun d => d.optNack wg dir msg
def execCredit (wg dir : Nat) (msg : W128) (s : State) : Out := ctlRow 3 wg dir msg s fun d => d.optCredit (linkOf wg) dir msg
def execLaneMap (wg dir : Nat) (msg : W128) (s : State) : Out := ctlRow 4 wg dir msg s fun d => d.laneMap (linkOf wg) dir msg
def execLaneMapAck (wg dir : Nat) (msg : W128) (s : State) : Out := ctlRow 5 wg dir msg s fun d => d.laneMapAck (linkOf wg) dir msg
def execLaneReq (wg dir : Nat) (msg : W128) (s : State) : Out := ctlRow 6 wg dir msg s fun d => d.laneReq (linkOf wg) dir msg

/-! ## Receiving (R234, R238) -/

/-- The packet that a flit completes, and what is still to come. -/
def takeFlit (part : Option (Packet × Nat)) (f : Flit) : Option Packet × Option (Packet × Nat) :=
  match f with
  | .head p => if flits p = 1 then (some p, none) else (none, some (p, flits p - 1))
  | .body _ _ => match part with
    | some (p, n) => if n ≤ 1 then (some p, none) else (none, some (p, n - 1))
    | none => (none, none)
  | .control _ => (none, part)

/-- Whether the receiver can use every lane that a flit's words came on (R239). -/
def Dev.lanesGood (d : Dev) (e dir : Nat) (lanes : List Nat) : Bool :=
  lanes.all fun n => match (linkWgs e)[n / 16]? with
    | some wg => bitOf (d.lane wg dir).rx (n % 16)
    | none => false

/-- A flit arrives on a link: a failed check asks for replay; a flit out of sequence is discarded; one in sequence is accepted and
acknowledged, and a whole packet comes to its router. A flit fails with a word on a lane that the receiver has lost. -/
def Dev.optFlit (d : Dev) (wg dir seq : Nat) (words : List (BitVec 68)) (flit : Flit) : Dev :=
  let e := linkOf wg
  let k := d.olink e dir
  let all := d.lanesFor e dir seq
  let lanes := dealWords all k.deal
  let good := (flitCheck words).isSome && (all.isEmpty || d.lanesGood e dir lanes)
  let d := d.updOlink e dir fun k => { k with deal := lanes.getLastD 0 + 1 }
  if !good then
    (d.inc (r1 .WG_CRC wg) Fld.WG_CRC_CRC).sendCtl e (1 - dir) (mkMsg [(0, 2), (8, k.expect)])
  else
    match flit with
    | .control msgs => msgs.foldl (fun d m => (d.takeCtl e dir m).optCtl wg dir m) d
    | _ =>
      if seq = k.expect then
        let r := takeFlit k.part flit
        let d := d.updOlink e dir fun k => { k with expect := (k.expect + 1) % 4096, part := r.2 }
        let d := (d.sendCtl e (1 - dir) (mkMsg [(0, 1), (8, seq)])).applyMap e dir
        match r.1 with
        | some p => d.send (.port (dirEnds e dir).2 (dirEnds e dir).1) p
        | none => d
      else d

/-- Whether words are those of a flit, as far as they pass their check. -/
def wordsAre (words : List (BitVec 68)) (flit : Flit) : Bool :=
  match flitCheck words with
  | some control => flitIn flit control (wordBytes words)
  | none => true

/-- Words arrive as the flit that they stand for; a data flit needs a lane in service (R240). -/
def execOpticalFlitReceive (wg dir seq : Nat) (words : List (BitVec 68)) (flit : Flit) (s : State) : Out :=
  onUnit (okWg wg dir && decide (seq < 4096)) s fun d =>
    let e := linkOf wg
    d.when (!d.inReset (dirEnds e dir).2 && wordsAre words flit && (isControlFlit flit || !(d.lanesFor e dir seq).isEmpty)) fun d =>
      d.optFlit wg dir seq words flit

/-! ## Loss logs (R284, R435) -/

/-- The source of a packet as PORT_LOSS gives it: member, barn, logical tile. -/
def lossSource (p : Packet) : Nat := pSrcMember p * 2 ^ 13 + pSrcBarn p * 2 ^ 10 + pSrcTile p

/-- Whether a 32-bit sequence comes before another (R275). -/
def seqBefore (a b : Nat) : Bool := decide (signed 32 (a + 2 ^ 32 - b % 2 ^ 32) < 0)

/-- A lost posted packet enters a router's loss log: per source the first and last SEQ lost and the count. -/
def Dev.logLoss (d : Dev) (p : Nat) (pkt : Packet) : Dev :=
  let src := lossSource pkt
  let valid (i : Nat) : Bool := d.flag (r2 .PORT_LOSS0 p i) Fld.PORT_LOSS0_VALID
  match (List.range 16).find? fun i => valid i && d.getF (r2 .PORT_LOSS0 p i) Fld.PORT_LOSS0_SOURCE == src with
  | some i =>
    let d := if seqBefore (pSeq pkt) (d.rd (r2 .PORT_LOSS1 p i)).toNat then d.wr (r2 .PORT_LOSS1 p i) (BitVec.ofNat 32 (pSeq pkt)) else d
    let d := if seqBefore (d.rd (r2 .PORT_LOSS2 p i)).toNat (pSeq pkt) then d.wr (r2 .PORT_LOSS2 p i) (BitVec.ofNat 32 (pSeq pkt)) else d
    d.inc (r2 .PORT_LOSS3 p i) Fld.PORT_LOSS3_COUNT
  | none =>
    match (List.range 16).find? fun i => !valid i with
    | some i =>
      let d := (d.setF (r2 .PORT_LOSS0 p i) Fld.PORT_LOSS0_SOURCE src).setF (r2 .PORT_LOSS0 p i) Fld.PORT_LOSS0_VALID 1
      ((d.wr (r2 .PORT_LOSS1 p i) (BitVec.ofNat 32 (pSeq pkt))).wr (r2 .PORT_LOSS2 p i) (BitVec.ofNat 32 (pSeq pkt))).wr
        (r2 .PORT_LOSS3 p i) 1
    | none => d.setF (r1 .PORT_STATUS p) Fld.PORT_STATUS_LOSS_OVF 1

/-- Accounts for discarded packets at a router: posted VN3 packets enter its loss log (R284). -/
def Dev.account (d : Dev) (p : Nat) (l : List Packet) : Dev :=
  l.foldl (fun d q =>
    let q := unwrapForward q
    if pVn q = 3 ∧ !awaitsReply q then d.logLoss p q else d) d

/-- The packets that flits carry, each once. -/
def packetsOf (l : List Flit) : List Packet :=
  l.foldl (fun ps f => match f with
    | .head p => ps ++ [p]
    | .body p _ => if ps.getLast? == some p then ps else ps ++ [p]
    | .control _ => ps) []

/-- The unacknowledged flits of a direction are discarded, accounted at the end that sent them; the direction restarts from zero
with fresh credits, its lanes as they stand (R435). -/
def Dev.restartLink (d : Dev) (e dir : Nat) : Dev :=
  let k := d.olink e dir
  (d.account (dirEnds e dir).1 (packetsOf (k.replay.map (·.2)))).updOlink e dir fun k => { zeroSince := k.zeroSince, deal := k.deal }

/-! ## Failed pairs (R240, R437) -/

/-- Sets FAILED in the waveguides of a link. -/
def Dev.setFailed (d : Dev) (e : Nat) (v : Bool) : Dev :=
  (linkWgs e).foldl (fun d wg => d.setF (r1 .WG_STATUS wg) Fld.WG_STATUS_FAILED (boolNat v)) d

/-- A direction has had no lane for LINK_DOWN_MAX beats: its pair is failed. -/
def execPairFail (wg dir : Nat) (s : State) : Out :=
  onUnit (okWg wg dir) s fun d =>
    let e := linkOf wg
    match (d.olink e dir).zeroSince with
    | some t =>
      d.when (!d.linkFailed e && decide (t + (d.rd (r0 .LANE_LINKDOWN)).toNat ≤ d.beat)) fun d =>
        (((d.setFailed e true).raise 119).restartLink e 0 |>.restartLink e 1).relevel
    | none => d

/-- Some lane of each direction of a failed pair has passed its check: the pair is back. -/
def execPairReturn (wg : Nat) (s : State) : Out :=
  onUnit (okWg wg 0) s fun d =>
    let e := linkOf wg
    d.when (d.linkFailed e && d.hasLane e 0 && d.hasLane e 1) fun d => (d.setFailed e false).relevel

end Sys2Proof.Machine
end

