-- ==== Sys2Proof/Machine/Ylink.lean ====
section
/-! DEFINITION. The link layer of the yard (R257-R264): codewords, acknowledgement and replay, credits, control flits, channel maps, the
state of a link, and moves of flows (R268). -/

namespace Sys2Proof.Machine

/-! ## Link state -/

def Dev.ylinkStatus (d : Dev) (l : Nat) (f : Field) : Nat := d.getF (r1 .YLINK_STATUS l) f
def Dev.setYlinkStatus (d : Dev) (l : Nat) (f : Field) (v : Nat) : Dev := d.setF (r1 .YLINK_STATUS l) f v

/-- The gate of a yard link as a port router. -/
def gateOf (l : Nat) : Nat := 28 + l / 8

/-- Whether a link may be used: ENABLE, and the package joins a yard (R269). -/
def Dev.ylinkOn (d : Dev) (l : Nat) : Bool :=
  d.flag (r1 .YLINK_CTRL l) Fld.YLINK_CTRL_ENABLE && d.flag (r0 .YARD_CTRL) Fld.YARD_CTRL_JOIN_EN

/-- Whether a link is held down (R266). -/
def Dev.ylinkHeld (d : Dev) (l : Nat) : Bool := d.ylinkStatus l Fld.YLINK_STATUS_STATE == 3

/-- Whether a message of another link shows the same member with another ID_TAG (R266). -/
def Dev.identClash (d : Dev) (l : Nat) (p : Peer) : Bool :=
  (List.range 32).any fun k => k != l && match (d.ylink k).peer with
    | some q => q.member == p.member && q.tag != p.tag
    | none => false

/-- The channels in training, as a mask. -/
def YLinkSt.trainMask (k : YLinkSt) : Nat := maskOf 8 fun n => (k.training.get (fun _ => none) n).isSome

/-- The channels of a mask begin to train. -/
def YLinkSt.train (k : YLinkSt) (mask beat : Nat) : YLinkSt :=
  let ns := (List.range 8).filter (bitOf mask)
  { k with
    training := ns.foldl (fun m n => m.set (fun _ => none) n (some beat)) k.training
    retry := ns.foldl (fun m n => m.set (fun _ => none) n none) k.retry }

/-- Sets a link's STATE and IN_SERVICE from its channels: up with a channel each way and its peer known, and then until it fails, though
it has no channel (R263); a held link stays held. -/
def Dev.refreshYlink (d : Dev) (l : Nat) : Dev :=
  let k := d.ylink l
  let st := d.ylinkStatus l Fld.YLINK_STATUS_STATE
  let on := Nat.land k.mask k.rx
  let new := if !d.ylinkOn l || d.ylinkStatus l Fld.YLINK_STATUS_FAILED == 1 then 0
    else if st = 3 then 3
    else if k.peer.isSome ∧ (st = 2 ∨ (k.mask ≠ 0 ∧ k.rx ≠ 0)) then 2
    else if k.trainMask ≠ 0 ∨ k.mask ≠ 0 ∨ k.rx ≠ 0 then 1 else 0
  (d.setYlinkStatus l Fld.YLINK_STATUS_STATE new).setYlinkStatus l Fld.YLINK_STATUS_IN_SERVICE on

/-- Flows towards a member with no link in use take the links that are up: nothing is to be drained. -/
def Dev.firstLinks (d : Dev) (m : Nat) : Dev :=
  let y := d.yard
  if (d.flowLinks m).isEmpty then { d with yard := { y with inUse := y.inUse.set (fun _ => []) m (d.linksTo m) } } else d

/-! ## Codewords (R258-R260) -/

/-- The channel that a codeword is dealt to: the next in service from where the last round ended, under the map of its CSEQ. -/
def YLinkSt.channelFor (k : YLinkSt) (cseq : Nat) : Option Nat :=
  let mask := match k.prior with | some (c, old) => if flitBefore cseq c then old else k.mask | none => k.mask
  match (List.range 8).find? fun n => bitOf mask n && decide (k.deal ≤ n) with
  | some n => some n
  | none => (List.range 8).find? (bitOf mask)

/-- A codeword leaves on its channel, scrambled and encoded. -/
def Dev.sendCodeword (d : Dev) (l cseq : Nat) (fs : List Flit) : Dev :=
  let k := d.ylink l
  match k.channelFor cseq with
  | some n =>
    let (lv, st) := codewordLevels (k.scr.get (fun _ => 0) n) cseq fs
    (d.updYlink l fun k => { k with deal := n + 1, scr := k.scr.set (fun _ => 0) n st }).emit (.codeword l n cseq fs lv)
  | none => d

/-- Flits in codewords of five; what is left of the last is filled with empty control flits. -/
def codewords (l : List Flit) : List (List Flit) :=
  (List.range (ceilDiv l.length 5)).map fun i =>
    let fs := (l.drop (5 * i)).take 5
    fs ++ List.replicate (5 - fs.length) (.control [])

/-- New codewords leave, and are kept until they are acknowledged. -/
def Dev.newCodewords (d : Dev) (l : Nat) (cws : List (List Flit)) : Dev :=
  let cs := numbered (d.ylink l).next cws
  let d := d.updYlink l fun k => { k with next := (k.next + cs.length) % 4096, replay := k.replay ++ cs }
  cs.foldl (fun d c => d.sendCodeword l c.1 c.2) d

/-! ## Channel maps (R263) -/

/-- The channels of a link that have light: their modules are in use, and the gate's feed lasers work (R257). -/
def Dev.litOn (d : Dev) (l : Nat) : Nat :=
  maskOf 8 fun k => (d.mods.get (fun _ => {}) k).inUse && d.getF (r2 .FEED k (56 + l / 8)) Fld.FEED_STATE != 5

/-- The channels that a transmitter may use: YLINK_CTRL, what the receiver asked for, and the light. -/
def Dev.wantChannels (d : Dev) (l : Nat) : Nat :=
  if d.ylinkOn l then Nat.land (d.getF (r1 .YLINK_CTRL l) Fld.YLINK_CTRL_MASK) (Nat.land (d.ylink l).asked (d.litOn l)) else 0

/-- The beat since which a link direction has no channel. -/
def YLinkSt.noteZero (k : YLinkSt) (had : Bool) (beat : Nat) : YLinkSt :=
  { k with zeroSince := if k.mask ≠ 0 ∧ k.rx ≠ 0 then none else if had then some beat else k.zeroSince }

/-- Whether both directions of a link have a channel. -/
def YLinkSt.carries (k : YLinkSt) : Bool := k.mask != 0 && k.rx != 0

/-- CSEQ of the oldest codeword not acknowledged, from which on a new map applies (log 135). -/
def YLinkSt.oldest (k : YLinkSt) : Nat := ((k.replay.head?).map Prod.fst).getD k.next

/-- The transmitter sends the CH_MAP that its masks call for, if it differs from the last. The scrambler of a channel that is added starts
anew (log 133). -/
def Dev.remapYlink (d : Dev) (l : Nat) : Dev :=
  let k := d.ylink l
  let want := d.wantChannels l
  if want = k.mask then d
  else
    let epoch := (k.epoch + 1) % 256
    let beat := d.beat
    let new := want - Nat.land want k.mask
    let scr := ((List.range 8).filter (bitOf new)).foldl (fun m n => m.set (fun _ => 0) n 0) k.scr
    let d := d.updYlink l fun j =>
      YLinkSt.noteZero { j with mask := want, epoch := epoch, prior := some (k.oldest, k.mask), scr := scr } k.carries beat
    (d.sendYard l (mkMsg [(0, 4), (8, want), (16, epoch), (24, k.oldest)])).refreshYlink l

/-- CH_MAPs that have arrived are in force from their codeword on. -/
def Dev.applyChMap (d : Dev) (l : Nat) : Dev :=
  let k := d.ylink l
  let (now, later) := k.due.partition fun m => !flitBefore k.expect m.2
  match now.getLast? with
  | some (mask, _) =>
    let beat := d.beat
    (d.updYlink l fun j => YLinkSt.noteZero { j with rx := mask, due := later } k.carries beat).refreshYlink l
  | none => d

/-- A receiver reports the channels that it can use (R261): in a control flit, or where the reverse direction still carries training
frames behind the marker of one. -/
def Dev.askChannels (d : Dev) (l : Nat) : Dev :=
  let k := d.ylink l
  let m := mkMsg [(0, 6), (8, k.good)]
  match if k.mask = 0 then lowestBit k.trainMask 8 else none with
  | some n =>
    let (lv, st) := trainFrame (k.prbs.get (fun _ => 2 ^ 31 - 1) n) (some m)
    (d.updYlink l fun k => { k with prbs := k.prbs.set (fun _ => 2 ^ 31 - 1) n st }).emit (.frame l n lv)
  | none => d.sendYard l m

/-- The lasers of a channel of a gate fail: the channel leaves the gate's links (R257). -/
def Dev.dimGate (d : Dev) (g k : Nat) : Dev :=
  (List.range 8).foldl (fun d i =>
    let l := 8 * g + i
    let had := bitOf (d.ylink l).mask k
    let d := d.remapYlink l
    if had then d.inc (r1 .YLINK_CH_DROP l) Fld.YLINK_CH_DROP_CNT else d) d

/-! ## Sending -/

/-- Whether YSTREAM packets on a link follow its schedule: neither end in holdover, from the first frame boundary after both have cleared
(R279). -/
def Dev.streamsRun (d : Dev) (l : Nat) : Bool :=
  !d.inHoldover && d.ylinkStatus l Fld.YLINK_STATUS_PEER_HOLDOVER == 0 && decide (d.yard.streamsFrom ≤ d.beat) &&
    decide ((d.ylink l).streamsFrom ≤ d.beat)

/-- Whether the yard schedule runs (YSCHED_CTRL): from START on, and after EN 0 up to the next frame boundary. -/
def Dev.ysched (d : Dev) : Bool :=
  decide (d.pair (r0 .YSCHED_START_LO) (r0 .YSCHED_START_HI) ≤ d.beat) &&
  (d.flag (r0 .YSCHED_CTRL) Fld.YSCHED_CTRL_EN || match d.yard.schedEnd with | some t => decide (d.beat < t) | none => false)

/-- The stream that a slot of a link is reserved to. -/
def Dev.slotStream (d : Dev) (l s : Nat) : Nat := d.getF (r2 .YSCHED l s) Fld.YSCHED_STREAM

/-- Whether a packet of a stream waits for a link. -/
def Dev.streamWaits (d : Dev) (l st : Nat) : Bool := d.net.any fun f => f.place == .ylink l && pYstream f.pkt == st

/-- Whether a reserved slot keeps bounded packets from starting on a link (R278): one begins within the next 2 beats, or the slot of this
beat belongs to a packet of its stream. -/
def Dev.slotNear (d : Dev) (l : Nat) : Bool :=
  let st := d.slotStream l (d.beat % 128 / 2)
  d.ysched && d.streamsRun l &&
    (([1, 2].any fun i => (d.beat + i) % 2 == 0 && d.slotStream l ((d.beat + i) % 128 / 2) != 0) ||
     (st != 0 && ((d.ylink l).slotAt == some (d.beat / 2 * 2) || (d.beat % 2 == 0 && d.streamWaits l st))))

/-- Whether a link can take the whole of a packet. -/
def Dev.ylinkCan (d : Dev) (l : Nat) (p : Packet) : Bool :=
  let k := d.ylink l
  d.ylinkUp l && k.mask != 0 && decide (k.replay.length + ceilDiv (flits p) 5 ≤ 512) && poolRoom k.used 4096 64 (pVn p) (flits p) &&
    !d.inReset (gateOf l)

/-- Deals a packet into codewords, kept until they are acknowledged (R258, R259). -/
def Dev.ylinkPut (d : Dev) (l : Nat) (p : Packet) : Dev :=
  let d := d.updYlink l fun k => { k with used := k.used.upd (fun _ => 0) (pVn p) (· + flits p) }
  (d.addPair (r1 .YLINK_FLITS_LO l) (r1 .YLINK_FLITS_HI l) (flits p)).newCodewords l (codewords (flitsOf p))

/-- Whether data waits for a link at its gate. -/
def Dev.dataWaits (d : Dev) (l : Nat) : Bool :=
  d.net.any fun f => match f.place with
    | .ylink j => j == l
    | _ => false

/-- Whether a control flit may leave on a link: while data waits, 64 flit slots lie between two of them (R262). Eight channels carry 40
flits in 2.57 beats. -/
def Dev.ctlDue (d : Dev) (l : Nat) : Bool :=
  let k := d.ylink l
  match k.ctlAt with
  | some t => !d.dataWaits l || decide (64 * 257 ≤ (d.beat - t) * popCount k.mask 8 * 500)
  | none => true

/-- Waiting control messages leave: eight in a control flit, and while no data waits as many flits as a codeword holds (R262). -/
def Dev.flushYlink (d : Dev) (l : Nat) : Dev :=
  let k := d.ylink l
  if k.ctl.isEmpty || k.mask == 0 || !d.ylinkOn l || decide (512 ≤ k.replay.length) || d.inReset (gateOf l) || !d.ctlDue l then d
  else
    let n := if d.dataWaits l then 1 else min 5 (ceilDiv k.ctl.length 8)
    let fs := (List.range n).map fun i => Flit.control ((k.ctl.drop (8 * i)).take 8)
    let beat := d.beat
    (d.updYlink l fun k => { k with ctl := k.ctl.drop (8 * n), ctlAt := some beat }).newCodewords l (codewords fs)

/-- A packet that came over a link leaves its gate: its flits are returned to the pool that they filled, VN2's for one that came as
FORWARD (R264, R292). -/
def Dev.yardCredit (d : Dev) (l : Nat) (p : Packet) : Dev :=
  let wrapped := (d.ylink l).asForward.contains p
  let d := if wrapped then d.updYlink l fun k => { k with asForward := k.asForward.erase p } else d
  d.sendYard l (mkMsg [(0, 3), (8, if wrapped then 2 else pVn p), (12, flits p)])

/-! ## Messages of the link layer -/

def Dev.yardAck (d : Dev) (l : Nat) (m : W128) : Dev :=
  d.updYlink l fun k => match findIdxFrom (fun c => c.1 == msgBits m 19 8) k.replay 0 with
    | some i => { k with replay := k.replay.drop (i + 1) }
    | none => k

/-- NACK: the codewords from the one named on are sent again. -/
def Dev.yardNack (d : Dev) (l : Nat) (m : W128) : Dev :=
  let k := d.ylink l
  match findIdxFrom (fun c => c.1 == msgBits m 19 8) k.replay 0 with
  | some i =>
    let again := k.replay.drop i
    again.foldl (fun d c => d.sendCodeword l c.1 c.2) (d.addF (r1 .YLINK_REPLAY l) Fld.YLINK_REPLAY_CNT again.length)
  | none => d

def Dev.yardCreditIn (d : Dev) (l : Nat) (m : W128) : Dev :=
  d.updYlink l fun k => { k with used := k.used.upd (fun _ => 0) (msgBits m 9 8) (· - msgBits m 23 12) }

/-- CH_MAP: answered, and in force from its codeword on. -/
def Dev.chMap (d : Dev) (l : Nat) (m : W128) : Dev :=
  let d := d.updYlink l fun k => { k with due := k.due ++ [(msgBits m 15 8, msgBits m 35 24)] }
  (d.sendYard l (mkMsg [(0, 5), (8, msgBits m 23 16)])).applyChMap l

def Dev.chMapAck (d : Dev) (l : Nat) (m : W128) : Dev := d.updYlink l fun k => { k with acked := msgBits m 15 8 }

/-- CH_REQ: the transmitter adds and drops channels as the receiver asks (R261, R263). -/
def Dev.chReq (d : Dev) (l : Nat) (m : W128) : Dev := (d.updYlink l fun k => { k with asked := msgBits m 15 8 }).remapYlink l

/-! ## Moves of flows (R268) -/

/-- The packets that codewords not acknowledged carry. -/
def YLinkSt.unacked (k : YLinkSt) : List Packet := packetsOf (k.replay.flatMap (·.2))

/-- A failed link's unacknowledged packets are discarded; posted ones enter its gate's loss log (R268). The link starts again from zero
(DESIGN CHOICE, log 138). -/
def Dev.dropYlink (d : Dev) (l : Nat) : Dev :=
  let lost := (d.ylink l).unacked.map unwrapForward
  let d := (lost.filter fun p => !awaitsReply p && !isReply p).foldl (fun d p => d.logLoss (gateOf l) p) d
  d.updYlink l fun k => { k with next := 0, replay := [], used := [], prior := none, expect := 0, nacked := false, part := none, due := [] }

/-- L(m) has changed: affected flows are held, and DRAIN_REQ goes to m; what a failed link had not delivered is discarded. With no link
left there is nothing that can drain. -/
def Dev.flowMove (d : Dev) (m : Nat) : Dev :=
  let now := d.linksTo m
  let before := d.flowLinks m
  let y := d.yard
  if now = before then d
  else
    let failed (l : Nat) : Bool := !now.contains l && d.ylinkStatus l Fld.YLINK_STATUS_FAILED == 1
    let d := (before.filter failed).foldl Dev.dropYlink d
    match now.head? with
    | none =>
      { d with yard := { y with
        links := d.yard.links
        inUse := y.inUse.set (fun _ => []) m []
        moves := y.moves.set (fun _ => none) m none } }
    | some l =>
      let n := (y.drainNum + 1) % 256
      let d := { d with yard := { y with
        links := d.yard.links
        drainNum := n
        moves := y.moves.set (fun _ => none) m (some ⟨before, n⟩) } }
      d.sendYard l (mkMsg [(0, 12), (8, d.self), (12, n)])

def execFlowMove (m : Nat) (s : State) : Out :=
  onUnit (decide (m < 16)) s fun d => d.when (m != d.self && (d.yard.moves.get (fun _ => none) m).isNone) fun d => d.flowMove m

/-- DRAINED: the held packets go on the new links. -/
def Dev.drained (d : Dev) (m : W128) : Dev :=
  let n := msgBits m 19 12
  (List.range 16).foldl (fun d k =>
    match d.yard.moves.get (fun _ => none) k with
    | some mv =>
      if mv.num = n ∧ msgBits m 11 8 = d.self then
        let y := d.yard
        { d with yard := { y with
          moves := y.moves.set (fun _ => none) k none
          inUse := y.inUse.set (fun _ => []) k (d.linksTo k) } }
      else d
    | none => d) d

/-- Whether packets that came over a link have yet to leave their gate. -/
def Dev.linkHolds (d : Dev) (l : Nat) : Bool :=
  d.net.any fun f => f.place == .gate l || f.place == .port (gateOf l) (32 + l % 8)

/-- Whether packets of any kind that came over the links of a member have yet to leave their gate. -/
def Dev.holdsFrom (d : Dev) (m : Nat) : Bool :=
  (List.range 32).any fun l => d.linkHolds l && match (d.ylink l).peer with | some p => p.member == m | none => false

/-- Answers each DRAIN_REQ whose packets have left their gate, over a link up to its member. -/
def Dev.answerDrains (d : Dev) : Dev :=
  let (go, stay) := d.yard.drains.partition fun r => !d.holdsFrom r.member
  let y := d.yard
  go.foldl (fun d r => d.sendYard ((d.linksTo r.member).headD r.link) (mkMsg [(0, 13), (8, r.member), (12, r.num)]))
    { d with yard := { y with drains := stay } }

/-- DRAIN_REQ: answered once every packet of the member on the old links has left the gate. -/
def Dev.drainReq (d : Dev) (l : Nat) (m : W128) : Dev :=
  let y := d.yard
  Dev.answerDrains { d with yard := { y with drains := y.drains ++ [⟨msgBits m 11 8, msgBits m 19 12, l⟩] } }

end Sys2Proof.Machine
end

