-- ==== Sys2Proof/Machine/Port.lean ====
section
/-! DEFINITION. The port routers (R229-R232, R267, R274-R287, R291-R294, R437): the output that a packet takes, tags, the combining stage,
the atomic ledger, and the detour around a failed pair. -/

namespace Sys2Proof.Machine

/-! ## Checks at the first port router (R41, R274) -/

/-- The operation fields of Table 08-6 as (high, low), with the types that use each: a field that the type does not use is zero. -/
def opFields : List (Nat × Nat × List Nat) :=
  [(131, 128, [4, 7]), (135, 132, [4, 7]), (136, 136, [4, 7]), (137, 137, [2, 3, 4, 7]), (138, 138, [3, 7, 8]),
   (143, 139, [3, 7, 8, 9]), (151, 144, [8]), (155, 152, [5, 6]), (175, 173, [2, 3, 4, 5, 6, 7, 8, 9]), (191, 176, [4, 7])]

/-- A non-zero unused field, a value outside its legal range, or a LEN above 1,024. -/
def opBad (p : Packet) : Bool :=
  let t := if pType p = tyFORWARD then pFwdType p else pType p
  decide (1024 < pLen p) || opFields.any (fun f => !f.2.2.contains t && Packet_get p f.1 f.2.1 != 0) ||
  ((t == tyATOMIC || t == tyREDUCE) && (decide (7 < pAop p) || decide (6 < pDtype p))) || (pRetry p == 0 && pOrigDelta p != 0) ||
  (isReply p && decide (7 < pStatus p)) || decide (703 < pSrcTile p)

/-! ## Where a packet is bound -/

/-- The member that a packet goes to: a reply to its requester's. -/
def homeMember (p : Packet) : Nat := if isReply p then pSrcMember p else addrMember (pAddr p)

/-- The reply in a FORWARD, or a packet as it is. -/
def inner (p : Packet) : Packet := if pType p = tyFORWARD then unwrapForward p else p

/-- Whether a FORWARD goes on to a member: this one, one in the yard, or one that has announced its join (Table 08-5, step 5). -/
def Dev.knows (d : Dev) (m : Nat) : Bool := m == d.self || d.inYard m || (d.yard.joins.get (fun _ => none) m).isSome

/-- The link towards a member that R267 gives; none while the packet's flow is to move (R268). -/
def Dev.linkFor (d : Dev) (m : Nat) (p : Packet) : Option Nat :=
  let pick (ls : List Nat) := pickLink ls (pSrcBarn p) (pSrcTile p) (addrTarget (pAddr p))
  if pick (d.flowLinks m) = pick (d.linksTo m) then pick (d.linksTo m) else none

/-- The link that a packet takes to a member, and whether it goes by relay (R291, R292). -/
def Dev.yardRoute (d : Dev) (m : Nat) (p : Packet) : Option (Nat × Bool) :=
  match d.linkFor m p with
  | some l => some (l, false)
  | none =>
    if (d.linksTo m).isEmpty && (d.flowLinks m).isEmpty then
      match d.relayFor m with
      | some r => (d.linkFor r p).map fun l => (l, true)
      | none => none
    else none

/-! ## Detours (R437) -/

/-- A FORWARD around a failed pair carries the router at its far end in DST_SITE, below 512. -/
def isDetour (p : Packet) : Bool := pType p == tyFORWARD && decide (512 ≤ pDstSite p)
def detourEnd (p : Packet) : Nat := pDstSite p % 32

/-- A packet wrapped for a detour; one that is a FORWARD already is marked. -/
def wrapDetour (p : Packet) (q : Nat) : Packet :=
  if pType p = tyFORWARD then pSet p 28 19 (512 + 256 + q) else wrapForward p (512 + q)

/-- The packet that a detour carried. -/
def unwrapDetour (p : Packet) : Packet := if bitOf (pDstSite p) 8 then pSet p 28 19 0 else pSet (unwrapForward p) 28 19 0

/-- Whether the pair of two routers is up. -/
def Dev.pairUp (d : Dev) (p q : Nat) : Bool := match pairLink p q with | some e => !d.linkFailed e | none => false

/-- The relay kind of Table 13-8 for a pair. -/
def relayKind (p q : Nat) : List Nat :=
  let gate (n : Nat) : Bool := decide (28 ≤ n)
  let hbm (n : Nat) : Bool := decide (8 ≤ n) && decide (n < 28)
  if (gate p && gate q) || ((hbm p || hbm q) && !gate p && !gate q) then [28, 29, 30, 31] else List.range 8

/-- The lowest-numbered relay whose pairs to both ends are up. -/
def Dev.relayRouter (d : Dev) (p q : Nat) : Option Nat :=
  (relayKind p q).find? fun r => r != p && r != q && d.pairUp p r && d.pairUp r q

/-- Whether a detoured packet towards a router is still under way (the drain order of R268). -/
def Dev.detouring (d : Dev) (q : Nat) : Bool :=
  let bound (p : Packet) : Bool := isDetour p && detourEnd p == q
  d.net.any (fun f => bound f.pkt) || d.olinks.any fun c => (packetsOf (c.2.replay.map (·.2))).any bound

/-- Puts a packet on the link from p to q, if it can take it. -/
def Dev.putOn (d : Dev) (p q : Nat) (pkt : Packet) : Option Dev :=
  match pairLink p q with
  | some e => if d.linkCan e (dirFrom e p) pkt then some (d.linkPut e (dirFrom e p) pkt) else none
  | none => none

/-- Sends a packet from router p to router q, around a failed pair by its relay. -/
def Dev.forwardTo (d : Dev) (p q : Nat) (pkt : Packet) : Option Dev :=
  if d.pairUp p q then (if d.detouring q then none else d.putOn p q pkt)
  else match d.relayRouter p q with
    | some r => d.putOn p r (wrapDetour pkt q)
    | none => none

/-! ## Tags (R280) -/

/-- The lowest tag that is free, of 8,192. -/
def PortSt.freeTag (s : PortSt) : Option Nat :=
  ((List.range (s.tags.length + 1)).find? fun n => !s.tags.any fun t => t.tag == n).filter (· < 8192)

/-- A request that awaits a reply takes a tag, if one is free; others need none. `out` is the router or yard link it goes to. -/
def Dev.tagged (d : Dev) (p : Nat) (pkt : Packet) (out : Nat) : Option (Packet × Dev) :=
  if !awaitsReply pkt then some (pkt, d)
  else match (d.port p).freeTag with
    | some n => some (pSet pkt 63 48 n, d.updPort p fun s => { s with tags := s.tags ++ [⟨n, pkt, out⟩] })
    | none => none

/-- A reply gets the TAG of its request back, is bound for the request's site, and frees the tag. -/
def Dev.untag (d : Dev) (p : Nat) (pkt : Packet) : Option (Packet × Dev) :=
  match (d.port p).tags.find? fun t => t.tag == pTag pkt && sameKey t.req pkt with
  | some t =>
    some (pSet (pSet pkt 63 48 (pTag t.req)) 28 19 (pSrcSite t.req), d.updPort p fun s => { s with tags := s.tags.erase t })
  | none => none

/-! ## Into the barn (R182) -/

/-- A packet enters barn b at the tap of its site, if the tap has a bundle in service (R181) and its router room (R170). -/
def Dev.enterBarn (d : Dev) (b : Nat) (pkt : Packet) (site : Nat) : Option Dev :=
  let tap := d.getF (r2 .RTR_TAP b site) Fld.RTR_TAP_TAP_SITE
  let q := pSet (pSet pkt 28 19 site) 29 29 0
  let q := d.setMode b tap (if isReply pkt then q else pSet q 41 32 tap)
  if d.getF (r2 .TAP_STATUS b tap) Fld.TAP_STATUS_IN_SERVICE != 0 && d.routerRoom b tap 5 q && d.turnRoom b tap 5 q
  then some (d.send (.router b tap 5) q) else none

/-- The site that a barn's MAP gives for a logical tile, as its first tap router holds it. -/
def Dev.mapSite (d : Dev) (b t : Nat) : Option Nat :=
  let w := d.mapEntry b 352 t
  if Fld.MAP_VALID.get w = 1 then some (Fld.MAP_SITE.get w) else none

/-! ## The memory output of a target port -/

/-- A reply that a port router makes itself. -/
def Dev.portReply (d : Dev) (p : Nat) (req : Packet) (status : Nat) (data : List Byte) (marks : List Bool) : Dev :=
  d.send (.port p 32) (mkReply req status data marks)

/-- A target port router refuses a request: the status is recorded where the ledger governs it (R286), and joins that of the copy whose
posted packet it is (R104). -/
def Dev.refuseAt (d : Dev) (p : Nat) (pkt : Packet) (status : Nat) : Dev :=
  let d := if ledgered pkt then d.recordResult p pkt status [] else d
  if awaitsReply pkt then d.portReply p pkt status [] [] else d.noteReject pkt status

/-- A packet leaves for the target's memory, if the output can take it: to its tile, or to the controller. -/
def Dev.memOut (d : Dev) (p : Nat) (pkt : Packet) : Option Dev :=
  if p < 8 then
    match d.mapSite p (addrTile (pAddr pkt)) with
    | some x => d.enterBarn p pkt x
    | none => some (d.refuseAt p pkt stDenied)
  else if d.net.any fun f => f.place == .hbm (p - 8) then none
  else some (d.send (.hbm (p - 8)) pkt)

/-! ## Hot lines (R294) -/

def hotLine (p : Packet) : Nat := pAddr p / 64

def fullLine (p : Packet) : Bool := (pType p == tyWRITE) && pLen p == 64 && pAddr p % 64 == 0
def foldable (p : Packet) : Bool := pType p == tyREDUCE && pAck p == 0 && pAddr p % 64 + pLen p ≤ 64

def sameArrival (p q : Packet) : Bool := pActEn p == pActEn q && pActr p == pActr q

/-- A packet coalesced or folded is counted, its line recorded; a rate above HOT_THRESH raises the port's source. -/
def Dev.noteHot (d : Dev) (p : Nat) (pkt : Packet) : Dev :=
  let d := (d.inc (r1 .HOT p) Fld.HOT_CNT).setPair (r1 .HOT_ADDR_LO p) (r1 .HOT_ADDR_HI p) (hotLine pkt * 64)
  let s := d.port p
  let fresh := decide (s.hotStart + 10000 ≤ d.beat)
  let n := if fresh then 1 else s.hotCount + 1
  let d := d.setPort p { s with hotStart := if fresh then d.beat else s.hotStart, hotCount := n }
  d.when (n == (d.rd (r1 .HOT_THRESH p)).toNat + 1) fun d => d.raise (32 + p)

/-- The marks of two payloads folded into one. -/
def joinMarks (a b : List Bool) (n : Nat) : List Bool :=
  if a.isEmpty && b.isEmpty then [] else (List.range n).map fun i => nth a i false || nth b i false

/-- What a packet becomes when a later one is coalesced or folded into it: a full-line store is replaced, a reduction of the same bytes
takes in the other's. -/
def combineEntry (e p : Packet) : Packet :=
  if fullLine p then { p with folded := p.folded + pLen e + e.folded }
  else { e with
    data := combineRow (pAop e) (pDtype e) e.data p.data
    marks := joinMarks e.marks p.marks e.data.length
    folded := e.folded + pLen p + p.folded }

/-- Whether a packet joins the waiting entry of its line, of which e is a packet (R294): a full-line store the entry's store, a reduction
the entry's reductions, with the same arrival and operation. -/
def joinsEntry (e p : Packet) : Bool :=
  sameArrival e p && ((fullLine e && fullLine p) || (foldable e && foldable p && pAop e == pAop p && pDtype e == pDtype p))

/-- A packet joins the waiting entry of its line. A reduction of other bytes than those folded so far is one more packet of the entry; a
store that is replaced completes with OK. -/
def Dev.joinEntry (d : Dev) (p : Nat) (pkt : Packet) : Dev :=
  let same (e : Packet) : Bool := hotLine e == hotLine pkt && pAddr e == pAddr pkt && pLen e == pLen pkt
  let d := d.noteHot p pkt
  match (d.port p).lines.find? same with
  | some e =>
    let d := d.updPort p fun s => { s with
      lines := updFirst (· == e) (fun e => combineEntry e pkt) s.lines
      foldedIn := if fullLine pkt then s.foldedIn else s.foldedIn ++ [{ pkt with data := [] }] }
    if fullLine pkt && awaitsReply e then d.portReply p e stOk [] [] else d
  | none => d.updPort p fun s => { s with lines := s.lines ++ [pkt] }

/-- A packet of a waiting entry has gone to memory. -/
def PortSt.drained (s : PortSt) (e : Packet) : PortSt :=
  { s with
    lines := s.lines.erase e
    foldedIn := s.foldedIn.filter fun q => !(pAddr q == pAddr e && pLen q == pLen e) }

/-- Whether the ledger of a port is full of entries younger than RETAIN (R287). -/
def Dev.ledgerFull (d : Dev) (p : Nat) : Bool :=
  decide (4096 ≤ (d.port p).ledger.length) && match (d.port p).ledger with
    | [] => false
    | e :: _ => decide (d.beat < e.beat + d.getF (r0 .YARD_LEDGER) Fld.YARD_LEDGER_RETAIN)

/-- Whether a packet is an ATOMIC or REDUCE_ACK for the target of a port. -/
def Dev.forLedger (d : Dev) (p : Nat) (pkt : Packet) : Bool :=
  ledgered pkt && addrMember (pAddr pkt) == d.self && d.targetPort (pAddr pkt) == p

/-- Whether an ATOMIC or REDUCE_ACK is held in its input: the ledger has no room for it (R287). -/
def Dev.holds (d : Dev) (p : Nat) (pkt : Packet) : Bool :=
  d.forLedger p pkt && d.ledgerFull p && !(d.port p).ledger.any fun e => sameKey e.req pkt

/-- Past the combining stage: a packet of the ledger goes to its check, one at a time and with room in the ledger; another goes to memory,
but not past an earlier packet of its stream that waits there (R289). -/
def Dev.pastStage (d : Dev) (p : Nat) (pkt : Packet) : Option Dev :=
  let busy (f : Flight) : Bool := f.place == .ledger p && (ledgered pkt || sameStream f.pkt pkt)
  if d.net.any busy || d.holds p pkt then none
  else if ledgered pkt then some (d.send (.ledger p) pkt)
  else d.memOut p pkt

/-- A packet for the target at port router p reaches the combining stage: it joins the waiting entry of its line, waits until that entry
has gone to memory, goes past, or makes an entry while the output cannot take it. -/
def Dev.hotStage (d : Dev) (p : Nat) (pkt : Packet) : Option Dev :=
  let on := d.flag (r1 .PORT_CTRL p) Fld.PORT_CTRL_HOT_EN
  let lines := (d.port p).lines
  let stored := fullLine pkt || foldable pkt
  match lines.find? fun e => hotLine e == hotLine pkt with
  | some e => if on && stored && joinsEntry e pkt then some (d.joinEntry p pkt) else none
  | none =>
    match d.pastStage p pkt with
    | some d => some d
    | none =>
      if on && stored && decide ((lines.map hotLine).eraseDups.length < 64) then
        some (d.updPort p fun s => { s with lines := s.lines ++ [pkt] })
      else none

/-- Waiting entries go to memory as soon as the output takes them. -/
def Dev.drainLines (d : Dev) (p : Nat) : Dev :=
  (d.port p).lines.foldl (fun d e => match d.memOut p e with
    | some d => d.updPort p fun s => s.drained e
    | none => d) d

/-- A request leaves its input for execution: the router owes its source a credit, if that is a tile (R293). -/
def Dev.oweCredit (d : Dev) (p : Nat) (pkt : Packet) : Dev :=
  if pkt.host then d else d.updPort p fun s => { s with owed := s.owed.upd (fun _ => 0) (srcKey pkt) (· + 1) }

/-- A request at its target port router; for a barn out of service it is refused, or dropped if posted (R40). -/
def Dev.atTarget (d : Dev) (p : Nat) (pkt : Packet) : Option Dev :=
  if decide (p < 8) && !bitOf d.barnsIn p then some ((d.refuseAt p pkt stDenied).oweCredit p pkt)
  else (d.hotStage p pkt).map fun d => d.oweCredit p pkt

/-! ## Output selection (Table 07-2) -/

/-- Copies of a multicast go out one after the other; none goes where one cannot (R277). -/
def sendAll (d : Dev) (fs : List (Dev → Option Dev)) : Option Dev :=
  fs.foldl (fun a f => match a with | some d => f d | none => none) (some d)

/-- The members of a multicast's group, in the yard and other than this one, that a copy is for. -/
def Dev.otherMembers (d : Dev) (pkt : Packet) : List Nat :=
  (d.membersOf pkt).filter fun m => m != d.self && d.inYard m && (pkt.copies == 0 || bitOf pkt.copies m)

/-- The copy of a multicast for some members. -/
def copyFor (pkt : Packet) (ms : List Nat) : Packet := { pkt with copies := sumNat (ms.map fun m => 2 ^ m) }

/-- A multicast at the barn port router that its source injects into: a copy to the own member's target, and one to each gate that
serves a chosen link. -/
def Dev.mcastOut (d : Dev) (p : Nat) (pkt : Packet) : Option Dev :=
  let ms := d.otherMembers pkt
  if ms.any fun m => (d.yardRoute m pkt).isNone then none
  else
    let served (g : Nat) : List Nat := ms.filter fun m => match d.yardRoute m pkt with
      | some (l, _) => l / 8 == g
      | none => false
    let gates := (List.range 4).filter fun g => !(served g).isEmpty
    let t := d.targetPort (pAddr pkt)
    let own : List (Dev → Option Dev) :=
      if (d.membersOf pkt).contains d.self then [fun d => if t = p then d.atTarget p pkt else d.forwardTo p t pkt] else []
    sendAll d (own ++ gates.map fun g => fun d => d.forwardTo p (28 + g) (copyFor pkt (served g)))

/-- A packet goes onto yard link l of gate p: YSTREAM packets wait for their slot (R278), bounded ones keep clear of it. -/
def Dev.ontoYard (d : Dev) (l : Nat) (pkt : Packet) : Option Dev :=
  if pYstream pkt ≠ 0 ∧ d.streamsRun l then some (d.send (.ylink l) pkt)
  else if d.slotNear l || !d.ylinkCan l pkt then none
  else some (d.ylinkPut l pkt)

/-- A packet at gate p goes onto a yard link: on another gate's link by way of that gate. -/
def Dev.toYard (d : Dev) (p l : Nat) (pkt : Packet) : Option Dev := if gateOf l = p then d.ontoYard l pkt else d.forwardTo p (gateOf l) pkt

/-- The copies of a multicast that a gate sends on, each on its member's link or to that link's gate; by relay the copy names its member.
One that names no members is for those of its group whose links the gate serves. -/
def Dev.mcastYard (d : Dev) (p : Nat) (pkt : Packet) : Option Dev :=
  let here (m : Nat) : Bool := match d.yardRoute m pkt with
    | some (l, _) => gateOf l == p
    | none => false
  let ms := (d.otherMembers pkt).filter fun m => pkt.copies != 0 || here m
  sendAll d (ms.map fun m => fun d => match d.yardRoute m pkt with
    | some (l, false) => d.toYard p l (copyFor pkt (if gateOf l = p then [] else [m]))
    | some (l, true) => d.toYard p l (wrapForward (pSet (copyFor pkt []) 123 120 m) 0)
    | none => none)

/-- The router that a reply goes to in this package: its requester's barn, or the gate of its link. -/
def Dev.replyRouter (d : Dev) (pkt : Packet) : Option Nat :=
  if pSrcMember pkt = d.self then some (pSrcBarn pkt) else (d.yardRoute (pSrcMember pkt) pkt).map fun l => gateOf l.1

/-- A barn port router answers a request of its barn itself. -/
def Dev.answerOwn (d : Dev) (p : Nat) (req : Packet) (status : Nat) : Dev :=
  if awaitsReply req then d.send (.port p 40) (mkReply req status [] []) else d

/-- At a barn port router. A request of an Ethernet engine takes a tag also where its target is the router's own barn (R340). A request for
a member that has left ends with DENIED, other packets for it are discarded (R40, R272). -/
def Dev.barnRoute (d : Dev) (p inp : Nat) (pkt : Packet) : Option Dev :=
  if isReply pkt then
    if pSrcMember pkt = d.self ∧ pSrcBarn pkt = p then
      if pkt.credits ≠ 0 then
        match d.mapSite p (pSrcTile pkt) with
        | some x => d.enterBarn p pkt x
        | none => some d
      else if pkt.host then
        if inp = 40 then some (d.send (.eth p) pkt)
        else match d.untag p pkt with
          | some (q, d) => some (d.send (.eth p) q)
          | none => some d
      else if inp = 32 then (d.mapSite p (pSrcTile pkt)).bind fun x => d.enterBarn p pkt x
      else if inp = 40 then d.enterBarn p pkt (pDstSite pkt)
      else match d.untag p pkt with
        | some (q, d) => d.enterBarn p q (pDstSite q)
        | none => some d
    else if !d.inYard (pSrcMember pkt) then some d
    else (d.replyRouter pkt).bind fun q => d.forwardTo p q pkt
  else if inp = 33 then
    let t := d.targetPort (pAddr pkt)
    (d.tagged p pkt t).bind fun r => if t = p then r.2.atTarget p r.1 else r.2.forwardTo p t r.1
  else if inp ≠ 32 then d.atTarget p pkt
  else if pType pkt = tyMCAST then d.mcastOut p pkt
  else if addrMember (pAddr pkt) = d.self then
    let t := d.targetPort (pAddr pkt)
    if t = p then d.atTarget p pkt
    else (d.tagged p pkt t).bind fun r => r.2.forwardTo p t r.1
  else if !d.inYard (addrMember (pAddr pkt)) then some (d.answerOwn p pkt stDenied)
  else
    (d.yardRoute (addrMember (pAddr pkt)) pkt).bind fun l =>
      (d.tagged p pkt (gateOf l.1)).bind fun r => r.2.forwardTo p (gateOf l.1) r.1

/-- At an HBM port router. -/
def Dev.hbmRoute (d : Dev) (p inp : Nat) (pkt : Packet) : Option Dev :=
  if inp ≠ 32 then d.atTarget p pkt
  else if !d.inYard (pSrcMember pkt) then some d
  else (d.replyRouter pkt).bind fun q => d.forwardTo p q pkt

/-- A FORWARD at a gate goes on to its member; one for a member that has left is discarded. -/
def Dev.passOn (d : Dev) (p : Nat) (pkt : Packet) : Option Dev :=
  let m := homeMember (inner pkt)
  if d.knows m then (d.linkFor m pkt).bind fun l => d.toYard p l pkt else some d

/-- At a gate, from its yard links: a relayed packet leaves again (R292), a reply is restored, a request goes to its target. -/
def Dev.gateIn (d : Dev) (p inp : Nat) (pkt : Packet) : Option Dev :=
  if pType pkt = tyFORWARD then d.passOn p pkt
  else if isReply pkt then
    if inp = 40 ∨ pkt.credits ≠ 0 then d.forwardTo p (pSrcBarn pkt) pkt
    else match d.untag p pkt with
      | some (q, d) => d.forwardTo p (pSrcBarn q) q
      | none => some d
  else d.forwardTo p (d.targetPort (pAddr pkt)) pkt

/-- At a gate, from the base: onto a yard link. -/
def Dev.gateOut (d : Dev) (p : Nat) (pkt : Packet) : Option Dev :=
  if pType pkt = tyMCAST then d.mcastYard p pkt
  else if pType pkt = tyFORWARD then d.passOn p pkt
  else if !d.inYard (homeMember pkt) then some d
  else
    (d.yardRoute (homeMember pkt) pkt).bind fun l =>
      (if isReply pkt || gateOf l.1 != p then some (pkt, d) else d.tagged p pkt (32 + l.1)).bind fun r =>
        r.2.toYard p l.1 (if l.2 && gateOf l.1 == p then wrapForward r.1 0 else r.1)

/-- The output that a packet's destination selects; none while it has to wait. -/
def Dev.portRoute (d : Dev) (p inp : Nat) (pkt : Packet) : Option Dev :=
  if p < 8 then d.barnRoute p inp pkt
  else if p < 28 then d.hbmRoute p inp pkt
  else if 32 ≤ inp then d.gateIn p inp pkt
  else d.gateOut p pkt

/-- What a port router does with a packet at an input: dropped where malformed at the first router (R274), sent on where it is on a
detour, else routed. -/
def Dev.portOutcome (d : Dev) (p inp : Nat) (pkt : Packet) : Option Dev :=
  if 32 ≤ inp ∧ (p < 8 ∨ 28 ≤ p) ∧ opBad pkt then some (d.inc (r1 .PORT_MALFORMED p) Fld.PORT_MALFORMED_CNT)
  else if isDetour pkt then
    if detourEnd pkt = p then d.portRoute p inp (unwrapDetour pkt) else d.putOn p (detourEnd pkt) pkt
  else d.portRoute p inp pkt

/-- A packet leaves its input: its flits' credits return, and the beat is noted. -/
def Dev.leaveInput (d : Dev) (p inp : Nat) (pkt : Packet) : Dev :=
  let beat := d.beat
  let d := ((d.take (.port p inp) pkt).creditBack p inp pkt).updPort p fun s => { s with moved := s.moved.set (fun _ => 0) inp beat }
  if 28 ≤ p ∧ 32 ≤ inp ∧ inp < 40 then d.yardCredit ((p - 28) * 8 + (inp - 32)) pkt else d

/-- LEDGER_HOLD shows whether a packet is held for room in a port's ledger (R287). -/
def Dev.showHold (d : Dev) (p : Nat) : Dev :=
  let held (f : Flight) : Bool := (match f.place with | .port q _ => q == p | .ledger q => q == p | _ => false) && d.holds p f.pkt
  d.setF (r1 .PORT_STATUS p) Fld.PORT_STATUS_LEDGER_HOLD (boolNat (d.net.any held))

/-- A packet at an input of a port router: forwarded whole, or it waits there. -/
def Dev.portPacket (d : Dev) (p inp : Nat) (pkt : Packet) : Dev :=
  let d := d.drainLines p
  if d.isFront (.port p inp) pkt then
    match (d.leaveInput p inp pkt).portOutcome p inp pkt with
    | some d' => if 28 ≤ p then d'.answerDrains else d'
    | none => (d.standAt (.port p inp) pkt).when (d.holds p pkt) fun d => d.showHold p
  else d

def execPortRouterPacket (p inp : Nat) (pkt : Packet) (s : State) : Out :=
  onUnit (decide (p < 32) && decide (inp ≤ 40)) s fun d => d.when (!d.inReset p) fun d => d.portPacket p inp pkt

/-- The first packet at an input of a router that meets a predicate. -/
def Dev.waitingAt (d : Dev) (p : Nat) (ok : Packet → Bool) : Option (Nat × Packet) :=
  d.net.findSome? fun f => match f.place with
    | .port q i => if q = p ∧ ok f.pkt then some (i, f.pkt) else none
    | _ => none

/-- The reply that frees a tag passes, and a request that waits for one goes on. -/
def Dev.freeTag (d : Dev) (p i : Nat) (k : Packet) : Dev :=
  let d := d.portPacket p i k
  match d.waitingAt p awaitsReply with
  | some (j, q) => d.portPacket p j q
  | none => d

/-- A reply with a tag frees it, and a request held for a tag proceeds (R280). -/
def execTagFree (p tag : Nat) (s : State) : Out :=
  onUnit (decide (p < 8 || (28 ≤ p && p < 32)) && decide (tag < 8192)) s fun d =>
    d.when (!d.inReset p) fun d =>
      match d.waitingAt p fun k => isReply k && pTag k == tag with
      | none => d
      | some (i, k) =>
        d.freeTag p i k

/-! ## The atomic ledger (R283, R285-R287) -/

/-- Evicts the oldest entry, its SEQ kept as its source's watermark. -/
def PortSt.evict (s : PortSt) : PortSt :=
  match s.ledger with
  | [] => s
  | e :: t =>
    let k := srcKey e.req
    let w := s.water.get (fun _ => none) k
    let w' := match w with | some v => if seqBefore v (pSeq e.req) then pSeq e.req else v | none => pSeq e.req
    { s with ledger := t, water := s.water.set (fun _ => none) k (some w') }

/-- Makes a pending entry and applies the request; none while the ledger is full of younger entries or the output is not ready. -/
def Dev.ledgerApply (d : Dev) (p : Nat) (pkt : Packet) : Option Dev :=
  if d.ledgerFull p then none
  else
    let beat := d.beat
    let d := if decide (4096 ≤ (d.port p).ledger.length) then d.updPort p PortSt.evict else d
    (d.updPort p fun s => { s with ledger := s.ledger ++ [{ req := pkt, beat := beat }] }).memOut p pkt

/-- What R286 does with a packet that passed R283; none where it waits. -/
def Dev.ledgerOutcome (d : Dev) (p : Nat) (pkt : Packet) : Option Dev :=
  let s := d.port p
  let st := r1 .PORT_STATUS p
  let unknown := some ((d.inc (r1 .LEDGER_UNKNOWN p) Fld.LEDGER_UNKNOWN_CNT).portReply p pkt stUnknown [] [])
  match s.ledger.find? fun e => sameKey e.req pkt with
  | some e =>
    if e.pending then none
    else some ((d.inc (r1 .LEDGER_HIT p) Fld.LEDGER_HIT_CNT).portReply p pkt e.status e.result e.marks)
  | none =>
    if pRetry pkt = 0 then d.ledgerApply p pkt
    else
      let orig := (pAttempt pkt + 2 ^ 32 - 16 * pOrigDelta pkt) % 2 ^ 32
      let old := match s.water.get (fun _ => none) (srcKey pkt) with
        | some w => !seqBefore w (pSeq pkt)
        | none => false
      if old || (d.flag st Fld.PORT_STATUS_RESET_SEEN && seqBefore orig (d.rd (r1 .PORT_RESET_BEAT_LO p)).toNat) then unknown
      else (d.ledgerApply p pkt).map fun d => d.inc (r1 .RETRY_APPLIED p) Fld.RETRY_APPLIED_CNT

/-- Whether an attempt is older than LIFETIME (R283). -/
def Dev.expired (d : Dev) (pkt : Packet) : Bool :=
  decide (signed 32 (d.beat + 2 ^ 32 - pAttempt pkt) > (d.getF (r0 .YARD_TIMING) Fld.YARD_TIMING_LIFETIME : Int))

/-- A target port router takes an ATOMIC or REDUCE_ACK for execution. -/
def Dev.ledgerExecute (d : Dev) (p : Nat) (pkt : Packet) : Dev :=
  let t := d.take (.ledger p) pkt
  let d' := if d.expired pkt then t.inc (r1 .LEDGER_EXPIRED p) Fld.LEDGER_EXPIRED_CNT
    else (t.ledgerOutcome p pkt).getD (d.standAt (.ledger p) pkt)
  d'.showHold p

def execLedgerExecute (p : Nat) (pkt : Packet) (s : State) : Out :=
  onUnit (decide (p < 28)) s fun d => d.when (ledgered pkt && !d.inReset p && d.isFront (.ledger p) pkt) fun d => d.ledgerExecute p pkt

/-- The oldest entry that may go is evicted, and a packet that was held leaves its input and executes. -/
def Dev.releaseHold (d : Dev) (p : Nat) : Dev :=
  let held := d.waitingAt p (d.forLedger p)
  let d := (d.updPort p PortSt.evict).showHold p
  let d := match held with
    | some (i, k) => d.portPacket p i k
    | none => d
  match d.net.find? fun f => f.place == .ledger p with
  | some f => d.ledgerExecute p f.pkt
  | none => d

/-- The oldest entry reaches RETAIN: it is evicted and a held atomic proceeds (R287). -/
def execLedgerHoldRelease (p : Nat) (s : State) : Out :=
  onUnit (decide (p < 28)) s fun d =>
    d.when (d.flag (r1 .PORT_STATUS p) Fld.PORT_STATUS_LEDGER_HOLD && !d.ledgerFull p) fun d => d.releaseHold p

/-! ## Segment resets (R284, R435, R436) -/

/-- The router whose buffers a place belongs to. -/
def placeRouter : Place → Option Nat
  | .port p _ => some p
  | .ledger p => some p
  | .gate l => some (gateOf l)
  | .ylink l => some (gateOf l)
  | _ => none

/-- The links of a router. -/
def linksOfRouter (p : Nat) : List Nat := (List.range 32).filterMap (pairLink p)

/-- Whether a tagged request was routed through a port router of a member. -/
def Dev.passed (d : Dev) (t : TagEntry) (m q : Nat) : Bool :=
  let a := pAddr t.req
  if m = d.self then t.out == q || (addrMember a == m && d.targetPort a == q)
  else addrMember a == m && (addrTarget a == q ||
    match d.linkFor m t.req with
    | some l => 28 + d.ylinkStatus l Fld.YLINK_STATUS_PEER_LINK / 8 == q
    | none => false)

/-- A router answers a tagged request itself: into its barn, or from a gate through the base. -/
def Dev.answerTag (d : Dev) (p : Nat) (t : TagEntry) (status : Nat) : Dev :=
  d.send (.port p 40) (mkReply t.req status [] [])

/-- A RESET_NOTICE reaches a router that holds tags: the slots whose requests passed the reset router are marked (R284). -/
def Dev.resetNotice (d : Dev) (p : Nat) (m : W128) : Dev :=
  let hit := (d.port p).tags.filter fun t => d.passed t (msgBits m 11 8) (msgBits m 16 12)
  let d := d.updPort p fun s => { s with tags := s.tags.filter fun t => !hit.contains t }
  hit.foldl (fun d t => d.answerTag p t stPortReset) d

/-- A RESET_NOTICE goes from a router over its base links to the routers that hold tags. -/
def Dev.baseNotice (d : Dev) (p : Nat) (m : W128) : Dev :=
  ((List.range 8 ++ [28, 29, 30, 31]).filter fun q => q != p && !d.inReset q).foldl (fun d q => d.resetNotice q m) d

/-- A direction pair of a yard link starts again from zero: what was not acknowledged is discarded and accounted for at the gate (R435). -/
def Dev.restartYlink (d : Dev) (l : Nat) : Dev :=
  (d.account (gateOf l) (d.ylink l).unacked).updYlink l fun k => { k with
    next := 0, replay := [], used := [], ctl := [], epoch := 0, prior := none, expect := 0, nacked := false, part := none, due := []
    asForward := [] }

/-- A RESET_NOTICE that comes over a yard link: the gate marks its tags and tells the routers of its base; where the router reset is the
gate at the link's far end, the link starts again (R284, R435). -/
def Dev.yardNotice (d : Dev) (l : Nat) (m : W128) : Dev :=
  let far := match (d.ylink l).peer with
    | some q => q.member == msgBits m 11 8 && 28 + q.link / 8 == msgBits m 16 12
    | none => false
  let d := if far then d.restartYlink l else d
  (d.resetNotice (gateOf l) m).baseNotice (gateOf l) m

/-- The RESET_NOTICE of a router goes out on every yard link that is up: from a gate that is reset at once, in a control flit (R284). -/
def Dev.sendNotices (d : Dev) (p beat : Nat) : Dev :=
  let m := mkMsg [(0, 11), (8, d.self), (12, p), (64, beat)]
  ((List.range 32).filter d.ylinkUp).foldl (fun d l =>
    if gateOf l = p then d.newCodewords l (codewords [.control [m]]) else d.sendYard l m) (d.baseNotice p m)

/-- Resets a port router segment at its first beat. -/
def Dev.portReset (d : Dev) (p : Nat) : Dev :=
  let gone (f : Flight) : Bool := placeRouter f.place == some p
  let lost := (d.net.filter gone).map Flight.pkt ++ (d.port p).lines ++ (d.port p).foldedIn
  let beat := d.beat
  let broken (o : HostOp) : HostOp := if o.router = some p then { o with left := 0, status := stPortReset } else o
  let d := { d with net := d.net.filter fun f => !gone f, hostOps := d.hostOps.map broken }
  -- the log holds the losses of the last reset
  let d := (List.range 16).foldl (fun d i => d.setF (r2 .PORT_LOSS0 p i) Fld.PORT_LOSS0_VALID 0)
    (d.setF (r1 .PORT_STATUS p) Fld.PORT_STATUS_LOSS_OVF 0)
  let d := d.account p lost
  let d := (linksOfRouter p).foldl (fun d e => (d.restartLink e 0).restartLink e 1) d
  let d := d.updPort p fun s => { s with tags := [], ledger := [], lines := [], foldedIn := [], owed := [], resetAt := some beat }
  let st := r1 .PORT_STATUS p
  let d := ((d.setF st Fld.PORT_STATUS_RESET_SEEN 1).setF st Fld.PORT_STATUS_LEDGER_HOLD 0).setF (r1 .PORT_CTRL p) Fld.PORT_CTRL_RESET 1
  let d := d.setPair (r1 .PORT_RESET_BEAT_LO p) (r1 .PORT_RESET_BEAT_HI p) beat
  let d := d.sendNotices p beat
  if p < 28 then d else (List.range 8).foldl (fun d i => d.restartYlink ((p - 28) * 8 + i)) d

/-- The reset ends: the router takes part again; its links restarted from zero at its first beat. -/
def execPortResetEnd (p : Nat) (s : State) : Out :=
  onUnit (decide (p < 32)) s fun d =>
    d.when (d.inReset p) fun d => (d.updPort p fun s => { s with resetAt := none }).setF (r1 .PORT_CTRL p) Fld.PORT_CTRL_RESET 0

/-- A packet stands at the head of an input for PORT_HANG_LIMIT beats with no packet leaving it: the Ringmaster resets the router. -/
def execPortHang (p : Nat) (s : State) : Out :=
  onUnit (decide (p < 32)) s fun d =>
    let limit := d.getF (r0 .FAR_LIMITS) Fld.FAR_LIMITS_PORT_HANG_LIMIT
    let stuck := (List.range 41).any fun i =>
      d.net.any (fun f => f.place == .port p i) && decide ((d.port p).moved.get (fun _ => 0) i + limit ≤ d.beat)
    d.when (d.hasMaster && stuck && !d.inReset p) fun d => d.portReset p

/-- A port router reports an uncorrectable error in its own state: the Ringmaster resets it. -/
def execPortUncorrectableError (p : Nat) (s : State) : Out :=
  onUnit (decide (p < 32)) s fun d => d.when (d.hasMaster && !d.inReset p) fun d => d.portReset p

/-- The losses that a port noted go to the Ringmaster's records. -/
def Dev.reportLosses (d : Dev) (p : Nat) : Dev :=
  let valid := (List.range 16).filter fun i => d.flag (r2 .PORT_LOSS0 p i) Fld.PORT_LOSS0_VALID
  (valid.foldl (fun d i =>
    let d := match (List.range 64).find? fun j => !d.flag (r1 .RM_LOSS0 j) Fld.RM_LOSS0_VALID with
      | some j =>
        let h := r1 .RM_LOSS0 j
        let d := ((d.setF h Fld.RM_LOSS0_SOURCE (d.getF (r2 .PORT_LOSS0 p i) Fld.PORT_LOSS0_SOURCE)).setF h Fld.RM_LOSS0_PORT p).setF h
          Fld.RM_LOSS0_VALID 1
        ((d.wr (r1 .RM_LOSS1 j) (d.rd (r2 .PORT_LOSS1 p i))).wr (r1 .RM_LOSS2 j) (d.rd (r2 .PORT_LOSS2 p i))).wr (r1 .RM_LOSS3 j)
          (d.rd (r2 .PORT_LOSS3 p i))
      | none => d.inc (r0 .RM_LOSS_LOST) Fld.RM_LOSS_LOST_LOST
    d.setF (r2 .PORT_LOSS0 p i) Fld.PORT_LOSS0_VALID 0) d).raise 64

/-- The Ringmaster copies the VALID entries of a loss log into RM_LOSS, frees them and raises LOSS (R436). -/
def execLossReport (p : Nat) (s : State) : Out :=
  onUnit (decide (p < 32)) s fun d =>
    let valid := (List.range 16).filter fun i => d.flag (r2 .PORT_LOSS0 p i) Fld.PORT_LOSS0_VALID
    d.when (d.hasMaster && !valid.isEmpty) fun d => d.reportLosses p

/-! ## Credit returns (R293) -/

/-- The return of n credits of target port p to a source: a REPLY packet of VN1 (DESIGN CHOICE, log 137). -/
def creditReturn (self p src n : Nat) : Packet :=
  { hdr := BitVec.ofNat 256 (tyREPLY + 2 ^ 4 + p * 2 ^ 115 + self * 2 ^ 120 + src / 2 ^ 13 * 2 ^ 156 + src / 2 ^ 10 % 8 * 2 ^ 160 +
      src % 2 ^ 10 * 2 ^ 163),
    data := [], credits := n }

/-- A port router returns what it owes to each source, in one packet each. -/
def Dev.payCredits (d : Dev) (p : Nat) : Dev :=
  let due := (d.port p).owed.filter fun e => e.2 != 0
  let beat := d.beat
  let d := d.updPort p fun s => { s with owed := [], creditAt := beat }
  due.foldl (fun d e => d.send (.port p 32) (creditReturn d.self p e.1 e.2)) d

/-- Credits owed leave 100 beats after the last batch at the latest (R293); a router in reset returns none (R284). -/
def Dev.edgeOwed (d : Dev) : Dev :=
  (d.ports.filter fun e => !e.2.owed.isEmpty && decide (e.2.creditAt + 100 ≤ d.beat) && e.2.resetAt.isNone).foldl
    (fun d e => d.payCredits e.1) d

/-! ## PORT registers -/

/-- PORT_CTRL: HOT_EN, and RESET, which resets the router (R284). -/
def Dev.writePortCtrl (d : Dev) (p : Nat) (v : W32) : Dev :=
  let r := r1 .PORT_CTRL p
  let d := d.setF r Fld.PORT_CTRL_HOT_EN (Fld.PORT_CTRL_HOT_EN.get v)
  d.when (Fld.PORT_CTRL_RESET.get v == 1 && !d.inReset p) fun d => d.portReset p

/-- A write in the PORT block. -/
def Dev.writePort (d : Dev) (r : Reg) (v : W32) : Dev :=
  if r.name = .PORT_CTRL then d.writePortCtrl r.i v else d.store r v

end Sys2Proof.Machine
end

