-- ==== Sys2Proof/Machine/TileReg.lean ====
section
/-! DEFINITION. The tile's control registers: reset (R130), halt and run (R127), events (R121), YIELD and tile moves (R122, R432-R434),
counters (R115), GREG (R133), and what the tile's registers read as. -/

namespace Sys2Proof.Machine

/-! ## Reset (R130) -/

/-- Table 03-16: what a tile keeps across its reset. Registers, CSRs, queues, channels, accumulators, counters and slots are
cleared; the trace buffer, the fault queue, the loft cache and the utilisation counters stay. -/
def Tile.cleared (t : Tile) (beat : Nat) : Tile :=
  { logical := t.logical, faultQ := t.faultQ, inReset := true, resetBeat := beat, halted := true, haltCause := 4,
    lastYield := beat, lines := t.lines, trace := t.trace, traceOldest := t.traceOldest, traceMem := t.traceMem,
    traceDropped := t.traceDropped, traceFirstDrop := t.traceFirstDrop, traceRing := t.traceRing, chunkSeq := t.chunkSeq,
    lastChunk := t.lastChunk, util := t.util }

/-- The tile enters reset at a beat edge; CLEAR zeroes its SRAM. -/
def Dev.enterReset (d : Dev) (b x : Nat) : Dev :=
  let d := d.updTile b x fun t => t.cleared d.beat
  if d.flag (r2 .TILE_CTRL b x) Fld.TILE_CTRL_CLEAR then d.zero (localBase b x) tileSram else d

/-- The tile leaves reset: PC := TILE_BOOT, the core runs or halts by RUN, and a RESET record is written. -/
def Dev.leaveReset (d : Dev) (b x : Nat) : Dev :=
  let run := d.flag (r2 .TILE_CTRL b x) Fld.TILE_CTRL_RUN
  let pc := d.getF (r2 .TILE_BOOT b x) Fld.TILE_BOOT_PC * 4
  let units := d.siteUnits b x
  let d := d.updTile b x fun t =>
    { t with
      inReset := false
      pc := BitVec.ofNat 64 pc
      halted := !run
      haltCause := if run then 0 else 1
      lastYield := d.beat
      cycleBase := (units : Nat) }
  (d.flushFetch b x).trace b x 8 7 0 0 0

/-- A tile whose RESET is 0 leaves reset at the first beat edge after the edge at which it entered. -/
def execTileResetRelease (b x : Nat) (s : State) : Out :=
  onUnit (okSite b x) s fun d =>
    let t := d.tile b x
    d.when (t.inReset && !t.resetPend && !d.flag (r2 .TILE_CTRL b x) Fld.TILE_CTRL_RESET && decide (t.resetBeat < d.beat))
      fun d => d.leaveReset b x

/-! ## Halt and run (R127) -/

/-- RUN written from 0 to 1: a core halted by RUN or by HALT resumes. -/
def Dev.runCore (d : Dev) (b x : Nat) : Dev :=
  d.updTile b x fun t =>
    if !t.inReset && t.halted && (t.haltCause == 1 || t.haltCause == 2) then { t with halted := false, haltCause := 0 } else t

/-- RUN written from 1 to 0: a running core halts before its next instruction; a wait is abandoned and executes again. -/
def Dev.stopCore (d : Dev) (b x : Nat) : Dev :=
  let t := d.tile b x
  if t.inReset || t.halted then d
  else
    let d := match t.wait with
      | some w => d.endWait b x w 2
      | none => d
    (d.updTile b x fun t => { t with yieldWait := false }).haltCore b x 1

/-- A write of TILE_CTRL (R127, R130, R432). -/
def Dev.writeTileCtrl (d : Dev) (b x : Nat) (v : W32) : Dev :=
  let r := r2 .TILE_CTRL b x
  let was := d.flag r Fld.TILE_CTRL_RUN
  let run := Fld.TILE_CTRL_RUN.get v == 1
  let d := d.store r v
  let d := if Fld.TILE_CTRL_RESET.get v = 1 then d.updTile b x fun t => { t with resetPend := true } else d
  let d := if Fld.TILE_CTRL_REMAP_POST.get v = 1 then d.setF (r2 .FAR_SITE b x) Fld.FAR_SITE_MOVE_POSTED 1 else d
  if run && !was then d.runCore b x else if !run && was then d.stopCore b x else d

/-! ## Other writes -/

/-- A write of a counter, with the additions of the same cycle after it (R115). -/
def Dev.writeCounter (d : Dev) (b x : Nat) (cc : Bool) (i : Nat) (v adds : W32) : Dev :=
  d.updTile b x fun t => if cc then t.setCc i (v + adds) else t.setAc i (v + adds)

/-- A write of half of a general register, ignored unless the core is halted (R133). -/
def Dev.writeGreg (d : Dev) (b x n : Nat) (hi : Bool) (v : W32) : Dev :=
  d.updTile b x fun t =>
    if t.halted then
      t.setReg n (if hi then v ++ (t.reg n).setWidth 32 else ((t.reg n) >>> 32).setWidth 32 ++ v)
    else t

/-- Writes of the tile's control registers; counters and GREG are read and written where the core has them. -/
def Dev.writeTile (d : Dev) (r : Reg) (v : W32) : Dev :=
  match r.name with
  | .TILE_CTRL => d.writeTileCtrl r.i r.j v
  | .EVENT_POST => d.updTile r.i r.j fun t => { t with evtPending := Nat.lor t.evtPending (v.toNat % 16) }
  | .AC => d.writeCounter r.i r.j false r.k v 0
  | .CC => d.writeCounter r.i r.j true r.k v 0
  | .GREG_LO => d.writeGreg r.i r.j r.k false v
  | .GREG_HI => d.writeGreg r.i r.j r.k true v
  | _ => d.store r v

/-! ## What the registers read as -/

/-- The words of a register from (lowest bit, value) pairs. -/
def packWord (fs : List (Nat × Nat)) : W32 := BitVec.ofNat 32 (sumNat (fs.map fun f => f.2 * 2 ^ f.1))

/-- Beats since the last YIELD, or since the release from reset; 0 in reset. -/
def Dev.sinceYield (d : Dev) (b x : Nat) : Nat :=
  let t := d.tile b x
  if t.inReset then 0 else min (d.beat - t.lastYield) (2 ^ 25 - 1)

/-- Flits in a router's input buffers (PORT_BUF). -/
def Dev.portBuf (d : Dev) (b x port : Nat) : W32 :=
  let n (vn mode : Nat) : Nat := sumNat ((d.bufferOf (.router b x port) vn mode).map flits)
  packWord [(0, n 0 0), (5, n 1 0), (10, n 2 0), (15, n 3 0), (20, n 0 1 + n 1 1 + n 2 1 + n 3 1),
    (26, d.schedUsed b x port)]

/-- Utilisation counter k (R444). -/
def Dev.utilOf (d : Dev) (b x k : Nat) : Nat :=
  let n := if k = 0 then d.siteUnits b x else (d.tile b x).util.get (fun _ => 0) k
  if k = 1 then n else n / 6400

/-- The low or the high word of a 64-bit value. -/
def halfWord (hi : Bool) (n : Nat) : W32 := BitVec.ofNat 32 (if hi then n / 2 ^ 32 else n)

/-- Registers of a tile that show other state; none for a word that holds what was last put there. -/
def Dev.tileView (d : Dev) (r : Reg) : Option W32 :=
  let b := r.i
  let x := r.j
  let t := d.tile b x
  let waitNat (f : Wait → Nat) : Nat := match t.wait with | some w => f w | none => 0
  let slot : Option Slot := t.slot r.k
  let slotNat (f : Slot → Nat) : Nat := match slot with | some s => f s | none => 0
  match r.name with
  | .TILE_ID => some (packWord [(0, x % 32), (5, x / 32), (10, t.logical.getD 0), (20, boolNat t.logical.isSome),
      (21, boolNat (d.siteState b x == 1 && t.logical.isNone))])
  -- a YIELD that waits for the tile to be quiescent is not shown as a wait (DESIGN CHOICE, log 127)
  | .TILE_STATUS => some (packWord [(0, boolNat t.halted), (1, t.haltCause), (4, boolNat t.wait.isSome),
      (5, boolNat t.quiescent), (6, boolNat t.inExc), (7, d.sinceYield b x)])
  | .EVENT_POST => some (packWord [(0, t.evtPending)])
  | .WAIT_STATE => some (packWord [(0, waitNat Wait.kind), (3, waitNat Wait.index)])
  | .WAIT_TARGET_LO => some (halfWord false (waitNat fun w => w.target.toNat))
  | .WAIT_TARGET_HI => some (halfWord true (waitNat fun w => w.target.toNat))
  | .WAIT_START_LO => some (halfWord false (waitNat Wait.start))
  | .WAIT_START_HI => some (halfWord true (waitNat Wait.start))
  | .SLOT_STATUS => some (Fld.SLOT_STATUS_SLOTS.put (d.rd r) t.slotCount)
  | .QUEUE_STATUS => some (packWord [(0, (t.queue r.k).length), (7, boolNat ((t.queue r.k).any fun e => e.phase == .running)),
      (8, queueDepth r.k)])
  | .AC => some (t.acOf r.k)
  | .CC => some (t.ccOf r.k)
  | .GREG_LO => some (if t.halted then halfWord false (t.reg r.k).toNat else 0)
  | .GREG_HI => some (if t.halted then halfWord true (t.reg r.k).toNat else 0)
  | .RTR_STATUS => some (Fld.RTR_STATUS_FWD_ACTIVE.put (d.rd r) (d.getF (r2 .RTR_FWD b x) Fld.RTR_FWD_EN))
  | .PORT_BUF => some (d.portBuf b x r.k)
  | .MAP => some (d.mapEntry b x r.k)
  | .ROUTE => some (d.routeEntry b x r.k)
  | .LOFT_STATUS => some (Fld.LOFT_STATUS_CACHE_ACTIVE.put (d.rd r) (d.getF (r2 .LOFT_CTRL b x) Fld.LOFT_CTRL_MODE))
  | .TRC_TILE_STATUS => some (packWord [(0, t.trace.length), (11, boolNat (t.traceDropped != 0)), (16, t.traceOldest)])
  | .TRC_UTIL_LO => some (halfWord false (d.utilOf b x r.k))
  | .TRC_UTIL_HI => some (halfWord true (d.utilOf b x r.k))
  | .SLOT_ENTRY0 => some (halfWord false (slotNat fun s => pAddr s.pkt))
  | .SLOT_ENTRY1 => some (halfWord true (slotNat fun s => pAddr s.pkt))
  | .SLOT_ENTRY2 => some (packWord [(0, boolNat slot.isSome), (1, slotNat fun s => pType s.pkt), (5, slotNat Slot.attempts),
      (10, slotNat fun s => boolNat s.marked)])
  | .SLOT_ENTRY3 => some (halfWord false (slotNat Slot.issue))
  | .TRC_BUFFER => some (halfWord false ((t.traceMem.get (fun _ => 0) (r.k / 4)).toNat / 2 ^ (32 * (r.k % 4))))
  | _ => none

/-! ## Tile moves (R122, R432-R434) -/

/-- A register word, or n of them, of site x carried to site y; the vacated site's go to their reset values. -/
def Dev.moveRegs (d : Dev) (b x y : Nat) (name : RegName) (n : Nat) : Dev :=
  (List.range n).foldl (fun d k =>
    (d.wr (r3 name b y k) (d.rd (r3 name b x k))).wr (r3 name b x k) (r3 name b x k).resetWord) d

/-- Whether a site holds an enabled flow or sink. -/
def Dev.hasFlows (d : Dev) (b x : Nat) : Bool :=
  (List.range 32).any fun k =>
    d.flag (r3 .FLOW_AC b x k) Fld.FLOW_AC_ENABLE || d.flag (r3 .SINK_CTR b x k) Fld.SINK_CTR_ENABLE

/-- The registers that a move carries: the tile's control and trace settings, the loft registers but those of its coils, and the
descriptors of flows and sinks (R433). -/
def Dev.moveAllRegs (d : Dev) (b x y : Nat) : Dev :=
  let one : List RegName := [.TILE_CTRL, .TILE_BOOT, .TRC_TILE_CTRL, .TRC_DROP, .TRC_LOCAL_BASE, .TRC_LOCAL_LEN, .LOFT_CTRL,
    .LOFT_ERR, .LOFT_CACHE_BASE_LO, .LOFT_CACHE_BASE_HI, .LOFT_CACHE_LEN_LO, .LOFT_CACHE_LEN_HI, .LOFT_ECC, .LOFT_POISON_ADDR,
    .LOFT_CACHE_HIT, .LOFT_CACHE_MISS, .LOFT_READ_BYTES_LO, .LOFT_READ_BYTES_HI, .LOFT_WRITE_BYTES_LO, .LOFT_WRITE_BYTES_HI]
  let many : List RegName := [.FLOW_SRC, .FLOW_LEN, .FLOW_RING, .FLOW_PTR, .FLOW_AC, .FLOW_TARGET, .FLOW_SENT, .FLOW_SKIP,
    .SINK_DST, .SINK_RING, .SINK_PTR, .SINK_CTR, .SINK_LEN, .SINK_RECV, .SINK_DROP]
  let d := one.foldl (fun d n => d.moveRegs b x y n 1) d
  many.foldl (fun d n => d.moveRegs b x y n 32) d

/-- The tile as it stands at the spare site: its state, but the accumulators and utilisation counters of the site; CYCLE goes on
from the value that it held at the YIELD. -/
def Tile.movedTo (t at' : Tile) (cycles units : Int) (lost : Bool) : Tile :=
  { t with
    acc := at'.acc
    util := at'.util
    lines := if lost then [] else t.lines
    cycleBase := units - cycles
    yieldWait := false }

/-- The vacated site: it holds no logical tile and its core stands in reset. -/
def Tile.vacated (t : Tile) : Tile := { util := t.util, acc := t.acc }

/-- Tile SRAM, and the slice unless its contents are lost, at the spare site (R433). -/
def Dev.moveMemory (d : Dev) (b x y : Nat) (lost : Bool) : Dev :=
  let d := d.copyRange (localBase b x) (localBase b y) tileSram
  if lost then d.zero (localBase b y + loftBase) (loftEnd - loftBase)
  else d.copyRange (localBase b x + loftBase) (localBase b y + loftBase) (loftEnd - loftBase)

/-- MAP for a logical tile rewritten in every router of a barn (R178). -/
def Dev.remapAll (d : Dev) (b t y : Nat) : Dev :=
  { d with
    maps := d.maps.set (fun _ => 0) (b * 1024 + t) (Fld.RT_MAP_VALID.put (BitVec.ofNat 32 y) 1)
    mapOver := d.mapOver.filter fun e => !(e.1 % 1024 == t && e.1 / (1024 * 768) == b) }

/-- Packets that stood at the vacated site's tile go through its router again (R432, step 4). -/
def Dev.releaseHeld (d : Dev) (b x : Nat) : Dev :=
  let here := d.net.filter fun f => f.place == .tile b x
  here.foldl (fun d f => d.deliverLocal b x f.pkt) { d with net := d.net.filter fun f => !(f.place == .tile b x) }

/-- The Farrier's records as a tile resumes at its spare site. -/
def Dev.takeSpare (d : Dev) (b x y : Nat) : Dev :=
  let n := r1 .FAR_BARN b
  let d := d.setF n Fld.FAR_BARN_SPARES (d.getF n Fld.FAR_BARN_SPARES - 1)
  let d := (d.setF (r2 .FAR_SITE b x) Fld.FAR_SITE_MOVE_POSTED 0).setF (r2 .FAR_SITE b y) Fld.FAR_SITE_STATE 0
  let d := d.wr (r0 .FAR_MOVE_LAST) (packWord [(0, x), (10, y), (20, b)])
  d.wr (r0 .FAR_MOVE_BEATS) (BitVec.ofNat 32 (d.beat - (d.tile b y).lastYield))

/-- A vacated site is retired, its router in service: the move is complete (Table 13-6, step 7). -/
def Dev.retireVacated (d : Dev) (b x : Nat) : Dev :=
  let d := d.inc (r0 .FAR_EVT) Fld.FAR_EVT_MOVES
  (d.when (d.siteState b x == 0) fun d =>
    ((d.setF (r2 .FAR_SITE b x) Fld.FAR_SITE_STATE 2).setF (r2 .RTR_CTRL b x) Fld.RTR_CTRL_ROUTER_ONLY 1).addF (r1 .FAR_BARN b)
      Fld.FAR_BARN_RETIRED 1).relevel

/-- Whether a move is under way (FAR_STATUS.MOVE_BUSY): from the YIELD that takes it until the vacated site is retired. -/
def Dev.moveBusy (d : Dev) : Bool := !d.fwdSince.isEmpty || d.tiles.any fun e => e.2.yieldWait

/-- Table 13-6, steps 1 to 5: logical tile t moves from site x to the spare y. -/
def Dev.moveTile (d : Dev) (b x y t : Nat) : Dev :=
  let old := d.tile b x
  let lost := d.lostDies b x != 0
  let flows := d.hasFlows b x
  let cycles : Int := (d.siteUnits b x : Nat) - old.cycleBase
  let d := (d.moveMemory b x y lost).moveAllRegs b x y
  let d := d.setF (r2 .TILE_CTRL b y) Fld.TILE_CTRL_REMAP_POST 0
  let d := d.setTile b y (old.movedTo (d.tile b y) cycles (d.siteUnits b y : Nat) lost)
  let d := d.updTile b x Tile.vacated
  let d := d.wr (r2 .RTR_FWD b x) (Fld.RTR_FWD_EN.put (BitVec.ofNat 32 y) 1)
  let d := { d.remapAll b t y with fwdSince := d.fwdSince.set (fun _ => none) (b * 768 + x) (some d.beat) }
  let d := (d.releaseHeld b x).takeSpare b x y
  let d := if flows then
      { d with replaceDue := (d.replaceDue.set (fun _ => false) (halfOf b x) true).set (fun _ => false) (halfOf b y) true }
    else d
  d.trace b y 9 7 0 0 (x + y * 2 ^ 10)

/-- YIELD's second and third step: an enabled pending event enters EVEC with EPC at the next instruction; else one cycle. -/
def Dev.yieldEvent (d : Dev) (b x : Nat) : Dev :=
  let t := d.tile b x
  if Nat.land t.evtPending t.evtEnable ≠ 0 ∧ t.inExc = false then
    d.takeException b x excEvent (BitVec.ofNat 64 t.evtPending) (t.pc + 4)
  else d.updTile b x Tile.next

/-- YIELD's first step, once the tile is quiescent: the posted remap is done; without a spare the barn leaves service (R432). -/
def Dev.yieldMove (d : Dev) (b x : Nat) : Dev :=
  let d := d.updTile b x fun t => { t with yieldWait := false }
  match (d.tile b x).logical, d.spareFor b x with
  | some t, some y => (d.moveTile b x y t).yieldEvent b y
  | _, _ =>
    let d := (d.setF (r2 .TILE_CTRL b x) Fld.TILE_CTRL_REMAP_POST 0).setF (r2 .FAR_SITE b x) Fld.FAR_SITE_MOVE_POSTED 0
    (((d.inc (r0 .FAR_EVT) Fld.FAR_EVT_NO_SPARE).barnLeaves b).bar b).yieldEvent b x

/-- What YIELD does as it issues: a posted remap first, else events. -/
def Dev.yieldAt (d : Dev) (b x : Nat) : Dev :=
  let d := (d.trace b x 5 7 0 0 (d.tile b x).evtPending).updTile b x fun t => { t with lastYield := d.beat }
  if d.flag (r2 .TILE_CTRL b x) Fld.TILE_CTRL_REMAP_POST && d.hasMaster then
    if (d.tile b x).quiescent then d.yieldMove b x else d.updTile b x fun t => { t with yieldWait := true }
  else d.yieldEvent b x

/-- YIELD (R122): a posted remap waits until every queue is empty and SLOTS is 0; a YIELD that waits proceeds when the command
comes again. Without a Ringmaster no tile moves (R426). -/
def execYield (b x : Nat) (extra : Bool) (s : State) : Out :=
  onUnit (okSite b x) s fun d =>
    if (d.tile b x).yieldWait then d.when (d.canWake b x && (d.tile b x).quiescent) fun d => d.yieldMove b x
    else d.instruction b x ⟨8, none, none, .reg none⟩ extra fun d =>
      d.yieldAt b x

/-- 10,000 beats after the last MAP write of a move the Ringmaster clears the vacated site's forwarding (R178), and the site is retired. -/
def execRemapForwardEnd (b x : Nat) (s : State) : Out :=
  onUnit (okSite b x) s fun d =>
    match d.fwdSince.get (fun _ => none) (b * 768 + x) with
    | some c =>
      d.when (d.hasMaster && decide (c + 10000 ≤ d.beat)) fun d =>
        Dev.retireVacated { d.setF (r2 .RTR_FWD b x) Fld.RTR_FWD_EN 0 with fwdSince := d.fwdSince.set (fun _ => none) (b * 768 + x) none } b x
    | none => d

end Sys2Proof.Machine
end

