-- ==== Sys2Proof/Machine/Act.lean ====
section
/-! DEFINITION. Yard addresses of the package as seen by the host and the service (R338), and acts: what a barn's tiles are given
when an act starts there (R56, R391), and the attestation report (R413). The body of an act is Argil's (Table 12-11): what it
places stands in Config. -/

namespace Sys2Proof.Machine

/-! ## Yard addresses of this package -/

/-- Where the byte of an own yard address stands; none where no tile or stack holds it. -/
def Dev.ownPlace (d : Dev) (a : Nat) : Option Nat :=
  if addrTarget a < 8 then
    (d.siteOf (addrTarget a) (addrTile a)).map fun x => localBase (addrTarget a) x + addrLocal a
  else if addrTarget a < 28 then some (hbmBase (addrTarget a - 8) + addrOffset a)
  else if d.windowStacks.isEmpty then none
  else
    let w := d.windowMap (addrOffset a)
    some (hbmBase w.1 + w.2)

/-- n bytes from an own yard address on; bytes that no memory holds read as zero. -/
def Dev.readOwn (d : Dev) (a n : Nat) : List Byte :=
  (List.range n).map fun i => 
    match d.ownPlace (a + i) with | some k => if addrTarget a = 28 then d.windowByte k else d.byte k | none => 0

def Dev.readOwnNat (d : Dev) (a n : Nat) : Nat := natLE (d.readOwn a n)

/-- The stacks that a range of an own yard address touches. -/
def Dev.rangeStacks (d : Dev) (a n : Nat) : List Nat :=
  if addrTarget a < 8 then []
  else if addrTarget a < 28 then [addrTarget a - 8]
  else if n = 0 || d.windowStacks.isEmpty then []
  else ((List.range (min 20 (addrOffset (a + n - 1) / 4096 - addrOffset a / 4096 + 1))).map fun i =>
    (d.windowMap (addrOffset a + 4096 * i)).1)

/-- Whether a stack takes requests (R217). -/
def Dev.stackAccepts (d : Dev) (n : Nat) : Bool :=
  d.flag (r1 .HBM_CTRL n) Fld.HBM_CTRL_ACCEPT && !d.flag (r1 .HBM_STATUS n) Fld.HBM_STATUS_RETIRED

/-- The tile that holds a byte of an own yard address, if it runs. -/
def Dev.tileTakes (d : Dev) (a : Nat) : Bool :=
  match d.siteOf (addrTarget a) (addrTile a) with
  | some x => bitOf d.barnsIn (addrTarget a) && !(d.tile (addrTarget a) x).inReset
  | none => false

/-- The first reason for which a host's access to a range is refused (R21-R23, R37-R39, R338); none where it is not. -/
def Dev.rangeStatus (d : Dev) (a n : Nat) (write : Bool) : Option Nat :=
  let ranges := d.rangeStacks a n
  if addrMalformed a then some stMalformed
  else if addrMember a != d.self then some stDenied
  else if decide (addrTarget a < 8) && decide (addrTile a < 704) && !d.tileTakes a then some stDenied
  else if !ranges.all d.stackAccepts then some stDenied
  else if !d.addrFits a n then some stBounds
  else if addrTarget a < 8 then
    match d.siteOf (addrTarget a) (addrTile a) with
    | some x => if d.hitsCache (addrTarget a) x (addrLocal a) n then some stBounds else none
    | none => none
  else if write && ranges.any fun s => d.protectedRange s (d.stackOffset a) n then some stDenied
  else none

/-- The pieces of a range that lie in one memory: (address, bytes); a window range is cut at its units (R224). -/
def ownPieces (a n : Nat) : List (Nat × Nat) := if addrTarget a = 28 then cuts 4096 (n / 4096 + 2) a n else [(a, n)]

/-- Bytes written at an own yard address (R339): lines of the stacks leave the stream buffers first (R219). -/
def Dev.writeOwn (d : Dev) (a : Nat) (bs : List Byte) : Dev :=
  (ownPieces a bs.length).foldl (fun d p =>
    let part := (bs.drop (p.1 - a)).take p.2
    if addrTarget a < 8 then
      match d.siteOf (addrTarget a) (addrTile a) with
      | some x => d.writeLocal (addrTarget a) x (addrLocal p.1) part []
      | none => d
    else
      match d.ownPlace p.1 with
      | some k =>
        let n := (k - hbmBase 0) / 2 ^ 37
        ((d.dropLines n (d.stackOffset p.1) p.2).addPair (r1 .HBM_WRITE_BYTES_LO n) (r1 .HBM_WRITE_BYTES_HI n) p.2).writeStackMarked k part []
      | none => d) d

/-- A range copied with its marks, in units of a code of the stacks. -/
def Dev.copyUnits (d : Dev) (src dst len : Nat) : Dev :=
  (cuts 32 (len / 32 + 2) src len).foldl (fun d p => d.writeStackMarked (dst + (p.1 - src)) (d.readBytes p.1 p.2) (d.marksOf p.1 p.2)) d

/-! ## The attestation report (R413) -/

/-- A certificate as Table 12-7 lays it out. -/
def certBytes (c : Cert) : List Byte :=
  bytesLE c.format 4 ++ bytesLE c.kind 4 ++ bytesLE c.serial 8 ++ bytesAt c.key 0 64 ++ bytesAt c.id 0 16 ++ bytesLE c.minVersion 4 ++
  bytesLE c.deviceCount 4 ++ ((List.range 8).flatMap fun i => bytesLE (nth c.deviceIds i 0) 16) ++ bytesAt c.rest 0 24 ++
  bytesAt c.signature 0 64

/-- Table 12-12 up to its signature. -/
def Dev.reportBody (d : Dev) (a : Act) : List Byte :=
  let words (l : List W32) : List Byte := l.flatMap fun w => bytesLE w.toNat 4
  let img (f : SlotImage → List Byte) : List Byte := match d.start.image with | some i => f i | none => []
  let fieldOn := d.flag (r0 .TACK_STATUS) Fld.TACK_STATUS_FIELD_CAL
  bytesAt (bytesLE 1 4 ++ bytesLE d.levelNow 4 ++ bytesLE a.nonce 8 ++ bytesLE d.beat 8 ++
    words ((List.range 4).map fun i => d.rd (r1 .TACK_ID i)) ++
    bytesLE (d.getF (r0 .TACK_STATUS) Fld.TACK_STATUS_SLOT) 4 ++ words [d.rd (r0 .TACK_FW_VERSION)] ++
    words [d.rd (r0 .TACK_IMAGE_SEQ_LO), d.rd (r0 .TACK_IMAGE_SEQ_HI)] ++
    bytesAt (img SlotImage.vendorManifest) 0 32 ++ bytesAt (img SlotImage.ownerManifest) 0 32 ++
    bytesAt (if fieldOn then d.start.fieldHash else []) 0 32 ++
    bytesLE (boolNat fieldOn + 2 * boolNat d.inHoldover) 4 ++ bytesLE (fieldLE a.image 8 4) 4 ++
    bytesAt (Config.sm3 (a.image.take 0x80)) 0 32 ++
    bytesLE d.barnsIn 4 ++ bytesLE d.stacksIn 4 ++ bytesLE d.self 4 ++
    bytesLE (d.getF (r0 .YARD_ID) Fld.YARD_ID_ID) 4 ++ img (fun i => certBytes i.cert4)) 0 0x3C0

/-- REPORT_ADDR of an act. -/
def Act.reportAddr (a : Act) : Nat := fieldLE a.image 16 8

/-- The report written into the barn that it names, if that is the barn given. -/
def Dev.writeReport (d : Dev) (b : Nat) : Dev :=
  match d.act with
  | some a =>
    if addrTarget a.reportAddr = b then
      let body := d.reportBody a
      match d.siteOf b (addrTile a.reportAddr) with
      | some x => d.write (localBase b x + addrLocal a.reportAddr) (body ++ d.signature 0 (Config.sm3 body))
      | none => d
    else d
  | none => d

/-! ## An act's tiles in a barn -/

/-- The registers of the scheduled class that an act's schedule sets. -/
def schedName (n : RegName) : Bool :=
  [RegName.RTR_CTRL, .SCHED_START_LO, .SCHED_START_HI, .SCHED_SLOT, .FLOW_SRC, .FLOW_LEN, .FLOW_RING, .FLOW_PTR, .FLOW_AC, .FLOW_TARGET,
    .SINK_DST, .SINK_RING, .SINK_PTR, .SINK_CTR, .SINK_LEN].contains n

/-- The site of each logical tile of a barn. -/
def Dev.sitesOf (d : Dev) (b : Nat) : List Nat := (List.range 704).map fun t => (d.siteOf b t).getD 0

/-- The act's schedule written into the routers of a barn for which sel holds. -/
def Dev.writeSchedule (d : Dev) (image : List Byte) (b : Nat) (sel : Nat → Bool) : Dev :=
  (Config.actSchedule image b (d.sitesOf b)).foldl (fun d e =>
    match Reg.ofAddr e.1 with
    | some r => if schedName r.name && r.i == b && sel r.j then d.writeRouter r e.2 else d
    | none => d) d

/-- Whether a slot entry routes a scheduled flow across the seam, through a tap, or through a hole (R70, R190). -/
def Dev.slotAstray (d : Dev) (b x : Nat) (w : W32) : Bool :=
  let bad (port : Nat) : Bool := seamPort x port || (d.linked b x port).isNone
  outs.any fun o =>
    let k := selOf w o
    k != 0 && (d.hole b x || decide (6 ≤ k) || (decide (k ≤ 4) && bad (k - 1)) || (decide (o < 4) && bad o))

/-- Whether the loader refuses the act's schedule in some barn in service. -/
def Dev.schedAstray (d : Dev) (image : List Byte) : Bool :=
  ((List.range 8).filter (bitOf d.barnsIn)).any fun b => (Config.actSchedule image b (d.sitesOf b)).any fun e =>
    match Reg.ofAddr e.1 with
    | some r => r.name == .SCHED_SLOT && r.i == b && d.slotAstray b r.j e.2
    | none => false

/-- The logical tiles of a barn that an act uses, with their sites. -/
def Dev.actSites (d : Dev) (image : List Byte) (b : Nat) : List (Nat × Nat) :=
  (List.range 704).filterMap fun t => if Config.actUses image b t then (d.siteOf b t).map fun x => (t, x) else none

/-- What the act places in a tile: its memory and TILE_BOOT; no event is pending there yet. -/
def Dev.loadTile (d : Dev) (image : List Byte) (b t x : Nat) : Dev :=
  let d := (Config.actImage image b t).foldl (fun d c => d.write (localBase b x + c.1 % 0x200000) c.2) d
  (d.setF (r2 .TILE_BOOT b x) Fld.TILE_BOOT_PC (Config.actBoot image b t / 4)).updTile b x fun u => { u with evtPending := 0 }

/-- The act's tiles of a half leave reset and run from TILE_BOOT; a tile that an earlier act left halted is reset first (R130). -/
def Dev.startHalf (d : Dev) (h : Nat) : Dev :=
  match d.act with
  | some a =>
    let d := d.updHalf h fun v => { v with actHold := false }
    ((d.actSites a.image (h / 2)).filter fun p => halfOf (h / 2) p.2 == h).foldl (fun d p =>
      let c := r2 .TILE_CTRL (h / 2) p.2
      let d := if (d.tile (h / 2) p.2).inReset then d else d.updTile (h / 2) p.2 fun t => t.cleared d.beat
      ((d.setF c Fld.TILE_CTRL_RESET 0).setF c Fld.TILE_CTRL_RUN 1).leaveReset (h / 2) p.2) d
  | none => d

/-- A half enters the act's set of points (R56): it stays where CUR lies in the set, else it moves to the set's fastest point and
its tiles wait. A half that is BUSY with another change is looked at again when that change ends. -/
def Dev.enterSet (d : Dev) (set h : Nat) : Dev :=
  let busy := d.halfIs h Fld.HALF_STATUS_BUSY
  let d := d.updHalf h fun v => { v with actHold := true }
  if !busy && bitOf set (d.oppCur h) then d.startHalf h
  else
    let points := (List.range 8).filter fun p => bitOf set p && d.oppValid h p
    match sortBy (fun p q => decide (d.oppFreq h q ≤ d.oppFreq h p)) points with
    | p :: _ =>
      let d := d.updHalf h fun v => { v with actWant := some p, actAsked := !busy, actFails := 0 }
      if busy then d else d.requestPoint h p
    | [] => d

/-- Halves whose change to a point of the act's set has ended start their tiles. -/
def Dev.startHeld (d : Dev) : Dev :=
  match d.act with
  | some a =>
    (List.range 16).foldl (fun d h =>
      if (d.half h).actHold && (d.half h).actWant.isNone && bitOf a.oppSet (d.oppCur h) && bitOf d.barnsIn (h / 2) then d.startHalf h
      else d) d
  | none => d

/-- The act begins in a barn (R31, R56, R391, R413): every tile gets the shape table, the act's tiles their part, the routers the
schedule; the report is written; the halves enter the act's set. -/
def Dev.actEnters (d : Dev) (b : Nat) : Dev :=
  match d.act with
  | some a =>
    let d := (List.range 704).foldl (fun d t => match d.siteOf b t with | some x => d.writeShape b x | none => d) d
    let d := (d.actSites a.image b).foldl (fun d p => d.loadTile a.image b p.1 p.2) d
    let d := (d.writeSchedule a.image b fun _ => true).writeReport b
    (d.enterSet a.oppSet (2 * b)).enterSet a.oppSet (2 * b + 1)
  | none => d

end Sys2Proof.Machine
end

