-- ==== Sys2Proof/Machine/Calib.lean ====
section
/-! DEFINITION. The field retrace of the measurement chains and its field record (R377-R382, R402). -/

namespace Sys2Proof.Machine

def Dev.calState (d : Dev) : Nat := d.getF (r0 .CAL_STATUS) Fld.CAL_STATUS_STATE
def Dev.setCalState (d : Dev) (n : Nat) : Dev := d.setF (r0 .CAL_STATUS) Fld.CAL_STATUS_STATE n

/-- CALREF's reading in µV is noted. -/
def Dev.noteCalref (d : Dev) (uv : Nat) : Dev :=
  { d.setF (r0 .CAL_STATUS) Fld.CAL_STATUS_CALREF_PRESENT (boolNat (decide (1000000 ≤ uv))) with cal := { d.cal with calref := uv } }

/-- The results of the last run go. -/
def Dev.clearResults (d : Dev) : Dev :=
  (List.range 115).foldl (fun d k =>
    (((d.wr (r1 .CAL_RESULT0 k) 0).wr (r1 .CAL_RESULT1 k) 0).wr (r1 .CAL_RESULT2 k) 0).wr (r1 .CAL_RESULT3 k) 0) d

/-- START (R378): from STATE 0 or 5. -/
def Dev.calStart (d : Dev) : Dev :=
  let st := d.calState
  if st = 0 ∨ st = 5 then
    let s := r0 .CAL_STATUS
    let d := ((d.clearResults).setF s Fld.CAL_STATUS_REASON 0).setF s Fld.CAL_STATUS_CHAIN 0
    let uv := d.cal.calref
    if d.inHoldover || !d.flag (r0 .BEAT_STATUS) Fld.BEAT_STATUS_REF_OK || d.cal.block.isNone then d.calReject 5 0
    else if uv < 1000000 then d.calReject 3 0
    else if 1206000 < uv ∨ uv < 1194000 then d.calReject 4 0
    else { (d.setF (r0 .CAL_CTRL) Fld.CAL_CTRL_START 1).setCalState 1 with cal := { d.cal with due := d.beat + 10000000 } }
  else d.inc (r0 .CAL_ERR) Fld.CAL_ERR_BUSY_REJ

/-- ABORT (R381). -/
def Dev.calAbort (d : Dev) : Dev :=
  let st := d.calState
  if d.calRunning then ((d.setCalState 0).setF (r0 .CAL_STATUS) Fld.CAL_STATUS_REASON 6).setF (r0 .CAL_CTRL) Fld.CAL_CTRL_START 0
  else if st = 6 then d.setCalState 0
  else d

/-- Why a COMMIT is rejected, if it is (R381). -/
def Dev.commitReject (d : Dev) : Option Reject :=
  firstReject (d.calState != 4) false (decide (d.pair (r0 .CAL_APPLY_LO) (r0 .CAL_APPLY_HI) < d.beat + 1000))

/-- COMMIT (R381). -/
def Dev.calCommit (d : Dev) : Dev :=
  match d.commitReject with
  | some .busyRej => d.inc (r0 .CAL_ERR) Fld.CAL_ERR_BUSY_REJ
  | some _ => d.inc (r0 .CAL_ERR) Fld.CAL_ERR_BOUNDS
  | none => d.setCalState 6

/-- A write of CAL_CTRL: ABORT before START before COMMIT. One write is rejected once (R485): where START is, a COMMIT that fails too is
not counted again. -/
def Dev.writeCalCtrl (d : Dev) (v : W32) : Dev :=
  let d := if Fld.CAL_CTRL_ABORT.get v = 1 then d.calAbort else d
  let refused := Fld.CAL_CTRL_START.get v == 1 && d.calState != 0 && d.calState != 5
  let d := if Fld.CAL_CTRL_START.get v = 1 then d.calStart else d
  if Fld.CAL_CTRL_COMMIT.get v = 1 && !(refused && d.commitReject.isSome) then d.calCommit else d

def Dev.writeCal (d : Dev) (r : Reg) (v : W32) : Dev :=
  match r.name with
  | .CAL_CTRL => d.writeCalCtrl v
  | _ => d.writeOr r v none fun d _ => d

/-- The largest difference of the passes and the largest correction of a chain, as (gain, offset) (Table 11-7). -/
def calLimits (k : Nat) : (Int × Int) × (Int × Int) :=
  if k < 45 then ((2000, 2000), (50000, 50000)) else if k < 90 then ((5000, 50), (100000, 500))
  else if k < 114 then ((5000, 2500), (50000, 30000)) else ((10, 0), (300, 0))

/-- Whether a quantity of two passes lies within a bound. -/
def near (a b lim : Int) : Bool := decide (a - b ≤ lim) && decide (b - a ≤ lim)

/-- The correction that two passes give. -/
def joinPass (a b : Int) : Int :=
  let c := Config.passJoin a b
  if min a b ≤ c ∧ c ≤ max a b then c else min a b

/-- Whether a chain's passes agree, and whether its correction is in range (R380). -/
def calAgrees (k : Nat) (a b : CalPair) : Bool := near a.gain b.gain (calLimits k).1.1 && near a.offset b.offset (calLimits k).1.2
def calInRange (k : Nat) (c : CalPair) : Bool := near c.gain 0 (calLimits k).2.1 && near c.offset 0 (calLimits k).2.2

/-- A chain's result in its registers. -/
def Dev.showResult (d : Dev) (k : Nat) (a b c : CalPair) : Dev :=
  let spread := max (a.gain - b.gain).natAbs (a.offset - b.offset).natAbs
  let fail := !calAgrees k a b || !calInRange k c
  (((d.wr (r1 .CAL_RESULT0 k) (BitVec.ofInt 32 c.gain)).wr (r1 .CAL_RESULT1 k) (BitVec.ofInt 32 (if k = 114 then 0 else c.offset))).wr
    (r1 .CAL_RESULT2 k) (BitVec.ofNat 32 spread)).setF (r1 .CAL_RESULT3 k) Fld.CAL_RESULT3_FAIL (boolNat fail)

/-- The end of pass B: the run is accepted or rejected whole (R380). -/
def Dev.calFinish (d : Dev) (pb : List CalPair) : Dev :=
  let at' (l : List CalPair) (k : Nat) : CalPair := nth l k ⟨0, 0⟩
  let corr (k : Nat) : CalPair :=
    ⟨joinPass (at' d.cal.passA k).gain (at' pb k).gain, joinPass (at' d.cal.passA k).offset (at' pb k).offset⟩
  let a := d.cal.passA
  let d := (List.range 115).foldl (fun d k => d.showResult k (at' a k) (at' pb k) (corr k)) d
  match (List.range 115).find? fun k => !calAgrees k (at' a k) (at' pb k) || !calInRange k (corr k) with
  | some k => d.calReject (if calAgrees k (at' a k) (at' pb k) then 2 else 1) k
  | none =>
    let d := ((d.setCalState 4).setF (r0 .CAL_CTRL) Fld.CAL_CTRL_START 0).inc (r0 .CAL_ERR) Fld.CAL_ERR_ACCEPTED
    { d with cal := { d.cal with found := (List.range 115).map corr } }

/-- A pass of the calibration is over. -/
def Dev.calPass (d : Dev) (results : List CalPair) : Dev :=
  match d.calState with
  | 1 => { d.setCalState 2 with cal := { d.cal with passA := results, due := d.cal.due + 100000 } }
  | 2 => { d.setCalState 3 with cal := { d.cal with due := d.cal.due + 10000000 } }
  | 3 => d.calFinish results
  | _ => d

/-- A pass or the gap of a run ends (R379); results gives the corrections that the pass found, by chain. -/
def execCalPassEnd (results : List CalPair) (s : State) : Out :=
  onUnit true s fun d =>
    d.when (decide (d.cal.due ≤ d.beat)) fun d => d.calPass results

/-- The corrections that a run found come into force together, from beat c on. -/
def Dev.applyCal (d : Dev) (c : Nat) : Dev :=
  let d := (d.setCalState 0).setPair (r0 .CAL_IN_FORCE_LO) (r0 .CAL_IN_FORCE_HI) c
  { d with cal := { d.cal with before := d.cal.now, now := d.cal.found, since := c, recordDue := true } }

/-- The beat at which a committed run comes into force. -/
def Dev.calBeat (d : Dev) : Nat := d.pair (r0 .CAL_APPLY_LO) (r0 .CAL_APPLY_HI)

/-- The corrections of a committed run come into force together (R381). -/
def Dev.calDue (d : Dev) : Dev := d.when (d.calState == 6 && decide (d.calBeat ≤ d.beat)) fun d => d.applyCal d.calBeat

def execCalApply (s : State) : Out := onUnit true s Dev.calDue

/-- The bytes of a field record up to its signature (R402). -/
def Dev.recordBody (d : Dev) (seq : Nat) : List Byte :=
  let words (l : List Int) : List Byte := l.flatMap fun v => bytesLE (codeOf 32 v) 4
  let body := bytesLE 1 4 ++ bytesLE 0 4 ++ bytesLE seq 8 ++
    ((List.range 4).flatMap fun i => bytesLE (d.rd (r1 .TACK_ID i)).toNat 4) ++ bytesAt d.factoryHash 0 32 ++
    words ((List.range 115).flatMap fun k => [(nth d.cal.now k ⟨0, 0⟩).gain, (nth d.cal.now k ⟨0, 0⟩).offset])
  bytesAt body 0 0xFC0

/-- The field area of a flash device. -/
def fieldArea (dev : Nat) : Nat := 0x20000000 + dev * 0x8000000 + 0x7F00000

/-- The field record is written to both flash devices. -/
def Dev.writeFieldRecord (d : Dev) : Dev :=
  let seq := d.cal.recordSeq + 1
  let full := d.cal.recordSlots = 256
  let slot := if full then 0 else d.cal.recordSlots
  let body := d.recordBody seq
  let bytes := body ++ d.signature 1 (Config.sm3 body)
  let d := [0, 1].foldl (fun d dev =>
    let d := if full then d.write (fieldArea dev) (List.replicate 0x100000 0xFF) else d
    d.write (fieldArea dev + slot * 4096) bytes) d
  let first := if full then 0 else d.cal.recordFirst.getD slot
  { d with cal := { d.cal with recordDue := false, recordSeq := seq, recordSlots := slot + 1, recordFirst := some first } }

/-- The Ringmaster writes a signed field record, first to device 0 and then to device 1; a full area is erased first (R402). -/
def execFieldRecordWrite (s : State) : Out :=
  onUnit true s fun d =>
    d.when (d.hasMaster && d.cal.recordDue && d.flag (r0 .TACK_STATUS) Fld.TACK_STATUS_ID_READY &&
        !d.flag (r0 .TACK_STATUS) Fld.TACK_STATUS_ZEROISED) fun d => d.writeFieldRecord

end Sys2Proof.Machine
end

