-- ==== Sys2Proof/Machine/Barker.lean ====
section
/-! DEFINITION. The Barker (R454-R459): claims, completions, software raises, and what its registers read as. -/

namespace Sys2Proof.Machine

/-- A bit of one of the Barker's bitmaps for a source. -/
def Dev.sourceBit (d : Dev) (name : RegName) (n : Nat) : Bool := bitOf (d.rd (r1 name (n / 32))).toNat (n % 32)

/-- Sets or clears a source's bit in a bitmap. -/
def Dev.setSourceBit (d : Dev) (name : RegName) (n : Nat) (v : Bool) : Dev :=
  d.wr (r1 name (n / 32)) (BitVec.ofNat 32 (setBitNat (d.rd (r1 name (n / 32))).toNat (n % 32) v))

/-- Pending, enabled, not in service, and numbered above THRESH (R455). -/
def Dev.claimable (d : Dev) (n : Nat) : Bool :=
  d.sourceBit .BRK_PENDING n && d.sourceBit .BRK_ENABLE n && !d.sourceBit .BRK_INSERVICE n &&
    decide (d.getF (r0 .BRK_CTRL) Fld.BRK_CTRL_THRESH < n)

/-- The highest-numbered claimable source; 0 where there is none. -/
def Dev.highestClaimable (d : Dev) : Nat := (((List.range 512).reverse.filter fun n => n != 0).find? d.claimable).getD 0

/-- The interrupt input of the Ringmasters (R455). -/
def Dev.brkLine (d : Dev) : Bool := d.flag (r0 .BRK_CTRL) Fld.BRK_CTRL_EN && d.highestClaimable != 0

/-- A claim (R456). It decides from the sources as they stand before it; a raise of its cycle comes after it (R459). -/
def Dev.claim (d : Dev) : Dev :=
  let n := d.highestClaimable
  let d := d.setF (r0 .BRK_CLAIMED) Fld.BRK_CLAIMED_SOURCE n
  if n = 0 then d else (d.setSourceBit .BRK_PENDING n false).setSourceBit .BRK_INSERVICE n true

/-- A completion of n; of 0, of a number above 511, or of a source not in service it is stray (R456, R458). -/
def Dev.complete (d : Dev) (n : Nat) : Dev :=
  if 0 < n ∧ n < 512 ∧ d.sourceBit .BRK_INSERVICE n = true then d.setSourceBit .BRK_INSERVICE n false
  else (d.addF (r0 .BRK_STRAY) Fld.BRK_STRAY_STRAY 1).wr (r0 .BRK_STRAY_LAST) (BitVec.ofNat 32 n)

/-- Each 1 raises its source, exactly as a hardware raise does (R457). -/
def Dev.raiseWord (d : Dev) (w : Nat) (v : W32) : Dev :=
  (List.range 32).foldl (fun d i => if bitOf v.toNat i then d.raise (32 * w + i) else d) d

/-- The bits that BRK_ENABLE holds: those of sources 0 and 322-511 read 0. -/
def enableMask (w : Nat) : Nat := if w = 0 then 0xFFFFFFFE else if w < 10 then 0xFFFFFFFF else if w = 10 then 3 else 0

/-- Writes of the BRK block. -/
def Dev.writeBrk (d : Dev) (r : Reg) (v : W32) : Dev :=
  match r.name with
  | .BRK_CLAIM => d.claim
  | .BRK_COMPLETE => d.complete v.toNat
  | .BRK_SET => d.raiseWord r.i v
  | .BRK_ENABLE => d.wr r (BitVec.ofNat 32 (Nat.land v.toNat (enableMask r.i)))
  | _ => d.store r v

/-- Registers of the BRK block that show other state. -/
def Dev.brkView (d : Dev) (r : Reg) : Option W32 :=
  match r.name with
  | .BRK_STATUS => some (BitVec.ofNat 32 (boolNat d.brkLine + d.highestClaimable * 2))
  | .BRK_SET => some (d.rd (r1 .BRK_PENDING r.i))
  | _ => none

/-- Every in-service bit cleared, every pending bit left (R459, a warm restart). -/
def Dev.clearInService (d : Dev) : Dev := (List.range 16).foldl (fun d w => d.wr (r1 .BRK_INSERVICE w) 0) d

end Sys2Proof.Machine
end

