-- ==== Sys2Proof/Machine/Slot.lean ====
section
/-! DEFINITION. The checks of an image of the flash (R397-R410): header, sections, certificates, identity, spare map, calibration block
and configuration records, in the order of R408. -/

namespace Sys2Proof.Machine

/-! ## Header, sections, certificates (R397-R400) -/

/-- SIGNER and the least and greatest length of a section type (Table 12-6). -/
def sectionRule (ty records : Nat) : Option (Nat × Nat × Nat) :=
  match ty with
  | 1 => some (1, 4096, 0x200000)
  | 2 => some (1, 0, 0x2000000)
  | 3 => some (0, 960, 960)
  | 4 => some (3, 0, 0x10000)
  | 5 => some (3, 0, 0x100000)
  | 6 => some (2, 16 + 24 * records, 16 + 24 * records)
  | _ => none

/-- Whether two sections overlap. -/
def sectionsMeet (a b : Section) : Bool :=
  decide (a.offset < b.offset + b.length) && decide (b.offset < a.offset + a.length)

/-- Whether the header of Table 12-4 is legal. -/
def imageHeaderOk (i : SlotImage) : Bool :=
  i.magic == 0x4C475241 && i.format == 1 && i.sectionCount == 6 && i.zeros && decide (4096 ≤ i.bytes) && decide (i.bytes ≤ 0x7F00000) &&
  i.bytes == (i.sections.map fun c => c.offset + c.length).foldl max 0

/-- Whether the section table is legal (R398). -/
def imageTableOk (i : SlotImage) : Bool :=
  ((List.range 6).all fun t => (i.sections.filter fun c => c.type == t + 1).length == 1) && i.sections.length == 6 &&
  (i.sections.all fun c =>
    match sectionRule c.type i.records.length with
    | some (sg, lo, hi) => c.signer == sg && decide (lo ≤ c.length) && decide (c.length ≤ hi) && c.offset % 4096 == 0 &&
        decide (4096 ≤ c.offset) && decide (c.offset + c.length ≤ i.bytes) &&
        !(i.sections.any fun e => e.type != c.type && sectionsMeet c e)
    | none => false)

/-- Whether a certificate of a kind has the form of Table 12-7, and its issuer's signature verifies (R400). -/
def certOk (kind : Nat) (c : Cert) : Bool :=
  c.format == 1 && c.kind == kind && (kind == 1 || c.minVersion == 0) && c.signedOk && c.rest.all (· == 0) && c.deviceIds.length == 8 &&
  (c.deviceIds.drop c.deviceCount).all (· == 0) &&
  (match kind with | 3 => decide (1 ≤ c.deviceCount) && decide (c.deviceCount ≤ 8) | 4 => c.deviceCount == 1 | _ => c.deviceCount == 0)

/-- The certificates of kinds 1-3, in that order. -/
def certsOk (i : SlotImage) : Bool := i.certs.length == 3 && (i.certs.zipIdx.all fun e => certOk (e.2 + 1) e.1)

/-! ## The identity

It is that of R410; a digest is read as a number with its first byte highest, as GB/T 32918 does (PRESUMED, log 154). -/

def natBE (l : List Byte) : Nat := l.foldl (fun n b => 256 * n + b.toNat) 0

/-- Whether the seed matches its check value. -/
def seedOk (i : SlotImage) : Bool := bytesAt (Config.sm3 i.seed) 0 32 == bytesAt i.check 0 32

/-- The identity key: of the digest of the seed and "MJ20-ID". -/
def identityKey (i : SlotImage) : Nat :=
  natBE (Config.sm3 (bytesAt i.seed 0 32 ++ [0x4D, 0x4A, 0x32, 0x30, 0x2D, 0x49, 0x44])) % (Config.sm2Order - 1) + 1

/-- DEVICE_ID: the first 16 bytes of the public key's digest. -/
def deviceId (i : SlotImage) : Nat := fieldLE (Config.sm3 (Config.sm2Public (identityKey i))) 0 16

/-- Whether the device section verifies, and its certificate, whose key is the derived one (R408). -/
def deviceOk (i : SlotImage) : Bool := i.deviceSigned && certOk 4 i.cert4 && i.cert4.key == Config.sm2Public (identityKey i)

/-- MIN_VERSION of the kind 1 certificate, and whether the kind 3 certificate lists the device. -/
def minVersion (i : SlotImage) : Nat := match i.certs with | c :: _ => c.minVersion | [] => 0
def listsDevice (i : SlotImage) : Bool := match i.certs[2]? with | some c => (c.deviceIds.take c.deviceCount).contains (deviceId i) | none => false

/-- Whether an entry of the spare map is legal (Table 13-5). -/
def spareItemOk (s : SpareItem) : Bool :=
  decide (s.barn < 8) && decide (s.site < 768) && s.reserved == 0 &&
  (match s.kind with
   | 1 | 2 => s.unit == 0 && s.index == 0
   | 3 => isTap s.site && decide (s.unit < 5) && decide (s.index < 68)
   | 4 => decide (s.unit < 4) && decide (s.index < 2)
   | _ => false)

/-- Whether an FP32 code is a finite number. -/
def finite32 (c : W32) : Bool := c.toNat / 2 ^ 23 % 256 != 255

/-- Whether an FP16 code is a finite number. -/
def finite16 (c : BitVec 16) : Bool := c.toNat / 2 ^ 10 % 32 != 31

/-- Whether a calibration block passes the checks of R401. -/
def calBlockOk (c : CalBlock) : Bool :=
  (c.holdoverTemp ++ c.edges.map (·.2.2) ++ c.sf ++ [c.sfl, c.sfh] ++ c.weights ++ c.replicas.flatten).all finite32 &&
  (c.nodes.all fun n => finite32 n.1 && finite32 n.2.1 && finite32 n.2.2) &&
  ((c.rings ++ c.margins).all fun r => finite16 r.1 && finite16 r.2) &&
  (c.edges.all fun e => decide (0 ≤ f32Rat e.2.2)) &&
  ((List.range c.nodes.length).all fun i =>
    let n := nth c.nodes i (0, 0, 0)
    let g := sumRat ((c.edges.filter fun e => e.1 == i || e.2.1 == i).map fun e => f32Rat e.2.2)
    decide (0 < f32Rat n.1) && decide (0 ≤ f32Rat n.2.1) && decide ((g + f32Rat n.2.1) / (100000 * f32Rat n.1) ≤ 1 / 2))

/-- Whether a configuration record is malformed (R404). -/
def recordBad (c : CfgRecord) : Bool :=
  let block := c.addr / 0x1000000
  !(decide (1 ≤ c.kind) && decide (c.kind ≤ 4)) || c.reserved != 0 ||
  (c.kind != 2 && c.kind != 4 && c.mask != 0) || (c.kind != 3 && c.kind != 4 && c.timeout != 0) ||
  (if c.kind == 3 then c.addr != 0 || c.value != 0
   else c.addr % 4 != 0 || decide (c.addr < 0x100000000) || decide (0x133FFFFFF < c.addr) || block == 0x103 || block == 0x131) ||
  ((c.kind == 1 || c.kind == 2) && (match Reg.ofAddr c.addr with | some r => r.name == .OPP_ENTRY && r.j == 2 | none => false))

/-- The result of a slot (SLOT0_RESULT), the checks taken in the order of R408; spent says that the PUF array is overwritten. -/
def slotResult (i : SlotImage) (spent : Bool) : Nat :=
  if !i.sfdpOk then 11
  else if !imageHeaderOk i then 1
  else if !imageTableOk i then 2
  else if !certsOk i then 3
  else if spent || !seedOk i || !deviceOk i || !i.spareHeadOk || !i.spares.all spareItemOk then 4
  else if !i.calSigned || !i.calHeadOk || i.calDevice != deviceId i || !calBlockOk i.cal then 5
  else if !i.vendorSigned then 6
  else if i.fwVersion < minVersion i then 7
  else if !listsDevice i || !i.ownerSigned then 8
  else if !i.sections.all Section.hashOk then 9
  else if !i.configHeadOk || decide (65536 < i.records.length) || i.records.any recordBad then 10
  else 0

/-- Whether a slot gets as far as its identity, and whether the seed check fails there (R410). -/
def seedFails (i : SlotImage) (spent : Bool) : Bool :=
  i.sfdpOk && imageHeaderOk i && imageTableOk i && certsOk i && (spent || !seedOk i)

end Sys2Proof.Machine
end

