-- ==== Sys2Proof/Machine/RmPair.lean ====
section
/-! DEFINITION. The Ringmaster pair (R417-R426): divergence, watchdog, warm restart, carousel swaps, firmware update, loss of both.
ACTIVE is 0 none, 1 A, 2 B; a Ringmaster's state is 0 running, 1 rejoining, 2 in reset, 3 FAILED. What a register write of the
block does stands here; the rows that are such writes come over the Ringmaster bus (Machine/RegRows.lean). -/

namespace Sys2Proof.Machine

def Dev.rmF (d : Dev) (f : Field) : Nat := d.getF (r0 .RM_STATUS) f
def Dev.setRm (d : Dev) (f : Field) (v : Nat) : Dev := d.setF (r0 .RM_STATUS) f v
def Dev.active (d : Dev) : Nat := d.rmF Fld.RM_STATUS_ACTIVE
def Dev.setActive (d : Dev) (n : Nat) : Dev := d.setRm Fld.RM_STATUS_ACTIVE n
def Dev.inStep (d : Dev) : Bool := d.rmF Fld.RM_STATUS_IN_STEP == 1
def Dev.setStep (d : Dev) (v : Bool) : Dev := d.setRm Fld.RM_STATUS_IN_STEP (boolNat v)
def Dev.updating (d : Dev) : Bool := d.rmF Fld.RM_STATUS_UPDATE == 1

/-- The other Ringmaster. -/
def otherRm (n : Nat) : Nat := 3 - n

/-- The state of Ringmaster 1 (A) or 2 (B). -/
def Dev.rmState (d : Dev) (n : Nat) : Nat := d.rmF (if n = 1 then Fld.RM_STATUS_A_STATE else Fld.RM_STATUS_B_STATE)
def Dev.setRmState (d : Dev) (n v : Nat) : Dev :=
  d.setRm (if n = 1 then Fld.RM_STATUS_A_STATE else Fld.RM_STATUS_B_STATE) v

def Dev.updRmSt (d : Dev) (f : RmSt → RmSt) : Dev := { d with rm := f d.rm }

/-- RM_UPDATE's STEP and RESULT; UPDATE is set while a step is under way. -/
def Dev.setUpdate (d : Dev) (step result : Nat) : Dev :=
  ((d.setF (r0 .RM_UPDATE) Fld.RM_UPDATE_STEP step).setF (r0 .RM_UPDATE) Fld.RM_UPDATE_RESULT result).setRm
    Fld.RM_STATUS_UPDATE (boolNat (step != 0))
def Dev.updateStep (d : Dev) : Nat := d.getF (r0 .RM_UPDATE) Fld.RM_UPDATE_STEP

/-! ## The two SRAMs (R417)

The bus shows the SRAM of the Ringmaster that holds ACTIVE. The other's is the same while the two are in step; out of step the model keeps
it at otherSram, which the address map leaves free. -/

def rmSram : Nat := 0x10000000
def rmSramSize : Nat := 0x800000
def otherSram : Nat := 0x10800000

/-- The Ringmaster SRAM of the address map. -/
def inSram (a : Nat) : Bool := decide (rmSram ≤ a) && decide (a < rmSram + rmSramSize)

/-- The two leave step: from here on each keeps its own SRAM. -/
def Dev.partSram (d : Dev) : Dev := d.copyRange rmSram otherSram rmSramSize

/-- ACTIVE passes to the other Ringmaster: out of step the bus then shows the other SRAM. -/
def Dev.passActive (d : Dev) (n : Nat) : Dev :=
  let spare := otherSram + rmSramSize
  let d := if d.inStep then d else
    (((d.copyRange rmSram spare rmSramSize).copyRange otherSram rmSram rmSramSize).copyRange spare otherSram rmSramSize).zero spare rmSramSize
  d.setActive n

/-- Firmware is loaded into the first 2 MiB of the holder's SRAM (R408). -/
def Dev.loadFirmware (d : Dev) (i : SlotImage) : Dev :=
  (d.write rmSram (i.firmware.take 0x200000)).wr (r0 .RM_FW_VERSION) (BitVec.ofNat 32 i.fwVersion)

/-- Out of step, with one Ringmaster held in reset: a change of state recomputes the level (R416). -/
def Dev.holdInReset (d : Dev) (n : Nat) (failed : Bool) : Dev :=
  let d := if d.inStep then d.partSram else d
  ((d.setStep false).setRmState n (if failed then 3 else 2)).relevel

/-! ## Divergence (R419) -/

/-- The two halves of the pair differ: the bad one goes to reset. -/
def Dev.rmDiverge (d : Dev) (a b : Bool) : Dev :=
  let h := d.active
  let holderBad := if h = 1 then a && !b else b && !a
  let beats := (d.beat :: d.rm.diverged).filter fun t => d.beat ≤ t + 2 ^ 32
  let failed := decide (3 ≤ beats.length)
  let d := (d.updRmSt fun r => { r with diverged := beats, swap := none, returnAt := none }).inc (r0 .RM_EVT) Fld.RM_EVT_DIVERGE
  let d := d.raise 319
  if holderBad then ((d.passActive (otherRm h)).inc (r0 .RM_EVT) Fld.RM_EVT_TAKEOVER).holdInReset h failed
  else d.holdInReset (otherRm h) failed

/-- The pair's bus requests differ; a and b say whether A's and B's internal error detectors signalled within the 64 cycles
before. -/
def execDivergence (a b : Bool) (s : State) : Out :=
  onUnit true s fun d =>
    d.when (d.hasMaster && d.inStep) fun d => d.rmDiverge a b

/-! ## The watchdog (R420, R421) -/

/-- Both Ringmasters are FAILED; no bus request is granted from then on. -/
def Dev.bothFailed (d : Dev) : Dev := (((d.setStep false).setRmState 1 3).setRmState 2 3).setActive 0

/-- A failure of an update after its handover: ACTIVE returns to the paused former holder with the former firmware (R424). -/
def Dev.revertUpdate (d : Dev) : Dev :=
  let p := d.rm.paused
  let d := (d.passActive p).setUpdate 0 4
  let d := d.wr (r0 .RM_FW_VERSION) d.rm.oldVersion
  (d.updRmSt fun r => { r with kicked := d.beat }).holdInReset (otherRm p) false

/-- The bus bridge resets: a held access is discarded, a held read returns 0, the address is recorded (R420). -/
def Dev.abortBus (d : Dev) : Dev :=
  match d.busHeld with
  | [] => d
  | a :: _ =>
    let addr := match a with | .write n _ => n | .read n => n
    let d := match a with | .read _ => { d with busData := 0 } | .write _ _ => d
    ({ d with busHeld := [] }).setPair (r0 .RM_ABORT_LO) (r0 .RM_ABORT_HI) addr

/-- The watchdog runs out. -/
def Dev.watchdogExpires (d : Dev) : Dev :=
  let limit := d.getF (r0 .RM_TIMING) Fld.RM_TIMING_WD_TIMEOUT * 1000
  let d := ((d.abortBus).inc (r0 .RM_EVT) Fld.RM_EVT_WATCHDOG).raise 321
  match d.rm.restartAt with
  | some t =>
    if d.beat ≤ t + 2 * limit then (d.updRmSt fun r => { r with restartAt := none }).bothFailed
    else d.updRmSt fun r => { r with restartAt := none, graceFrom := some d.beat }
  | none =>
    if d.updateStep = 6 then d.revertUpdate
    else d.updRmSt fun r => { r with graceFrom := some d.beat }

/-- WD_TIMEOUT passes without a write of RM_KICK. -/
def execWatchdog (s : State) : Out :=
  onUnit true s fun d =>
    let limit := d.getF (r0 .RM_TIMING) Fld.RM_TIMING_WD_TIMEOUT * 1000
    d.when (d.hasMaster && d.rm.graceFrom.isNone && decide (d.rm.kicked + limit ≤ d.beat)) fun d => d.watchdogExpires

/-- A write of RM_KICK: the watchdog starts again, and an abort is answered. -/
def Dev.kick (d : Dev) : Dev := d.updRmSt fun r => { r with kicked := d.beat, graceFrom := none }

/-- The former standby takes over after the grace. It loads the firmware of the slot booted at the start (DEDUCED, log 155), and takes the
Barker's sources as they pend (R459). -/
def Dev.restartWarm (d : Dev) : Dev :=
  let h := d.active
  let o := otherRm h
  let d := d.updRmSt fun r => { r with graceFrom := none, kicked := d.beat, restartAt := some d.beat, swap := none, returnAt := none }
  let d := if d.updating then d.setUpdate 0 (if d.updateStep ≤ 4 then 3 else 4) else d
  if d.rmState o = 3 then d.bothFailed
  else
    let d := ((((d.passActive o).setRmState o 0).clearInService).holdInReset h false)
    match d.start.image with
    | some i => d.loadFirmware i
    | none => d

/-- No RM_KICK within WD_GRACE of the abort: both make a warm restart with the former standby as the holder. Where the other is
FAILED no Ringmaster can hold ACTIVE. -/
def execWarmRestart (s : State) : Out :=
  onUnit true s fun d =>
    match d.rm.graceFrom with
    | none => d
    | some g =>
      d.when (d.hasMaster && decide (g + d.getF (r0 .RM_TIMING) Fld.RM_TIMING_WD_GRACE * 1000 ≤ d.beat)) fun d => d.restartWarm

/-- Whether the holder pauses for the other to rejoin (R421). -/
def Dev.rmPaused (d : Dev) : Bool := d.hasMaster && d.rmState (otherRm d.active) == 1

/-- A Ringmaster held in reset begins to rejoin: the holder pauses (R421). -/
def Dev.beginRejoin (d : Dev) : Dev := d.setRmState (otherRm d.active) 1

/-- The holder has copied its SRAM and its state: both leave the pause in step (R421). -/
def Dev.endRejoin (d : Dev) : Dev :=
  (((d.zero otherSram rmSramSize).setRmState (otherRm d.active) 0).setStep true).relevel

/-! ## Swaps (R422, R423) -/

/-- ACTIVE passes at a swap beat, with a new nonce (Table 13-2). -/
def Dev.beginSwap (d : Dev) (nonce : W32) (update : Bool) : Dev :=
  let h := d.active
  ((d.passActive (otherRm h)).wr (r0 .RM_SWAP_NONCE) nonce).updRmSt fun r => { r with swap := some ⟨d.beat, h, update⟩ }

/-- A swap is attempted: skipped where the pair is not in step, an update is under way or a bus access is outstanding. -/
def Dev.trySwap (d : Dev) (nonce : W32) : Dev :=
  if !d.inStep || d.updating || !d.busHeld.isEmpty then
    (d.inc (r0 .RM_SWAPS) Fld.RM_SWAPS_SWAP_SKIP).setF (r0 .RM_CTRL) Fld.RM_CTRL_SWAP_NOW 0
  else d.beginSwap nonce false

/-- Whether a swap is due at this beat: at a multiple of the period, or at a multiple of 2^20 after SWAP_NOW. -/
def Dev.swapDue (d : Dev) : Bool :=
  let period := d.getF (r0 .RM_CAROUSEL) Fld.RM_CAROUSEL_CAROUSEL_PERIOD * 2 ^ 20
  (d.flag (r0 .RM_CTRL) Fld.RM_CTRL_CAROUSEL_EN && d.beat % period == 0) ||
    (d.flag (r0 .RM_CTRL) Fld.RM_CTRL_SWAP_NOW && d.beat % 2 ^ 20 == 0)

/-- nonce is the value that RM_SWAP_NONCE takes. -/
def execCarouselSwap (nonce : W32) (s : State) : Out :=
  onUnit true s fun d =>
    d.when (d.hasMaster && d.rm.swap.isNone && d.swapDue) fun d => d.trySwap nonce

/-- A write of RM_SWAP_CHECK: the complement of the nonce within 1,000 beats of the swap completes it; then RETURN sets the beat
of the switch-back, and an update goes on to step 6. -/
def Dev.swapCheck (d : Dev) (v : W32) : Dev :=
  match d.rm.swap with
  | none => d
  | some w =>
    if w.beat + 1000 < d.beat ∨ v ≠ ~~~(d.rd (r0 .RM_SWAP_NONCE)) then d
    else
      let d := (d.inc (r0 .RM_SWAPS) Fld.RM_SWAPS_SWAPS).setF (r0 .RM_CTRL) Fld.RM_CTRL_SWAP_NOW 0
      let home := d.getF (r0 .RM_CTRL) Fld.RM_CTRL_HOME + 1
      let back := d.flag (r0 .RM_CTRL) Fld.RM_CTRL_SWITCHBACK && d.active != home && !w.update
      let at' := w.beat + d.getF (r0 .RM_CAROUSEL) Fld.RM_CAROUSEL_RETURN_HOLD * 1000000
      let d := d.updRmSt fun r => { r with swap := none, returnAt := if back then some at' else none }
      if w.update then d.setUpdate 6 0 else d

/-- No correct write by s + 1,001: ACTIVE returns to the former holder, and the new holder is held in reset and FAILED; an update
ends with SWAP, and its standby rejoins (R424). -/
def execSwapFail (s : State) : Out :=
  onUnit true s fun d =>
    match d.rm.swap with
    | none => d
    | some w =>
      d.when (decide (w.beat + 1001 ≤ d.beat)) fun d =>
        let d := d.updRmSt fun r => { r with swap := none, returnAt := none }
        let d := ((d.inc (r0 .RM_EVT) Fld.RM_EVT_SWAP_FAIL).raise 320).setF (r0 .RM_CTRL) Fld.RM_CTRL_SWAP_NOW 0
        if w.update then d.revertUpdate else (d.passActive w.former).holdInReset (otherRm w.former) true

/-- At s + RETURN_HOLD ACTIVE passes back to HOME through the sequence of Table 13-2 (R423). -/
def execSwitchback (nonce : W32) (s : State) : Out :=
  onUnit true s fun d =>
    match d.rm.returnAt with
    | none => d
    | some t =>
      d.when (d.hasMaster && d.rm.swap.isNone && d.flag (r0 .RM_CTRL) Fld.RM_CTRL_SWITCHBACK && decide (t ≤ d.beat)) fun d =>
        (d.updRmSt fun r => { r with returnAt := none }).trySwap nonce

/-! ## Firmware update (R424, R425) -/

def Dev.rmReject (d : Dev) (_ : Reject) : Dev := d.inc (r0 .RM_ERR) Fld.RM_ERR_REJ

/-- Whether the image in the slot that did not boot passes the checks of R408, with the identity already derived (Table 13-3). -/
def Dev.stagedOk (d : Dev) : Bool :=
  match d.rm.staged, d.start.image with
  | some i, some own => slotResult { i with seed := own.seed, check := own.check } false == 0
  | _, _ => false

/-- GO: the standby leaves step, resets and loads the other slot's firmware (step 3), if that slot passes the checks of step 2. Refused
while an update is under way or a Ringmaster is FAILED. -/
def Dev.updateGo (d : Dev) : Dev :=
  if d.updating || d.rmState 1 == 3 || d.rmState 2 == 3 then d.rmReject .busyRej
  else if !d.stagedOk then d.setUpdate 0 2
  else (d.setUpdate 3 0).holdInReset (otherRm d.active) false

/-- ABORT ends an update before step 5; the standby is to rejoin. -/
def Dev.updateAbort (d : Dev) : Dev :=
  if d.updating && decide (d.updateStep < 5) then (d.setUpdate 0 5).holdInReset (otherRm d.active) false else d

/-- Step 4: the standby has booted and reads the mailbox. -/
def Dev.readHandoff (d : Dev) : Dev := ((d.setRmState (otherRm d.active) 0).setUpdate 4 0).updRmSt fun r => { r with goAt := d.beat }

/-- Step 5: ACTIVE passes to the standby with the new firmware, and the former holder is paused. -/
def Dev.handOver (d : Dev) (nonce : W32) : Dev :=
  let d := (d.updRmSt fun r => { r with oldVersion := d.rd (r0 .RM_FW_VERSION), paused := d.active, goAt := d.beat }).setUpdate 5 0
  let d := d.beginSwap nonce true
  match d.rm.staged with
  | some i => d.loadFirmware i
  | none => d

/-- Steps 4 and 5: the standby boots and reads the handoff mailbox, or fails to (ok); the command repeated then passes ACTIVE, at a
multiple of 2^20 beats that lies at least 2^20 beats after. -/
def execUpdateHandover (ok : Bool) (nonce : W32) (s : State) : Out :=
  onUnit true s fun d =>
    if d.updateStep = 3 then d.when d.hasMaster fun d => if ok then d.readHandoff else d.setUpdate 0 3
    else d.when (d.hasMaster && d.updateStep == 4 && d.beat % 2 ^ 20 == 0 && decide (d.rm.goAt + 2 ^ 20 ≤ d.beat)) fun d => d.handOver nonce

/-- After UPDATE_CONFIRM the former holder resets and rejoins on the new firmware: DONE (step 7). -/
def execUpdateConfirmEnd (s : State) : Out :=
  onUnit true s fun d =>
    let limit := d.getF (r0 .RM_CONFIRM) Fld.RM_CONFIRM_UPDATE_CONFIRM * 1000000
    d.when (d.hasMaster && d.updateStep == 6 && decide (d.rm.goAt + limit ≤ d.beat)) fun d =>
      (d.setUpdate 0 1).holdInReset d.rm.paused false

/-! ## No master (R426) -/

/-- No Ringmaster can hold ACTIVE: the interlock grants the bus to none. -/
def execNoMaster (s : State) : Out :=
  onUnit true s fun d =>
    d.when (d.rmState 1 == 3 && d.rmState 2 == 3 && d.rmF Fld.RM_STATUS_NO_MASTER == 0) fun d =>
      ((d.setActive 0).setRm Fld.RM_STATUS_NO_MASTER 1).updRmSt fun r => { r with noMasterAt := some d.beat }

/-! ## Register writes -/

/-- Writes of the RM block: a value outside its stated range is rejected. -/
def Dev.writeRm (d : Dev) (r : Reg) (v : W32) : Dev :=
  let out (bad : Bool) : Dev := d.writeOr r v (firstReject false false bad) Dev.rmReject
  match r.name with
  | .RM_KICK => d.kick
  | .RM_TIMING => out (decide (Fld.RM_TIMING_WD_TIMEOUT.get v < 100) || Fld.RM_TIMING_WD_GRACE.get v == 0)
  | .RM_CAROUSEL => out (Fld.RM_CAROUSEL_CAROUSEL_PERIOD.get v == 0 || Fld.RM_CAROUSEL_RETURN_HOLD.get v == 0)
  | .RM_CONFIRM => out (Fld.RM_CONFIRM_UPDATE_CONFIRM.get v == 0)
  | .RM_SWAP_CHECK => d.swapCheck v
  | .RM_UPDATE =>
    let d := if Fld.RM_UPDATE_GO.get v = 1 then d.updateGo else d
    if Fld.RM_UPDATE_ABORT.get v = 1 then d.updateAbort else d
  | _ => out false

/-- Whether the device holds PKG_ALERT_n low (R473). -/
def Dev.pkgAlert (d : Dev) : Bool :=
  d.flag (r0 .PWR_STATUS) Fld.PWR_STATUS_PKG_TRIP || d.flag (r0 .RM_STATUS) Fld.RM_STATUS_NO_MASTER

end Sys2Proof.Machine
end

