-- ==== Sys2Proof/Machine/Optics.lean ====
section
/-! DEFINITION. Rings, pattern checks and training (R241-R247), feed lasers and power control (R248-R252), lantern modules
(R253-R256), and the registers of the LANE and LANT blocks. -/

namespace Sys2Proof.Machine

/-! ## Rings (R242-R246) -/

def bankKey (wg dir : Nat) (tx : Bool) : Nat := (wg * 2 + dir) * 2 + boolNat tx

/-- The ROT field of a bank. -/
def rotField (dir : Nat) (tx : Bool) : Field :=
  if dir = 0 then (if tx then Fld.WG_ROT_TX0 else Fld.WG_ROT_RX0) else (if tx then Fld.WG_ROT_TX1 else Fld.WG_ROT_RX1)

def Dev.rot (d : Dev) (wg dir : Nat) (tx : Bool) : Nat := d.getF (r1 .WG_ROT wg) (rotField dir tx)

/-- The ring of a bank that serves lane n: ring i serves lane (i + ROT) mod 16 (R242). -/
def Dev.ringOf (d : Dev) (wg dir : Nat) (tx : Bool) (n : Nat) : Nat := bankKey wg dir tx * 16 + (n + 16 - d.rot wg dir tx) % 16

def Dev.ring (d : Dev) (key : Nat) : RingSt := d.rings.get (fun _ => {}) key
def Dev.updRing (d : Dev) (key : Nat) (f : RingSt → RingSt) : Dev := { d with rings := d.rings.upd (fun _ => {}) key f }

/-- The modelled temperature of a bank's thermal cell. -/
def Dev.bankTemp (d : Dev) (key : Nat) : Rat := d.nodeT (Config.ringNode key)

/-- The word of RING_TX or RING_RX: the heater and lock of the ring that serves the lane, and the lane's margin. -/
def Dev.ringWord (d : Dev) (r : Reg) (tx : Bool) : W32 :=
  let k := d.ring (d.ringOf r.i r.j tx r.k)
  let w := Fld.RING_RX_LOCKED.put (Fld.RING_RX_HEAT.put 0 (k.heat * 4).floor.toNat) (boolNat k.locked)
  if tx then w else Fld.RING_RX_MARGIN.put w (d.getF r Fld.RING_RX_MARGIN)

/-- A lane leaves its link: at a transmit bank by the transmitter's own map, at a receive bank by a request (R245). -/
def Dev.laneOut (d : Dev) (wg dir : Nat) (tx : Bool) (mask : Nat) : Dev :=
  let off (m : Nat) : Nat := m - Nat.land m mask
  if tx then (d.updLane wg dir fun k => { k with tx := off k.tx }).remapLink (linkOf wg) dir
  else (d.updLane wg dir fun k => { k with rx := off k.rx }).askLanes wg dir

/-- A lock loss is counted. -/
def Dev.countLockLoss (d : Dev) (wg : Nat) : Dev :=
  (d.inc (r1 .WG_EVT wg) Fld.WG_EVT_LOCK_LOSS).addPair (r0 .LANE_LOCKLOSS_LO) (r0 .LANE_LOCKLOSS_HI) 1

/-- The ring that serves lane n loses lock; what runs of the lane's pattern check ends. -/
def Dev.loseLock (d : Dev) (wg dir : Nat) (tx : Bool) (n : Nat) : Dev :=
  let d := (d.updRing (d.ringOf wg dir tx n) fun k => { k with locked := false, loose := 0 }).updLane wg dir fun k =>
    { k with checks := k.checks.set (fun _ => none) n none }
  (d.countLockLoss wg).laneOut wg dir tx (2 ^ n)

def okRing (wg dir n : Nat) : Bool := okWg wg dir && decide (n < 16)

/-- The feedback gain: a loop that integrates ki of its error each beat follows a ramp with a lag of 1 / ki beats, and R243 gives 150 µs,
15,000 beats (DEDUCED, log 134). -/
def ringKi : Rat := 1 / 15000

/-- A heater setting within its range (R242). -/
def clampHeat (h : Rat) : Rat := if h < 0 then 0 else if 800 < h then 800 else h

/-- One beat of a ring's loop (R243); err is the monitor's reading in 0.001 GHz. With REHOP_EN at 0 a ring whose setting leaves
its range loses lock. -/
def execRingTune (wg dir : Nat) (tx : Bool) (n : Nat) (err : Int) (s : State) : Out :=
  onUnit (okRing wg dir n) s fun d =>
    let key := d.ringOf wg dir tx n
    let k := d.ring key
    let e : Rat := (err : Rat) / 1000
    let ff := if d.flag (r0 .LANE_CTRL) Fld.LANE_CTRL_FF_EN then k.ff - k.ramp else k.ff
    let integ := k.integ + ringKi * e
    let want := ff + integ
    let win : Rat := d.getF (r0 .LANE_THRESH) Fld.LANE_THRESH_LOCK_WIN
    let loose := if win < (if e < 0 then -e else e) then k.loose + 1 else 0
    let heat := clampHeat want
    let d := d.updRing key fun k => { k with ff := ff, integ := integ, heat := heat, loose := loose }
    d.when (k.locked && !d.flag (r0 .LANE_CTRL) Fld.LANE_CTRL_REHOP_EN && want != heat) fun d => d.loseLock wg dir tx n

/-- The value of an FP16 code. -/
def f16Rat (c : BitVec 16) : Rat := (fp16.decode c.toNat).toRat

/-- At an estimator update the ramp is recomputed from the cell's temperature (R243). -/
def execRingFeedforward (wg dir : Nat) (tx : Bool) (n : Nat) (s : State) : Out :=
  onUnit (okRing wg dir n) s fun d =>
    let key := d.ringOf wg dir tx n
    let t := d.bankTemp (bankKey wg dir tx)
    let kt := match d.cal.block with | some c => f16Rat (nth c.rings key (0, 0)).1 | none => 0
    d.when (d.beat % 1000 == 0) fun d => d.updRing key fun k => { k with ramp := kt * (t - k.temp.getD t) / 1000, temp := some t }

/-- A ring whose error stood beyond LOCK_WIN for 16 beats loses lock (R243, R245). -/
def execRingLockLoss (wg dir : Nat) (tx : Bool) (n : Nat) (s : State) : Out :=
  onUnit (okRing wg dir n) s fun d =>
    let k := d.ring (d.ringOf wg dir tx n)
    d.when (k.locked && decide (16 ≤ k.loose)) fun d => d.loseLock wg dir tx n

/-- The pattern check of a lane begins (R247). -/
def Dev.startCheck (d : Dev) (wg dir n : Nat) : Dev :=
  let beat := d.beat
  d.updLane wg dir fun k => { k with checks := k.checks.set (fun _ => none) n (some beat), retry := k.retry.set (fun _ => none) n none }

/-- The rings at both ends of a lane are locked. -/
def Dev.ringsLocked (d : Dev) (wg dir n : Nat) : Bool := (d.ring (d.ringOf wg dir true n)).locked && (d.ring (d.ringOf wg dir false n)).locked

/-- The rings at both ends of a lane are unlocked. -/
def Dev.unlockRings (d : Dev) (wg dir n : Nat) : Dev :=
  [true, false].foldl (fun d tx => d.updRing (d.ringOf wg dir tx n) fun k => { k with locked := false, loose := 0 }) d

/-- The feed group of a transmit end (R248). -/
def groupOf (wg dir : Nat) : Nat := (2 * wg + dir) % 24

/-- Whether a lane is dark for a switch of its feed laser, or a rehop has yet to step its heaters. -/
def Dev.laneDark (d : Dev) (wg dir : Nat) (tx : Bool) (n : Nat) : Bool :=
  (match d.switches.get (fun _ => none) (n * 24 + groupOf wg dir) with | some w => w.step == 2 || w.step == 3 | none => false) ||
  (d.rehops.get (fun _ => none) (bankKey wg dir tx)).isSome

/-- A ring relocks (R245): its sweep within 50 GHz of the feed-forward value has found the lane `off` thousandths of a GHz from it. With
the rings at both ends locked the lane's pattern check begins. -/
def execRingRelock (wg dir : Nat) (tx : Bool) (n : Nat) (off : Int) (s : State) : Out :=
  onUnit (okRing wg dir n && decide (-50000 ≤ off) && decide (off ≤ 50000)) s fun d =>
    let key := d.ringOf wg dir tx n
    let o : Rat := (off : Rat) / 1000
    d.when (!(d.ring key).locked && !d.laneDark wg dir tx n) fun d =>
      let d := d.updRing key fun k => { k with heat := clampHeat (k.ff + o), integ := o, locked := true, loose := 0 }
      d.when (d.ringsLocked wg dir n) fun d => d.startCheck wg dir n

/-- Whether a bank has a heater beyond the rehop threshold of a direction. -/
def Dev.heaterOut (d : Dev) (wg dir : Nat) (tx up : Bool) : Bool :=
  (List.range 16).any fun i =>
    let h := (d.ring (bankKey wg dir tx * 16 + i)).heat
    if up then decide (h < (d.getF (r0 .LANE_THRESH) Fld.LANE_THRESH_REHOP_LO : Rat))
    else decide ((d.getF (r0 .LANE_THRESH) Fld.LANE_THRESH_REHOP_HI : Rat) < h)

/-- A rehop begins: the bank's lanes leave the link, and what runs of their checks ends. -/
def Dev.rehopBank (d : Dev) (wg dir : Nat) (tx up : Bool) : Dev :=
  let d := (d.laneOut wg dir tx 0xFFFF).updLane wg dir fun k => { k with checks := [], retry := [] }
  { d.inc (r1 .WG_EVT wg) Fld.WG_EVT_REHOP with rehops := d.rehops.set (fun _ => none) (bankKey wg dir tx) (some up) }

/-- With its lanes gone, a bank moves by one ring spacing: ROT changes, its heaters step, and its rings have to relock (R246). -/
def Dev.stepBank (d : Dev) (wg dir : Nat) (tx up : Bool) : Dev :=
  let bank := bankKey wg dir tx
  let t := d.bankTemp bank
  let d := d.setF (r1 .WG_ROT wg) (rotField dir tx) ((d.rot wg dir tx + (if up then 1 else 15)) % 16)
  let step : Rat := if up then 200 else -200
  let d := (List.range 16).foldl (fun d i => d.updRing (bank * 16 + i) fun k =>
    { k with heat := clampHeat (k.heat + step), ff := k.ff + step, locked := false, loose := 0 }) d
  { d with banks := d.banks.set (fun _ => none) bank (some t), rehops := d.rehops.set (fun _ => none) bank none }

/-- Rehops whose lanes have left go on. -/
def Dev.edgeRehops (d : Dev) : Dev :=
  d.rehops.foldl (fun d e => match e.2 with
    | some up => d.when (d.lanesIn (e.1 / 4) (e.1 / 2 % 2) == 0) fun d => d.stepBank (e.1 / 4) (e.1 / 2 % 2) (e.1 % 2 == 1) up
    | none => d) d

/-- A bank changes ROT (R246): its lanes leave first. -/
def execRehop (wg dir : Nat) (tx up : Bool) (s : State) : Out :=
  onUnit (okWg wg dir) s fun d =>
    let bank := bankKey wg dir tx
    let t := d.bankTemp bank
    let far : Bool := match d.banks.get (fun _ => none) bank with
      | some t0 => decide (20 ≤ (if t < t0 then t0 - t else t - t0))
      | none => false
    d.when (d.flag (r0 .LANE_CTRL) Fld.LANE_CTRL_REHOP_EN && (d.rehops.get (fun _ => none) bank).isNone && far && d.heaterOut wg dir tx up)
      fun d => d.rehopBank wg dir tx up

/-! ## Pattern checks and training (R247) -/

/-- A lane has passed: both ends can use it, and it returns by LANE_MAP. -/
def Dev.passLane (d : Dev) (wg dir n : Nat) : Dev :=
  let on (m : Nat) : Nat := Nat.lor m (2 ^ n)
  let d := d.updLane wg dir fun k => { k with tx := on k.tx, rx := on k.rx, checks := k.checks.set (fun _ => none) n none }
  let d := if bitOf (d.lane wg dir).asked n then d else d.askLanes wg dir
  d.remapLink (linkOf wg) dir

/-- A lane with more than 4 errors stays out. -/
def Dev.failLane (d : Dev) (wg dir n : Nat) : Dev :=
  let beat := d.beat
  d.updLane wg dir fun k => { k with checks := k.checks.set (fun _ => none) n none, retry := k.retry.set (fun _ => none) n (some beat) }

def execPatternCheckDone (wg dir lane errors : Nat) (s : State) : Out :=
  onUnit (okRing wg dir lane) s fun d =>
    match (d.lane wg dir).checks.get (fun _ => none) lane with
    | some t => d.when (decide (t + 4000 ≤ d.beat)) fun d => if errors ≤ 4 then d.passLane wg dir lane else d.failLane wg dir lane
    | none => d

def execPatternRetry (wg dir lane : Nat) (s : State) : Out :=
  onUnit (okRing wg dir lane) s fun d =>
    match (d.lane wg dir).retry.get (fun _ => none) lane with
    | some t =>
      d.when (decide (t + 100000 ≤ d.beat)) fun d => (d.inc (r1 .WG_EVT wg) Fld.WG_EVT_RETRAIN).startCheck wg dir lane
    | none => d

/-- Heater settings of a bank under a ROT, in 0.25 GHz: a sweep found them for ROT 0, and each step adds 200 GHz within the free
spectral range of 3.2 THz. -/
def rotHeats (sweep : List Nat) (rot : Nat) : List Nat := (List.range 16).map fun i => (nth sweep i 0 + 800 * rot) % 12800

/-- How far settings lie from 400 GHz in all; a setting above 800 GHz cannot be held. -/
def rotCost (hs : List Nat) : Nat := sumNat (hs.map fun h => if 3200 < h then 1000000 else max h 1600 - min h 1600)

/-- The ROT that places the heaters nearest 400 GHz. -/
def bestRot (sweep : List Nat) : Nat :=
  (List.range 16).foldl (fun best r => if rotCost (rotHeats sweep r) < rotCost (rotHeats sweep best) then r else best) 0

/-- A bank chooses its ROT and locks (Table 07-4, at 100,000 beats). -/
def Dev.trainBank (d : Dev) (wg dir : Nat) (tx : Bool) (sweep : List Nat) : Dev :=
  let rot := bestRot sweep
  let bank := bankKey wg dir tx
  let d := d.setF (r1 .WG_ROT wg) (rotField dir tx) rot
  let d := ((List.range 16).zip (rotHeats sweep rot)).foldl (fun d c => d.updRing (bank * 16 + c.1) fun k =>
    { k with heat := (min c.2 3200 : Nat) / 4, ff := (min c.2 3200 : Nat) / 4, integ := 0, loose := 0, locked := decide (c.2 ≤ 3200) }) d
  { d with banks := d.banks.set (fun _ => none) bank (some (d.bankTemp bank)) }

/-- The training of a waveguide-direction ends (Table 07-4, at 106,200 beats): `errors` are the errors of each lane's pattern. The map
with the lanes that passed is in force at both ends. -/
def Dev.trainEnd (d : Dev) (wg dir : Nat) (errors : List Nat) : Dev :=
  let good := maskOf 16 fun n => d.ringsLocked wg dir n && decide (nth errors n 1000 ≤ 4)
  let beat := d.beat
  let d := d.updLane wg dir fun _ => { tx := good, rx := good, stage := 4, trained := true }
  let d := ((List.range 16).filter fun n => !bitOf good n).foldl (fun d n =>
    d.updLane wg dir fun k => { k with retry := k.retry.set (fun _ => none) n (some beat) }) d
  let want := d.wantMask wg dir
  let d := (d.updLane wg dir fun k => { k with sent := want }).setLanesIn wg dir want
  d.noteZero (linkOf wg) dir true

/-- The steps of Table 07-4 with their beats: `sweepTx` and `sweepRx` are the settings that the sweep found for ROT 0. -/
def trainSteps (wg dir : Nat) (sweepTx sweepRx errors : List Nat) : List (Nat × (Dev → Dev)) :=
  [(100000, fun d => (d.trainBank wg dir true sweepTx).trainBank wg dir false sweepRx),
   (102000, fun d => (List.range 16).foldl (fun d n => d.startCheck wg dir n) d),
   (106000, id),
   (106200, fun d => d.trainEnd wg dir errors)]

/-- The steps of a waveguide-direction whose beat has come are made, in their order; t is the beat of READY. -/
def Dev.trainOn (d : Dev) (t wg dir : Nat) (sweepTx sweepRx errors : List Nat) : Dev :=
  ((List.range 4).zip (trainSteps wg dir sweepTx sweepRx errors)).foldl (fun d c =>
    d.when ((d.lane wg dir).stage == c.1 && decide (t + c.2.1 ≤ d.beat)) fun d =>
      (c.2.2 d).updLane wg dir fun k => { k with stage := c.1 + 1 }) d

/-- A link trains at the start, as far as its beats have come (Table 07-4). -/
def execLinkTraining (wg dir : Nat) (sweepTx sweepRx errors : List Nat) (s : State) : Out :=
  onUnit (okWg wg dir) s fun d =>
    match d.trainAt with
    | some t => d.when (!(d.lane wg dir).trained) fun d => d.trainOn t wg dir sweepTx sweepRx errors
    | none => d

/-! ## Feed lasers (R248-R252) -/

def Dev.feed (d : Dev) (k j : Nat) (f : Field) : Nat := d.getF (r2 .FEED k j) f
def Dev.setFeed (d : Dev) (k j : Nat) (f : Field) (v : Nat) : Dev := d.setF (r2 .FEED k j) f v
def Dev.setFeedState (d : Dev) (k j v : Nat) : Dev := d.setFeed k j Fld.FEED_STATE v

/-- The wavelength of laser j < 56 of module k, and its index among that wavelength's 28 (R249). -/
def laserWave (k j : Nat) : Nat := 2 * k + j / 28
def laserIdx (j : Nat) : Nat := j % 28

/-- The group that FEED_SEL has a laser feed. -/
def Dev.laserGroup (d : Dev) (k j : Nat) : Option Nat :=
  if 56 ≤ j then none
  else (List.range 24).find? fun g => d.getF (r2 .FEED_SEL (laserWave k j) g) Fld.FEED_SEL_SRC == laserIdx j

/-- The transmit ends of a feed group, as (waveguide, direction) (R248). -/
def groupEnds (g : Nat) : List (Nat × Nat) :=
  ((List.range 42).map fun i => g + 24 * i).filterMap fun e => if e < 1004 then some (e / 2, e % 2) else none

/-- The lowest margin over the receive lanes in service that a laser feeds. -/
def Dev.feedMargin (d : Dev) (n g : Nat) : Option Nat :=
  ((groupEnds g).filterMap fun e =>
    if bitOf (d.lanesIn e.1 e.2) n then some (d.getF (r3 .RING_RX e.1 e.2 n) Fld.RING_RX_MARGIN) else none).foldl
      (fun a m => match a with | none => some m | some v => some (min v m)) none

def switchKey (k j g : Nat) : Nat := laserWave k j * 24 + g

/-- The LANT block writes a register of a laser: it selects the laser's page, then writes (R254). -/
def Dev.laserWrite (d : Dev) (k j reg : Nat) (bs : List Byte) : Dev :=
  let m := d.mods.get (fun _ => {}) k
  let d := (d.emit (.i2c k 0x7F false (bytesLE (1 + j) 1))).emit (.i2c k reg false bs)
  { d with mods := d.mods.set (fun _ => {}) k { m with page := 1 + j } }

/-- The free spare of a laser's wavelength with the lowest index. -/
def Dev.freeSpare (d : Dev) (k j : Nat) : Option Nat :=
  ([24, 25, 26, 27].map (j / 28 * 28 + ·)).find? fun s =>
    (d.laserGroup k s).isNone && (d.feed k s Fld.FEED_STATE == 0 || d.feed k s Fld.FEED_STATE == 3)

/-- The group's lane stays out for want of a spare. -/
def Dev.noSpare (d : Dev) (k : Nat) : Dev := (d.inc (r1 .MOD_EVT k) Fld.MOD_EVT_NO_SPARE).raise (78 + k)

/-- A switch-in starts with the warming of the spare (step 1), where the Ringmaster may and a spare is free. -/
def Dev.startSwitch (d : Dev) (k j : Nat) : Dev :=
  match d.laserGroup k j, d.freeSpare k j with
  | some g, some sp =>
    let key := switchKey k j g
    if d.hasMaster && d.flag (r0 .LANT_CTRL) Fld.LANT_CTRL_AUTO_SPARE && (d.switches.get (fun _ => none) key).isNone then
      { (d.setFeedState k sp 4).laserWrite k sp 0x07 [1] with
        switches := d.switches.set (fun _ => none) key (some { spare := sp, laser := j, since := d.beat }) }
    else d
  | _, _ => d

/-- Whether a laser stands at the replace level (Table 07-6). -/
def Dev.atReplace (d : Dev) (k j : Nat) : Bool :=
  decide (d.getF (r0 .LANT_THRESH) Fld.LANT_THRESH_REPLACE_BIAS * 10 ≤ d.feed k j Fld.FEED_BIAS) ||
  decide (d.feed k j Fld.FEED_MARGIN < d.getF (r0 .LANT_THRESH) Fld.LANT_THRESH_REPLACE_MARGIN)

/-- Whether a laser stands at the watch level. -/
def Dev.atWatch (d : Dev) (k j : Nat) : Bool :=
  decide (d.getF (r0 .LANT_THRESH) Fld.LANT_THRESH_WATCH_BIAS * 10 ≤ d.feed k j Fld.FEED_BIAS) ||
  decide (d.feed k j Fld.FEED_MARGIN < d.getF (r0 .LANT_THRESH) Fld.LANT_THRESH_WATCH_MARGIN)

/-- The action of the watch level. -/
def Dev.watchLaser (d : Dev) (k j : Nat) : Dev := ((d.setFeedState k j 2).inc (r1 .MOD_EVT k) Fld.MOD_EVT_WATCH).raise (78 + k)

/-- A laser's state after an update (Table 07-6); `was` tells whether it stood at the replace level before. Where no switch-in can be made
for a laser that comes to that level in WATCH, it is as Watch again; a yard laser is only raised (R252). -/
def Dev.ageLaser (d : Dev) (k j : Nat) (was : Bool) : Dev :=
  let watch := d.feed k j Fld.FEED_STATE == 2
  let come := d.atReplace k j && !was && watch
  let d := if (d.atWatch k j || d.atReplace k j) && !watch then d.watchLaser k j else d
  if !d.atReplace k j then d
  else if 56 ≤ j then d.when come fun d => d.raise (78 + k)
  else if d.flag (r0 .LANT_CTRL) Fld.LANT_CTRL_AUTO_SPARE then d.startSwitch k j
  else d.when come fun d => d.watchLaser k j

def okLaser (k j : Nat) : Bool := decide (k < 8) && decide (j < 60)

/-- One step of automatic power control from the lowest margin m (R250). -/
def Dev.powerStep (d : Dev) (k j m : Nat) : Dev :=
  let tgt := d.getF (r0 .LANT_APC) Fld.LANT_APC_MARGIN_TGT
  let step := d.getF (r0 .LANT_APC) Fld.LANT_APC_APC_STEP
  let bias := d.feed k j Fld.FEED_BIAS
  let next := if m + 2 < tgt then min 1000 (bias + step) else if tgt + 2 < m then bias - step else bias
  let max := nth (d.mods.get (fun _ => {}) k).biasMax j 0
  let d' := (d.setFeed k j Fld.FEED_BIAS next).setFeed k j Fld.FEED_MARGIN (min m 255)
  let d' := if next = bias then d' else d'.laserWrite k j 0x00 (bytesLE (codeOf 16 (shown ((next * max : Nat) / 1000))) 2)
  d'.ageLaser k j (d.atReplace k j)

/-- Every 10,000 beats automatic power control sets one lit laser (R250); `yard` is the lowest margin that a gate's yard receivers report. -/
def execApcUpdate (k j yard : Nat) (s : State) : Out :=
  onUnit (okLaser k j) s fun d =>
    let st := d.feed k j Fld.FEED_STATE
    d.when (d.beat % 10000 == 0 && d.flag (r0 .LANT_CTRL) Fld.LANT_CTRL_APC_EN && (st == 1 || st == 2)) fun d =>
      match if 56 ≤ j then some yard else (d.laserGroup k j).bind fun g => d.feedMargin (laserWave k j) g with
      | none => d
      | some m => d.powerStep k j m

/-- Every 1,000 beats a receive lane reports its margin in 0.1 dB (R250). -/
def execMarginReport (wg dir lane margin : Nat) (s : State) : Out :=
  onUnit (okRing wg dir lane) s fun d => d.setF (r3 .RING_RX wg dir lane) Fld.RING_RX_MARGIN (min margin 255)

/-- A laser fails; its lanes drop, their rings lose lock, and a spare is switched in if there is one. A yard laser takes its channel from
the links of its gate (R257). -/
def Dev.failLaser (d : Dev) (k j : Nat) : Dev :=
  let d := d.setFeedState k j 5
  match d.laserGroup k j with
  | none => if 56 ≤ j then d.dimGate (j - 56) k else d
  | some g =>
    let n := laserWave k j
    let d := (groupEnds g).foldl (fun d e =>
      let d := d.unlockRings e.1 e.2 n
      if bitOf (d.lane e.1 e.2).rx n then (d.countLockLoss e.1).laneOut e.1 e.2 false (2 ^ n) else d) d
    if (d.freeSpare k j).isNone && (d.switches.get (fun _ => none) (switchKey k j g)).isNone then d.noSpare k else d.startSwitch k j

/-- A laser is reported faulty or dark: FAILED at once, its lanes leave by R245, and the switch-in runs (R251). -/
def execLaserFail (k j : Nat) (s : State) : Out :=
  onUnit (okLaser k j) s fun d =>
    d.when (d.feed k j Fld.FEED_STATE != 5 && d.feed k j Fld.FEED_STATE != 6) fun d => d.failLaser k j

/-- The Ringmaster starts to warm a spare for an ageing or failed laser (R252). -/
def execSpareSwitchIn (k j : Nat) (s : State) : Out :=
  onUnit (okLaser k j) s fun d =>
    d.when (d.atReplace k j && d.feed k j Fld.FEED_STATE != 0 || d.feed k j Fld.FEED_STATE == 5) fun d => d.startSwitch k j

/-- The switch-in under way for laser j. -/
def Dev.switchOf (d : Dev) (k j : Nat) : Option (Nat × Switch) :=
  (List.range 24).findSome? fun g => match d.switches.get (fun _ => none) (switchKey k j g) with
    | some w => if w.laser = j then some (g, w) else none
    | none => none

/-- A lane leaves every transmit end of a group by LANE_MAP, and what runs of its checks ends. -/
def Dev.groupOut (d : Dev) (n g : Nat) : Dev :=
  (groupEnds g).foldl (fun d e =>
    (d.laneOut e.1 e.2 true (2 ^ n)).updLane e.1 e.2 fun k =>
      { k with checks := k.checks.set (fun _ => none) n none, retry := k.retry.set (fun _ => none) n none }) d

/-- A spare has locked: it is ready, and the lane leaves every end of the group (R252, step 2). One that did not lock ends the
switch-in. -/
def Dev.lockSpare (d : Dev) (k j : Nat) (locked : Bool) (g : Nat) (w : Switch) : Dev :=
  let key := switchKey k j g
  if locked then
    let d := (d.setFeedState k w.spare 3).groupOut (laserWave k j) g
    { d with switches := d.switches.set (fun _ => none) key (some { w with step := 2, since := d.beat }) }
  else
    let d : Dev := { d.setFeedState k w.spare 5 with switches := d.switches.set (fun _ => none) key none }
    if d.feed k j Fld.FEED_STATE = 5 ∧ (d.freeSpare k j).isNone then d.noSpare k else d

/-- FEED_SEL switches to the spare of a switch-in, and the lane's rings have to relock (step 3). -/
def Dev.feedSpare (d : Dev) (key : Nat) (w : Switch) : Dev :=
  let n := key / 24
  let g := key % 24
  let d := d.setF (r2 .FEED_SEL n g) Fld.FEED_SEL_SRC (laserIdx w.spare)
  let d := (d.setFeedState (n / 2) w.spare 1).setFeed (n / 2) w.spare Fld.FEED_GROUP g
  let d := (groupEnds g).foldl (fun d e => d.unlockRings e.1 e.2 n) d
  { d with switches := d.switches.set (fun _ => none) key (some { w with step := 3, since := d.beat }) }

/-- Switch-ins go on: to step 3 once the lane has left every link, to step 4 once FEED_SEL has settled for 1,000 beats. -/
def Dev.edgeSwitches (d : Dev) : Dev :=
  d.switches.foldl (fun d e => match e.2 with
    | some w =>
      let gone := (groupEnds (e.1 % 24)).all fun c => !bitOf (d.lanesIn c.1 c.2) (e.1 / 24)
      if w.step = 2 && gone then d.feedSpare e.1 w
      else if w.step = 3 && decide (w.since + 1000 ≤ d.beat) then
        { d with switches := d.switches.set (fun _ => none) e.1 (some { w with step := 4, since := d.beat }) }
      else d
    | none => d) d

/-- The spare for laser j has locked, or failed to. -/
def execSpareLocked (k j : Nat) (locked : Bool) (s : State) : Out :=
  onUnit (okLaser k j && decide (j < 56)) s fun d =>
    match d.switchOf k j with
    | none => d
    | some (g, w) =>
      d.when (w.step == 1) fun d => d.lockSpare k j locked g w

/-- A switch to a spare is over. -/
def Dev.endSwitch (d : Dev) (k j g : Nat) : Dev :=
  let d := ((d.setFeedState k j 6).laserWrite k j 0x07 [0]).setFeed k j Fld.FEED_GROUP 31
  { d.inc (r1 .MOD_EVT k) Fld.MOD_EVT_SWITCH with switches := d.switches.set (fun _ => none) (switchKey k j g) none }

/-- Whether the lane's rings have relocked and its pattern check has ended at every trained end of a group. -/
def Dev.groupChecked (d : Dev) (n g : Nat) : Bool :=
  (groupEnds g).all fun e =>
    !(d.lane e.1 e.2).trained || (d.ringsLocked e.1 e.2 n && ((d.lane e.1 e.2).checks.get (fun _ => none) n).isNone)

/-- Every pattern check of the switch-in has ended, and lanes that passed have returned: the old laser is turned off (steps 5-6). -/
def execSwitchInComplete (k j : Nat) (s : State) : Out :=
  onUnit (okLaser k j && decide (j < 56)) s fun d =>
    match d.switchOf k j with
    | none => d
    | some (g, w) =>
      d.when (w.step == 4 && d.groupChecked (laserWave k j) g) fun d => d.endSwitch k j g

/-! ## Lantern modules (R253-R256) -/

def Dev.modSt (d : Dev) (k : Nat) : ModSt := d.mods.get (fun _ => {}) k
def Dev.updMod (d : Dev) (k : Nat) (f : ModSt → ModSt) : Dev := { d with mods := d.mods.upd (fun _ => {}) k f }
def Dev.modFlag (d : Dev) (k : Nat) (f : Field) (v : Bool) : Dev := d.setF (r1 .MOD_STATUS k) f (boolNat v)
def Dev.modIs (d : Dev) (k : Nat) (f : Field) : Bool := d.flag (r1 .MOD_STATUS k) f

/-- The lasers that a module needs: those that FEED_SEL names, and the four yard feed lasers (R255). -/
def Dev.neededLasers (d : Dev) (k : Nat) : List Nat :=
  ((List.range 48).map fun i => i / 24 * 28 + d.getF (r2 .FEED_SEL (2 * k + i / 24) (i % 24)) Fld.FEED_SEL_SRC) ++ [56, 57, 58, 59]

/-- The group that FEED shows for a laser that is on. -/
def Dev.groupShown (d : Dev) (k j : Nat) : Nat := if 56 ≤ j then j - 56 else (d.laserGroup k j).getD 31

/-- Lasers lit, as MOD_STATUS shows them. -/
def Dev.litCount (d : Dev) (k : Nat) : Nat :=
  ((List.range 60).filter fun j => [1, 2, 3, 4].contains (d.feed k j Fld.FEED_STATE)).length

/-- LMk_PRESENT_n falls (R255). -/
def execModuleInsert (k : Nat) (s : State) : Out :=
  onUnit (decide (k < 8)) s fun d =>
    d.when (!d.modIs k Fld.MOD_STATUS_PRESENT) fun d =>
      let beat := d.beat
      let d := (d.wr (r1 .MOD_STATUS k) 0).modFlag k Fld.MOD_STATUS_PRESENT true
      (d.setF (r1 .MOD_CTRL k) Fld.MOD_CTRL_RELEASE 0).updMod k fun _ => { insertedAt := some beat }

/-- A module comes out of reset, is identified, and its lasers are turned on. -/
def Dev.startModule (d : Dev) (k code : Nat) : Dev :=
  if code ≠ k then (d.modFlag k Fld.MOD_STATUS_CODE_MISMATCH true).raise (78 + k)
  else
    let d := (d.updMod k fun m => { m with lasersOn := true }).emit (.i2c k 0x13 false [1])
    (d.neededLasers k).foldl (fun d j =>
      ((d.setFeedState k j 4).setFeed k j Fld.FEED_GROUP (d.groupShown k j)).laserWrite k j 0x07 [1]) d

/-- 100 ms later reset is released and CODE read: a module of another code stays dark, one that does not acknowledge its address is as
absent, else its needed lasers are turned on. -/
def execModuleResetRelease (k : Nat) (code : Option Nat) (s : State) : Out :=
  onUnit (decide (k < 8)) s fun d =>
    match (d.modSt k).insertedAt with
    | none => d
    | some t =>
      d.when (decide (t + 10000000 ≤ d.beat) && !(d.modSt k).resetHigh) fun d =>
        let d := (d.updMod k fun m => { m with resetHigh := true }).emit (.i2c k 0x01 true [])
        match code with
        | some c => d.startModule k c
        | none => d.inc (r0 .LANT_ERR) Fld.LANT_ERR_I2C_NACK

/-- A module is ready: its lasers are lit, and what they feed trains. -/
def Dev.useModule (d : Dev) (k : Nat) : Dev :=
  let beat := d.beat
  let d := (d.neededLasers k).foldl (fun d j => d.setFeedState k j 1) (d.modFlag k Fld.MOD_STATUS_READY true)
  let d := d.updMod k fun m => { m with inUse := true }
  let trained := (List.range 1004).any fun i => (d.lane (i / 2) (i % 2)).trained
  let d := if trained then
      (List.range 1004).foldl (fun d i =>
        let d := d.startCheck (i / 2) (i % 2) (2 * k)
        d.startCheck (i / 2) (i % 2) (2 * k + 1)) d
    else { d with trainAt := some d.beat }
  let d := (List.range 32).foldl (fun d l =>
    let d := if d.ylinkOn l then d.updYlink l fun y => y.train (2 ^ k) beat else d
    (d.remapYlink l).refreshYlink l) d
  d.relevel

/-- Every needed laser is locked, and BIAS_MAX of each has been read: lanes 2k and 2k + 1 are added by pattern check, and the gates add
channel k. At the start the links train (R247). -/
def execModuleReady (k : Nat) (biasMax : List Nat) (s : State) : Out :=
  onUnit (decide (k < 8)) s fun d =>
    d.when ((d.modSt k).lasersOn && !d.modIs k Fld.MOD_STATUS_READY) fun d =>
      (d.updMod k fun m => { m with biasMax := biasMax }).useModule k

/-- A module's lanes leave every link, its yard channel is dropped, and its lasers are dark. -/
def Dev.dropModule (d : Dev) (k : Nat) : Dev :=
  let mask := 3 * 2 ^ (2 * k)
  let d := (List.range 1004).foldl (fun d i =>
    let clear (m : Sparse (Option Nat)) : Sparse (Option Nat) := (m.set (fun _ => none) (2 * k) none).set (fun _ => none) (2 * k + 1) none
    let d := d.updLane (i / 2) (i % 2) fun l => { l with checks := clear l.checks, retry := clear l.retry, rx := l.rx - Nat.land l.rx mask }
    if Nat.land (d.lane (i / 2) (i % 2)).tx mask ≠ 0 then d.laneOut (i / 2) (i % 2) true mask else d) d
  let d := (d.updMod k fun m => { m with inUse := false, lasersOn := false }).modFlag k Fld.MOD_STATUS_READY false
  let d := (List.range 60).foldl (fun d j => if d.feed k j Fld.FEED_STATE = 6 then d else d.setFeedState k j 0) d
  ((List.range 32).foldl (fun d l =>
    let had := bitOf (d.ylink l).mask k
    let d := d.remapYlink l
    if had then (d.inc (r1 .YLINK_CH_DROP l) Fld.YLINK_CH_DROP_CNT) else d) d).relevel

/-- A planned removal (R256): steps 1-3. -/
def Dev.releaseModule (d : Dev) (k : Nat) : Dev :=
  if d.modIs k Fld.MOD_STATUS_PRESENT && (d.modSt k).releaseAt.isNone then
    let beat := d.beat
    let d := (d.setF (r1 .MOD_CTRL k) Fld.MOD_CTRL_RELEASE 1).dropModule k
    (d.emit (.i2c k 0x13 false [0])).updMod k fun m => { m with releaseAt := some beat }
  else d

/-- A planned removal starts once LMk_REQ_n has been low for 500 ms. -/
def Dev.heldRequest (d : Dev) (k : Nat) : Dev :=
  match (d.modSt k).reqSince with
  | some t => d.when (decide (t + 50000000 ≤ d.beat)) fun d => d.releaseModule k
  | none => d

/-- LMk_REQ_n stands low, or high again: MOD_STATUS.REQ follows it. -/
def execModuleReleaseReq (k : Nat) (low : Bool) (s : State) : Out :=
  onUnit (decide (k < 8)) s fun d =>
    let since := if low then some ((d.modSt k).reqSince.getD d.beat) else none
    ((d.modFlag k Fld.MOD_STATUS_REQ low).updMod k fun m => { m with reqSince := since }).heldRequest k

/-- The receivers of the module's light report none within 150,000 beats of the request: LMk_OK rises. -/
def execModuleDark (k : Nat) (s : State) : Out :=
  onUnit (decide (k < 8)) s fun d =>
    d.when ((d.modSt k).releaseAt.isSome && !(d.modSt k).lateLight) fun d => d.modFlag k Fld.MOD_STATUS_OK true

/-- Light remains 150,000 beats after the request. -/
def execModuleReleaseTimeout (k : Nat) (s : State) : Out :=
  onUnit (decide (k < 8)) s fun d =>
    match (d.modSt k).releaseAt with
    | none => d
    | some t =>
      d.when (decide (t + 150000 ≤ d.beat) && !d.modIs k Fld.MOD_STATUS_OK && !(d.modSt k).lateLight) fun d =>
        ((d.updMod k fun m => { m with lateLight := true }).modFlag k Fld.MOD_STATUS_FAULT true).raise (78 + k)

/-- LMk_PRESENT_n rises: after LMk_OK the planned removal is over, else every link is narrowed (R256). -/
def execUnplannedRemoval (k : Nat) (s : State) : Out :=
  onUnit (decide (k < 8)) s fun d =>
    d.when (d.modIs k Fld.MOD_STATUS_PRESENT) fun d =>
      let ok := d.modIs k Fld.MOD_STATUS_OK
      let d := if ok then d else (d.dropModule k).inc (r1 .MOD_EVT k) Fld.MOD_EVT_UNPLANNED
      (((d.modFlag k Fld.MOD_STATUS_PRESENT false).modFlag k Fld.MOD_STATUS_REQ false).modFlag k Fld.MOD_STATUS_OK false).updMod k
        fun _ => {}

/-- A module reports FAULT or OVERTEMP. -/
def execModuleFault (k : Nat) (s : State) : Out :=
  onUnit (decide (k < 8)) s fun d =>
    d.when (d.modIs k Fld.MOD_STATUS_PRESENT) fun d => (d.modFlag k Fld.MOD_STATUS_FAULT true).raise (78 + k)

/-! ## LANT registers -/

def Dev.lantReject (d : Dev) : Dev := d.inc (r0 .LANT_ERR) Fld.LANT_ERR_REJ

/-- Whether a written transfer would change CMD or BIAS_SET of a selected laser, or the module's CTRL. -/
def Dev.i2cForbidden (d : Dev) (v : W32) : Bool :=
  let k := Fld.LANT_I2C_SOCKET.get v
  let a := Fld.LANT_I2C_REG.get v
  let n := Fld.LANT_I2C_COUNT.get v
  let page := (d.modSt k).page
  let hits (lo hi : Nat) : Bool := decide (a ≤ hi) && decide (lo < a + n)
  Fld.LANT_I2C_READ.get v == 0 &&
  ((page == 0 && hits 0x13 0x13) ||
   (decide (1 ≤ page) && decide (page ≤ 60) && (d.laserGroup k (page - 1)).isSome && (hits 0x00 0x01 || hits 0x07 0x07)))

/-- LANT_I2C: GO starts a transfer (R254). -/
def Dev.writeI2c (d : Dev) (v : W32) : Dev :=
  let r := r0 .LANT_I2C
  if 4 < Fld.LANT_I2C_COUNT.get v ∨ (Fld.LANT_I2C_GO.get v = 1 ∧ d.i2cForbidden v) then d.lantReject
  else
    let busy := d.flag r Fld.LANT_I2C_GO
    let d := d.store r v
    if Fld.LANT_I2C_GO.get v = 1 && !busy then
      let read := Fld.LANT_I2C_READ.get v == 1
      let data := if read then [] else bytesLE (d.rd (r0 .LANT_I2C_DATA)).toNat (Fld.LANT_I2C_COUNT.get v)
      d.emit (.i2c (Fld.LANT_I2C_SOCKET.get v) (Fld.LANT_I2C_REG.get v) read data)
    else d

/-- A transfer on the lantern bus ends. -/
def Dev.endI2c (d : Dev) (ack : Bool) (data : W32) : Dev :=
  let r := r0 .LANT_I2C
  let v := d.rd r
  let k := Fld.LANT_I2C_SOCKET.get v
  let a := Fld.LANT_I2C_REG.get v
  let n := Fld.LANT_I2C_COUNT.get v
  let old := (d.rd (r0 .LANT_I2C_DATA)).toNat
  let d := (d.setF r Fld.LANT_I2C_GO 0).setF r Fld.LANT_I2C_NACK (boolNat !ack)
  if !ack then (d.inc (r0 .LANT_ERR) Fld.LANT_ERR_I2C_NACK).when (d.modSt k).inUse fun d => d.dropModule k
  else if Fld.LANT_I2C_READ.get v = 1 then
    d.wr (r0 .LANT_I2C_DATA) (BitVec.ofNat 32 (data.toNat % 2 ^ (8 * n) + old / 2 ^ (8 * n) * 2 ^ (8 * n)))
  else if a ≤ 0x7F ∧ 0x7F < a + n then d.updMod k fun m => { m with page := old / 2 ^ (8 * (0x7F - a)) % 256 }
  else d

/-- A transfer ends: GO clears, NACK records whether it was acknowledged; a read fills DATA. -/
def execI2cDone (ack : Bool) (data : W32) (s : State) : Out :=
  onUnit true s fun d =>
    let r := r0 .LANT_I2C
    d.when (d.flag r Fld.LANT_I2C_GO) fun d => d.endI2c ack data

/-- Software has switched the feed of a lane's group (R247): the lane is out of its links until it passes its pattern check. -/
def Dev.feedSwitched (d : Dev) (n g : Nat) : Dev :=
  (groupEnds g).foldl (fun d e => d.when (d.lane e.1 e.2).trained fun d => d.startCheck e.1 e.2 n) (d.groupOut n g)

/-- What the LANT block and the rings do by themselves at a beat edge. -/
def Dev.edgeOptics (d : Dev) : Dev := (List.range 8).foldl Dev.heldRequest (d.edgeRehops.edgeSwitches)

/-- A write in the LANT block. -/
def Dev.writeLant (d : Dev) (r : Reg) (v : W32) : Dev :=
  let bad : Bool := match r.name with
    | .LANT_CTRL => Fld.LANT_CTRL_I2C_SPEED.get v == 3
    | .LANT_APC => !within 20 100 (Fld.LANT_APC_MARGIN_TGT.get v) || !within 1 50 (Fld.LANT_APC_APC_STEP.get v)
    | .LANT_THRESH =>
      let w := Fld.LANT_THRESH_WATCH_BIAS.get v
      !within 50 99 w || !within w 100 (Fld.LANT_THRESH_REPLACE_BIAS.get v) ||
        decide (Fld.LANT_THRESH_WATCH_MARGIN.get v < Fld.LANT_THRESH_REPLACE_MARGIN.get v)
    | .FEED_SEL =>
      let src := Fld.FEED_SEL_SRC.get v
      !(src == r.j || within 24 27 src) ||
        (decide (24 ≤ src) && (List.range 24).any fun g => g != r.j && d.getF (r2 .FEED_SEL r.i g) Fld.FEED_SEL_SRC == src)
    | _ => false
  if bad then d.lantReject
  else match r.name with
    | .LANT_I2C => d.writeI2c v
    | .FEED_SEL =>
      let d' := d.store r v
      if d'.getF r Fld.FEED_SEL_SRC = d.getF r Fld.FEED_SEL_SRC then d' else d'.feedSwitched r.i r.j
    | .MOD_CTRL => if Fld.MOD_CTRL_RELEASE.get v = 1 then d.releaseModule r.i else d
    | _ => d.store r v

/-! ## LANE registers -/

/-- A write in the LANE block: a mask change is applied by LANE_MAP. -/
def Dev.writeLane (d : Dev) (r : Reg) (v : W32) : Dev :=
  let bad : Bool := match r.name with
    | .LANE_THRESH =>
      decide (200 < Fld.LANE_THRESH_REHOP_LO.get v) || !within 600 800 (Fld.LANE_THRESH_REHOP_HI.get v) ||
        !within 2 12 (Fld.LANE_THRESH_LOCK_WIN.get v)
    | .LANE_LINKDOWN => decide (v.toNat < 1000)
    | _ => false
  if bad then d.inc (r0 .LANE_ERR) Fld.LANE_ERR_REJ
  else
    let d := d.store r v
    if r.name = .WG_CTRL then d.remapWg r.i else d

/-- Lanes in service, as LANE_TOTAL shows them. -/
def Dev.lanesTotal (d : Dev) : Nat := sumNat ((List.range 1004).map fun i => popCount (d.lanesIn (i / 2) (i % 2)) 16)

end Sys2Proof.Machine
end

