-- ==== Sys2Proof/Machine/Yard.lean ====
section
/-! DEFINITION. The yard (R257-R279, R288): codewords and messages as they arrive, channel training, membership, gates, scheduled streams,
and the registers of the YARD block. -/

namespace Sys2Proof.Machine

/-! ## Leaving and joining (R269-R273) -/

/-- The gates train a link from the start. -/
def Dev.trainYlink (d : Dev) (l : Nat) : Dev :=
  let lit := d.litOn l
  let beat := d.beat
  if d.ylinkOn l then (d.updYlink l fun k => k.train lit beat).refreshYlink l else d.refreshYlink l

/-- The package stands by itself in YARD_MEMBERS. -/
def Dev.membersSelf (d : Dev) : Dev := d.setF (r0 .YARD_STATUS) Fld.YARD_STATUS_MEMBERS (2 ^ d.self)

/-- A package that is to join is JOINING, the only member of its yard so far, and its gates train their links (Table 08-5, step 1). -/
def Dev.yardStart (d : Dev) : Dev :=
  if d.flag (r0 .YARD_CTRL) Fld.YARD_CTRL_JOIN_EN then
    let y := d.yard
    let d := { (d.setYardState 1).membersSelf with yard := { y with since := some d.beat } }
    (List.range 32).foldl Dev.trainYlink d
  else d

/-- Forgets what a member announced. -/
def YardSt.forget (y : YardSt) (m : Nat) : YardSt :=
  { y with
    joins := y.joins.set (fun _ => none) m none
    heard := y.heard.set (fun _ => none) m none }

/-- A member leaves (R272): its bit, operations in flight to it, its ledger entries and watermarks, a new generation. Operations that have
left their barn end with DENIED; their packets, and those still on their way, are discarded where they come next (R40). No packet holds a
credit of its ports any more. -/
def Dev.memberLeaves (d : Dev) (m : Nat) : Dev :=
  let names (p : Packet) : Bool := !isReply p && pType p != tyMCAST && addrMember (pAddr p) == m
  let onLink (f : Flight) : Bool := match f.place with
    | .ylink l => (if pType f.pkt = tyMCAST then d.ylinkStatus l Fld.YLINK_STATUS_PEER_MEMBER else homeMember (inner f.pkt)) == m
    | _ => false
  let d := d.setMember m false
  let d := { d with
    net := d.net.filter fun f => !onLink f
    credits := d.credits.filter fun e => e.1 / 32 % 16 != m }
  let d := (List.range 8).foldl (fun d p =>
    let hit := (d.port p).tags.filter fun t => names t.req
    let d := d.updPort p fun s => { s with tags := s.tags.filter fun t => !names t.req }
    hit.foldl (fun d t => d.answerTag p t stDenied) d) d
  let d := [28, 29, 30, 31].foldl (fun d p => d.updPort p fun s => { s with tags := s.tags.filter fun t => !names t.req }) d
  let d := (List.range 28).foldl (fun d p => d.updPort p fun s => { s with
    ledger := s.ledger.filter fun e => pSrcMember e.req != m
    water := s.water.filter fun c => c.1 / 2 ^ 13 != m }) d
  Dev.newShape { d with yard := d.yard.forget m }

/-- The package leaves: LEAVE to every peer, and every other member is as gone (R272). -/
def Dev.leaveYard (d : Dev) : Dev :=
  let others := (List.range 16).filter fun m => m != d.self && bitOf d.members m
  let d := d.peersUp.foldl (fun d m => d.tellMember m (mkMsg [(0, 10), (8, d.self)])) d
  others.foldl Dev.memberLeaves d

/-- The peers seen by IDENT. -/
def Dev.peers (d : Dev) : List Peer := (List.range 32).filterMap fun l => (d.ylink l).peer

/-- Step 2: a JOINING package arms the load with NEXT_SYNC of the lowest-numbered peer that is SYNCED or MEMBER. -/
def Dev.joinArm (d : Dev) : Dev :=
  if d.yardState = 1 then
    match sortBy (fun p q => decide (p.member ≤ q.member)) (d.peers.filter fun p => decide (1 ≤ p.state)) with
    | p :: _ => d.armLoad (p.nextSync * 2 ^ 20)
    | [] => d
  else d

/-- Whether the package's yard is the one to leave after a split (R273). -/
def Dev.weLeave (d : Dev) (p : Peer) : Bool :=
  let ours := popCount d.members 16
  let low (l : List Nat) : Nat := l.foldl min 16
  let theirs := (d.peers.filter fun q => decide (1 ≤ q.state) && q.nextSync == p.nextSync).map Peer.member
  let own := (List.range 16).filter (bitOf d.members)
  decide (ours < p.count) || (ours == p.count && decide (low (p.member :: theirs) < low own))

/-- The smaller of two split yards leaves and joins the other (R273). -/
def Dev.split (d : Dev) (p : Peer) : Dev :=
  if decide (2 ≤ d.yardState) && decide (1 ≤ p.state) && p.nextSync != d.nextSync && d.weLeave p then
    let d := ((d.leaveYard).inc (r0 .YARD_ERR) Fld.YARD_ERR_SPLIT).raise 118
    let y := d.yard
    Dev.joinArm { d.setYardState 1 with yard := { y with since := some d.beat } }
  else d

/-! ## Messages -/

/-- IDENT (R266): the link is held down on a mismatch; else its peer is known. -/
def Dev.ident (d : Dev) (l : Nat) (m : W128) : Dev :=
  let p : Peer := {
    member := msgBits m 43 40
    link := msgBits m 48 44
    state := msgBits m 50 49
    count := msgBits m 55 51
    nextSync := msgBits m 99 56
    tag := msgBits m 127 100 }
  let held := d.ylinkHeld l
  if msgBits m 39 8 ≠ (d.rd (r0 .YARD_ID)).toNat ∨ p.member = d.self ∨ d.identClash l p then
    let d := d.updYlink l fun k => { k with peer := none }
    if held then d
    else ((d.setYlinkStatus l Fld.YLINK_STATUS_STATE 3).inc (r0 .YARD_ERR) Fld.YARD_ERR_IDENT).raise (86 + l)
  else
    let d := d.updYlink l fun k => { k with peer := some p }
    let d := (d.setYlinkStatus l Fld.YLINK_STATUS_PEER_MEMBER p.member).setYlinkStatus l Fld.YLINK_STATUS_PEER_LINK p.link
    let d := ((if held then d.setYlinkStatus l Fld.YLINK_STATUS_STATE 1 else d).refreshYlink l).firstLinks p.member
    (d.joinArm).split p

/-- The far end of a link reports whether it is in holdover; once it no longer is, streams are scheduled again from the next frame boundary
(R279). -/
def Dev.peerHoldover (d : Dev) (l hold : Nat) : Dev :=
  let was := d.ylinkStatus l Fld.YLINK_STATUS_PEER_HOLDOVER
  let next := (d.beat / 128 + 1) * 128
  let d := d.setYlinkStatus l Fld.YLINK_STATUS_PEER_HOLDOVER hold
  d.when (was == 1 && hold == 0) fun d => d.updYlink l fun k => { k with streamsFrom := next }

/-- HEARTBEAT (R271): PEER[m], LINKS_TO, the holdover flag and the beat of sending. -/
def Dev.heartbeat (d : Dev) (m : W128) : Dev :=
  let n := msgBits m 11 8
  if n = d.self then d
  else
    let st := r1 .PEER_STATUS n
    let hold := msgBits m 43 43
    let y := d.yard
    let new := (msgBits m 19 12, msgBits m 39 20, msgBits m 42 40)
    let old := d.peerShape.get (fun _ => (0, 0, 0)) n
    let d := { d with
      yard := { y with heard := y.heard.set (fun _ => none) n (some d.beat) }
      peerShape := d.peerShape.set (fun _ => (0, 0, 0)) n new }
    let d := (d.setF st Fld.PEER_STATUS_HOLDOVER hold).setF st Fld.PEER_STATUS_LINKS_TO (msgBits m 59 44)
    let d := d.setPair (r1 .PEER_HB_LO n) (r1 .PEER_HB_HI n) (msgBits m 127 64)
    let d := (d.linksTo n).foldl (fun d l => d.peerHoldover l hold) d
    if old ≠ new ∧ bitOf d.members n then d.newShape else d

/-- JOIN: a member announces its JOIN_BEAT (R270). -/
def Dev.join (d : Dev) (m : W128) : Dev :=
  let y := d.yard
  { d with yard := { y with joins := y.joins.set (fun _ => none) (msgBits m 11 8) (some (msgBits m 55 12 * 2 ^ 20)) } }

/-- LEAVE: its member is gone (R272). -/
def Dev.leaveMsg (d : Dev) (m : W128) : Dev :=
  let n := msgBits m 11 8
  if n ≠ d.self ∧ bitOf d.members n then d.memberLeaves n else d

/-- What a control message does on a link; one that Table 08-1 does not allow is ignored and counted (R262). On a link that is held down
only the link's own messages act (R266). -/
def Dev.yardMsg (d : Dev) (l : Nat) (m : W128) : Dev :=
  if !msgGood m then d.inc (r1 .YLINK_STATUS l) Fld.YLINK_STATUS_BAD_CTL
  else if d.ylinkHeld l && decide (7 < msgBits m 7 0) then d
  else match msgBits m 7 0 with
    | 1 => d.yardAck l m
    | 2 => d.yardNack l m
    | 3 => d.yardCreditIn l m
    | 4 => d.chMap l m
    | 5 => d.chMapAck l m
    | 6 => d.chReq l m
    | 7 => d.ident l m
    | 8 => d.heartbeat m
    | 9 => d.join m
    | 10 => d.leaveMsg m
    | 11 => d.yardNotice l m
    | 12 => d.drainReq l m
    | 13 => d.drained m
    | _ => d

/-- A command that brings one message of a type on link l. -/
def yardRow (ty l : Nat) (m : W128) (s : State) : Out :=
  onUnit (decide (l < 32)) s fun d => d.when (msgBits m 7 0 == ty && d.ylinkOn l && !d.inReset (gateOf l)) fun d => d.yardMsg l m

def execYardAck (l : Nat) (msg : W128) (s : State) : Out := yardRow 1 l msg s
def execYardNack (l : Nat) (msg : W128) (s : State) : Out := yardRow 2 l msg s
def execYardCredit (l : Nat) (msg : W128) (s : State) : Out := yardRow 3 l msg s
def execChMap (l : Nat) (msg : W128) (s : State) : Out := yardRow 4 l msg s
def execChMapAck (l : Nat) (msg : W128) (s : State) : Out := yardRow 5 l msg s
def execChReq (l : Nat) (msg : W128) (s : State) : Out := yardRow 6 l msg s
def execIdent (l : Nat) (msg : W128) (s : State) : Out := yardRow 7 l msg s
def execHeartbeat (l : Nat) (msg : W128) (s : State) : Out := yardRow 8 l msg s
def execJoin (l : Nat) (msg : W128) (s : State) : Out := yardRow 9 l msg s
def execLeave (l : Nat) (msg : W128) (s : State) : Out := yardRow 10 l msg s
def execDrainReq (l : Nat) (msg : W128) (s : State) : Out := yardRow 12 l msg s
def execDrained (l : Nat) (msg : W128) (s : State) : Out := yardRow 13 l msg s

/-- A RESET_NOTICE reaches port router p: over yard link l at a gate, through the base (l = 32) at any router. -/
def execResetNotice (p l : Nat) (msg : W128) (s : State) : Out :=
  onUnit (decide (p < 32) && decide (l ≤ 32)) s fun d =>
    d.when (msgBits msg 7 0 == 11 && !d.inReset p) fun d =>
      if msgGood msg then (if l < 32 ∧ gateOf l = p then (if d.ylinkHeld l then d else d.yardNotice l msg) else d.resetNotice p msg)
      else if l < 32 then d.inc (r1 .YLINK_STATUS l) Fld.YLINK_STATUS_BAD_CTL else d

/-! ## Codewords (R258, R259) -/

/-- A relayed HEARTBEAT: a FORWARD of SIGNAL with a 16-byte payload, TARGET and OFFSET zero (R271). -/
def isRelayedHeart (p : Packet) : Bool :=
  pType p == tyFORWARD && pFwdType p == tySIGNAL && p.data.length == 16 && pAddr p % 2 ^ 56 == 0

/-- A whole packet has come over yard link l: a FORWARD for this member is unwrapped, and keeps its place in the pool of VN2; a request for
it is checked by the gate, a reply and a packet to be relayed go on. A link that is held down brings none (R266). -/
def Dev.fromYard (d : Dev) (l : Nat) (p : Packet) : Dev :=
  let on := Place.port (gateOf l) (32 + l % 8)
  let mine := homeMember (inner p) == d.self
  if d.ylinkHeld l then d
  else if pType p = tyFORWARD ∧ !mine then d.send on p
  else if isRelayedHeart p then (d.yardCredit l p).heartbeat (BitVec.ofNat 128 (fieldLE p.data 0 16))
  else
    let q := if pType p = tyFORWARD then pSet (unwrapForward p) 28 19 0 else p
    let d := if pType p = tyFORWARD then d.updYlink l fun k => { k with asForward := k.asForward ++ [q] } else d
    if isReply q then d.send on q else d.send (.gate l) q

/-- The flits of an accepted codeword, in order. -/
def Dev.yardFlits (d : Dev) (l : Nat) (fs : List Flit) : Dev :=
  fs.foldl (fun d f => match f with
    | .control msgs => msgs.foldl (fun d m => d.yardMsg l m) d
    | _ =>
      let r := takeFlit (d.ylink l).part f
      let d := d.updYlink l fun k => { k with part := r.2 }
      match r.1 with
      | some p => d.fromYard l p
      | none => d) d

/-- A channel is dropped, and trains again (R260, R263). -/
def Dev.dropChannel (d : Dev) (l k : Nat) : Dev :=
  let beat := d.beat
  let d := d.updYlink l fun y => { y.train (2 ^ k) beat with
    good := setBitNat y.good k false
    fails := y.fails.set (fun _ => []) k []
    bad := y.bad.set (fun _ => 0) k 0 }
  (d.inc (r1 .YLINK_CH_DROP l) Fld.YLINK_CH_DROP_CNT).askChannels l

/-- A codeword on channel k fails: it is counted and asked for again. -/
def Dev.failCodeword (d : Dev) (l k : Nat) : Dev :=
  let beat := d.beat
  let want := (d.ylink l).expect
  let d := d.updYlink l fun y => { y with nacked := true, fails := y.fails.upd (fun _ => []) k fun t => recent t beat }
  (d.inc (r1 .YLINK_FEC_UNCORR l) Fld.YLINK_FEC_UNCORR_CNT).sendYard l (mkMsg [(0, 2), (8, want)])

/-- A codeword that RS decoding could not correct: eight in a row on a channel mean that its alignment is lost (R260). -/
def Dev.lostCodeword (d : Dev) (l k : Nat) : Dev :=
  let d := (d.failCodeword l k).updYlink l fun y => { y with bad := y.bad.upd (fun _ => 0) k (· + 1) }
  d.when (decide (8 ≤ (d.ylink l).bad.get (fun _ => 0) k) && bitOf (d.ylink l).good k) fun d => d.dropChannel l k

/-- The codeword expected is accepted and acknowledged. -/
def Dev.takeCodeword (d : Dev) (l : Nat) (flits : List Flit) : Dev :=
  let cseq := (d.ylink l).expect
  let d := d.updYlink l fun y => { y with expect := (y.expect + 1) % 4096, nacked := false }
  ((d.sendYard l (mkMsg [(0, 1), (8, cseq)])).applyChMap l).yardFlits l flits

/-- A codeword of data bits w arrives: with a reserved header bit set it fails; with another CSEQ than the one expected it fails too, or
is discarded where that one has been asked for already (R259). -/
def Dev.goodCodeword (d : Dev) (l k w corr : Nat) (flits : List Flit) : Dev :=
  let y := d.ylink l
  let d := (d.addF (r1 .YLINK_FEC_CORR l) Fld.YLINK_FEC_CORR_CNT corr).updYlink l fun y => { y with bad := y.bad.set (fun _ => 0) k 0 }
  if bitsOf w 19 17 ≠ 0 then d.failCodeword l k
  else if w % 4096 = y.expect then d.takeCodeword l flits
  else if y.nacked then d
  else d.failCodeword l k

/-- A codeword arrives on channel k as 2,720 levels, decoded and descrambled (R258-R260). -/
def Dev.codeword (d : Dev) (l k : Nat) (levels : List Nat) (flits : List Flit) : Dev :=
  let (got, st) := codewordData ((d.ylink l).descr.get (fun _ => 0) k) levels
  let d := d.updYlink l fun y => { y with descr := y.descr.set (fun _ => 0) k st }
  match got with
  | some (w, corr) => d.goodCodeword l k w corr flits
  | none => d.lostCodeword l k

/-- Whether levels are those of a codeword of flits, as far as it can be decoded. -/
def Dev.levelsAre (d : Dev) (l k : Nat) (levels : List Nat) (flits : List Flit) : Bool :=
  (codewordData ((d.ylink l).descr.get (fun _ => 0) k) levels).1.all fun c => flitsAre c.1 flits

def okChannel (l k : Nat) : Bool := decide (l < 32) && decide (k < 8)

/-- Levels arrive on a trained channel as the codeword that they stand for. -/
def execCodewordReceive (l k : Nat) (levels : List Nat) (flits : List Flit) (s : State) : Out :=
  onUnit (okChannel l k) s fun d =>
    d.when (d.ylinkOn l && !d.inReset (gateOf l) && bitOf (d.ylink l).good k && d.levelsAre l k levels flits) fun d =>
      d.codeword l k levels flits

/-! ## Channels (R261, R263) -/

/-- The training of a channel ends, and is reported in CH_REQ. -/
def Dev.trainChannel (d : Dev) (l k : Nat) (passed : Bool) : Dev :=
  let beat := d.beat
  let d := d.updYlink l fun y => { y with
    training := y.training.set (fun _ => none) k none
    good := setBitNat y.good k passed
    descr := y.descr.set (fun _ => 0) k 0
    retry := y.retry.set (fun _ => none) k (if passed then none else some beat) }
  let d := (if passed then d.setYlinkStatus l Fld.YLINK_STATUS_FAILED 0 else d).askChannels l
  (d.when ((d.ylink l).trainMask == 0) fun d => d.setF (r1 .YLINK_CTRL l) Fld.YLINK_CTRL_RETRAIN 0).refreshYlink l

/-- The training of a channel's receiver ends, 4,000 beats after it began: it passes where the marker was found in two frames and at most 4
bits of PRBS31 were wrong; a failed attempt is retried. RETRAIN clears with the last. -/
def execChannelTrain (l k : Nat) (found : Bool) (errors : Nat) (s : State) : Out :=
  onUnit (okChannel l k) s fun d =>
    match (d.ylink l).training.get (fun _ => none) k with
    | some t => d.when (decide (t + 4000 ≤ d.beat)) fun d => d.trainChannel l k (found && decide (errors ≤ 4))
    | none => d

/-- Whether a channel has failed 16 codewords within 100,000 beats. -/
def Dev.failsOften (d : Dev) (l k : Nat) : Bool :=
  decide (16 ≤ (((d.ylink l).fails.get (fun _ => []) k).filter fun t => d.beat ≤ t + 100000).length)

/-- A channel with 16 failed codewords in 100,000 beats, or whose receiver has lost its light, is dropped. -/
def execChannelDrop (l k : Nat) (dark : Bool) (s : State) : Out :=
  onUnit (okChannel l k) s fun d =>
    d.when (bitOf (d.ylink l).good k && (dark || d.failsOften l k)) fun d => d.dropChannel l k

/-- 100,000 beats after a failed attempt a channel trains again. -/
def execChannelRetry (l k : Nat) (s : State) : Out :=
  onUnit (okChannel l k) s fun d =>
    match (d.ylink l).retry.get (fun _ => none) k with
    | none => d
    | some t =>
      let beat := d.beat
      d.when (decide (t + 100000 ≤ d.beat) && d.ylinkOn l) fun d => (d.updYlink l fun y => y.train (2 ^ k) beat).refreshYlink l

/-- A link with no channel for LINK_DOWN_MAX beats is failed (R263). -/
def execYlinkFail (l : Nat) (s : State) : Out :=
  onUnit (decide (l < 32)) s fun d =>
    match (d.ylink l).zeroSince with
    | none => d
    | some t =>
      d.when (decide (t + (d.rd (r0 .LANE_LINKDOWN)).toNat ≤ d.beat) && d.ylinkStatus l Fld.YLINK_STATUS_FAILED == 0) fun d =>
        ((d.setYlinkStatus l Fld.YLINK_STATUS_FAILED 1).refreshYlink l).raise (86 + l)

/-- RETRAIN: every channel is dropped and trains again. -/
def Dev.retrainYlink (d : Dev) (l : Nat) : Dev :=
  let n := popCount (d.ylink l).mask 8
  let lit := d.litOn l
  let beat := d.beat
  let d := d.setF (r1 .YLINK_CTRL l) Fld.YLINK_CTRL_RETRAIN 1
  let d := d.updYlink l fun y => { y.train lit beat with asked := 0, good := 0 }
  (((d.addF (r1 .YLINK_CH_DROP l) Fld.YLINK_CH_DROP_CNT n).askChannels l).remapYlink l).refreshYlink l

/-! ## Sending IDENT and HEARTBEAT; joining; losing a member -/

/-- Whether an interval has passed since a beat, or never began. -/
def lapsed (last : Option Nat) (n beat : Nat) : Bool := match last with | some t => decide (t + n ≤ beat) | none => true

/-- An IDENT goes out on every link whose peer is not known. -/
def Dev.sendIdents (d : Dev) : Dev :=
  let d := (List.range 32).foldl (fun d l =>
    let known := match (d.ylink l).peer with | some p => p.state == 2 | none => false
    if (d.ylink l).mask ≠ 0 ∧ !known then d.sendYard l (d.identMsg l) else d) d
  let y := d.yard
  { d with yard := { y with lastIdent := some d.beat } }

/-- Every 1,000 beats: IDENT on each link whose peer is not yet a MEMBER. -/
def execIdentSend (s : State) : Out :=
  onUnit true s fun d =>
    d.when (decide (1 ≤ d.yardState) && lapsed d.yard.lastIdent 1000 d.beat) fun d => d.sendIdents

/-- A HEARTBEAT for a member with no link up, as a FORWARD packet (R271). -/
def Dev.relayedHeart (d : Dev) (m : Nat) : Packet :=
  wrapForward { hdr := BitVec.ofNat 256 (tySIGNAL + 3 * 2 ^ 4 + 16 * 2 ^ 8 + m * 2 ^ 120 + d.self * 2 ^ 156),
                data := bytesLE (d.heartMsg).toNat 16 } 0

/-- Whether a link's far end is sent HEARTBEATs: a MEMBER, or a package whose join has been announced, which at its JOIN_BEAT takes in
every peer from which it has one (Table 08-5, step 5; DEDUCED, log 141). -/
def Dev.wantsHeart (d : Dev) (l : Nat) : Bool :=
  match (d.ylink l).peer with
  | some p => p.state == 2 || d.knows p.member
  | none => false

/-- A relayed HEARTBEAT goes onto the link to its relay, or waits for it at the gate. -/
def Dev.relayHeart (d : Dev) (m : Nat) : Dev :=
  let p := d.relayedHeart m
  match (d.relayFor m).bind fun r => d.linkFor r p with
  | some l => (d.ontoYard l p).getD (d.send (.ylink l) p)
  | none => d

/-- A HEARTBEAT goes out on every link to a member, and is relayed. -/
def Dev.sendHeartbeats (d : Dev) : Dev :=
  let d := ((List.range 32).filter fun l => d.ylinkUp l && d.wantsHeart l).foldl (fun d l => d.sendYard l d.heartMsg) d
  let far := (List.range 16).filter fun m => m != d.self && d.knows m && d.relayed m
  let d := far.foldl Dev.relayHeart d
  let y := d.yard
  { d with yard := { y with lastHeart := some d.beat } }

/-- Every HB_PERIOD beats: HEARTBEAT on every link that is up, and by relay to a member with none. -/
def execHeartbeatSend (s : State) : Out :=
  onUnit true s fun d =>
    d.when (d.hasMaster && decide (2 ≤ d.yardState) && lapsed d.yard.lastHeart (d.getF (r0 .YARD_HB) Fld.YARD_HB_HB_PERIOD) d.beat) fun d => d.sendHeartbeats

/-- After JOIN_WAIT with no SYNCED or MEMBER peer, and no JOINING peer of a lower number, the package arms its own load. -/
def execJoinWaitExpire (s : State) : Out :=
  onUnit true s fun d =>
    match d.yard.since with
    | none => d
    | some t =>
      let first := d.peers.all fun p => p.state == 0 && decide (d.self < p.member)
      d.when (d.yardState == 1 && decide (t + (d.rd (r0 .YARD_JOIN)).toNat ≤ d.beat) && first) fun d => d.armLoad (d.nextSync * 2 ^ 20)

/-- A member's join takes effect: this member is IN, with every member it has heard from. -/
def Dev.joinSelf (d : Dev) (m : Nat) : Dev :=
  let y := d.yard
  let known := (List.range 16).filter fun k => k == m || (y.heard.get (fun _ => none) k).isSome
  Dev.newShape { known.foldl (fun d k => d.setMember k true) (d.setYardState 3) with
                 yard := { y with joins := y.joins.set (fun _ => none) m none } }

/-- Another member's join takes effect here; one not heard yet has HB_LOSS beats from now on (R272). -/
def Dev.joinOther (d : Dev) (m : Nat) : Dev :=
  let y := d.yard
  let heard := some (((y.heard.get (fun _ => none) m)).getD d.beat)
  Dev.newShape { d.setMember m true with
    yard := { y with joins := y.joins.set (fun _ => none) m none, heard := y.heard.set (fun _ => none) m heard } }

/-- At a JOIN_BEAT: a MEMBER takes the joining package in; the package itself becomes a MEMBER. -/
def execJoinBeat (m : Nat) (s : State) : Out :=
  onUnit (decide (m < 16)) s fun d =>
    match d.yard.joins.get (fun _ => none) m with
    | none => d
    | some jb =>
      if m = d.self then d.when (decide (jb ≤ d.beat) && d.yardState == 2) fun d => d.joinSelf m
      else d.when (decide (jb ≤ d.beat) && d.yardState == 3) fun d => d.joinOther m

/-- No HEARTBEAT from a member for HB_LOSS beats (R272). -/
def execMemberLoss (m : Nat) (s : State) : Out :=
  onUnit (decide (m < 16)) s fun d =>
    let t := (d.yard.heard.get (fun _ => none) m).getD 0
    d.when (m != d.self && bitOf d.members m && decide (t + d.getF (r0 .YARD_HB) Fld.YARD_HB_HB_LOSS * 1000 ≤ d.beat)) fun d =>
      d.memberLeaves m

/-! ## Gates (R276, R278) -/

/-- Whether a gate refuses a request of another member: its stack's bit is 0, or its barn is out of service. -/
def Dev.gateRefuses (d : Dev) (p : Packet) : Bool :=
  let t := addrTarget (pAddr p)
  (decide (t < 8) && !bitOf d.barnsIn t) ||
  (decide (8 ≤ t) && decide (t < 28) && !bitOf (d.getF (r0 .GATE_STACK_SVC) Fld.GATE_STACK_SVC_SVC) (t - 8))

/-- A request that came over a link goes on, or is refused. -/
def Dev.gateTake (d : Dev) (l : Nat) (pkt : Packet) : Dev :=
  let d := d.take (.gate l) pkt
  if d.gateRefuses pkt then
    let d := (d.yardCredit l pkt).inc (r0 .GATE_STACK_SVC) Fld.GATE_STACK_SVC_DENIED
    (if awaitsReply pkt then d.send (.port (gateOf l) (gateOf l)) (mkReply pkt stDenied [] []) else d).answerDrains
  else d.send (.port (gateOf l) (32 + l % 8)) pkt

/-- A gate checks a request that came over link l for this member: refused and counted, or on to its target. -/
def execGateRequest (l : Nat) (pkt : Packet) (s : State) : Out :=
  onUnit (decide (l < 32)) s fun d =>
    d.when (!isReply pkt && !d.inReset (gateOf l)) fun d => d.gateTake l pkt

/-- The first packet of a slot's stream that waits for a link is sent, one in a slot. -/
def Dev.sendStream (d : Dev) (l st : Nat) : Dev :=
  let beat := d.beat
  match d.net.find? fun f => f.place == .ylink l && pYstream f.pkt == st with
  | some f =>
    if d.ylinkCan l f.pkt then ((d.take (.ylink l) f.pkt).ylinkPut l f.pkt).updYlink l fun k => { k with slotAt := some beat } else d
  | none => d

/-- A reserved slot of a link begins: the first packet of its stream that waits is sent. -/
def execYstreamSlot (l slot : Nat) (s : State) : Out :=
  onUnit (decide (l < 32) && decide (slot < 64)) s fun d =>
    let st := d.slotStream l slot
    d.when (d.ysched && d.streamsRun l && d.beat % 128 == 2 * slot && st != 0 && (d.ylink l).slotAt != some d.beat) fun d =>
      d.sendStream l st

/-- A packet that waits at a gate for a link goes on: one of a stream whose schedule does not run (R279), and one that no schedule
concerns, as a bounded packet; where the link is no longer up, by the link that serves its member now (R268). -/
def Dev.edgeYlink (d : Dev) (l : Nat) (p : Packet) : Dev :=
  let rest := d.take (.ylink l) p
  if !d.ylinkUp l then
    match (d.linkFor (d.ylinkStatus l Fld.YLINK_STATUS_PEER_MEMBER) p).bind fun j => rest.toYard (gateOf l) j p with
    | some e => e
    | none => d
  else if (pYstream p != 0 && d.streamsRun l) || d.slotNear l || !d.ylinkCan l p then d
  else rest.ylinkPut l p

/-- What waits at the gates for the yard links goes on: packets, then control messages. -/
def Dev.edgeYard (d : Dev) : Dev :=
  let waits : List (Nat × Packet) := d.net.filterMap fun f => match f.place with | .ylink l => some (l, f.pkt) | _ => none
  (List.range 32).foldl Dev.flushYlink (waits.foldl (fun d c => d.edgeYlink c.1 c.2) d)

/-! ## YARD registers -/

/-- R288: the bounds that tie the retry timing to the ledger. -/
def timingBad (remoteTo lifetime retain retries : Nat) : Bool :=
  decide (remoteTo < 2 * lifetime) || decide (retain < (retries + 1) * remoteTo + lifetime)

/-- Whether a write of YARD_TIMING or YARD_LEDGER is out of bounds. -/
def Dev.yardTimingBad (d : Dev) (r : Reg) (v : W32) : Bool :=
  let tm := if r.name = .YARD_TIMING then v else d.rd (r0 .YARD_TIMING)
  let lg := if r.name = .YARD_LEDGER then v else d.rd (r0 .YARD_LEDGER)
  decide (Fld.YARD_TIMING_REMOTE_TO.get tm < 1000) || !within 1 32767 (Fld.YARD_TIMING_LIFETIME.get tm) ||
  !within 1 16 (Fld.YARD_LEDGER_SRC_CREDITS.get lg) ||
  timingBad (Fld.YARD_TIMING_REMOTE_TO.get tm) (Fld.YARD_TIMING_LIFETIME.get tm) (Fld.YARD_LEDGER_RETAIN.get lg)
    (Fld.YARD_LEDGER_RETRY_MAX.get lg)

/-- Whether a write in the YARD block is out of bounds. -/
def Dev.yardBounds (d : Dev) (r : Reg) (v : W32) : Bool :=
  match r.name with
  | .YARD_CTRL => d.yardState != 0 && Fld.YARD_CTRL_MEMBER.get v != d.getF r Fld.YARD_CTRL_MEMBER
  | .YARD_TIMING => d.yardTimingBad r v
  | .YARD_LEDGER => d.yardTimingBad r v
  | .YARD_HB =>
    decide (Fld.YARD_HB_HB_PERIOD.get v < 1000) || decide (Fld.YARD_HB_HB_LOSS.get v * 1000 < 2 * Fld.YARD_HB_HB_PERIOD.get v)
  | .MCAST_GROUP => d.flag r Fld.MCAST_GROUP_VALID && Fld.MCAST_GROUP_MASK.get v != d.getF r Fld.MCAST_GROUP_MASK
  | .YSCHED_CTRL =>
    Fld.YSCHED_CTRL_EN.get v == 1 && !d.flag r Fld.YSCHED_CTRL_EN &&
      decide (d.pair (r0 .YSCHED_START_LO) (r0 .YSCHED_START_HI) < d.beat + 1000)
  | .YSCHED => d.flag (r0 .YSCHED_CTRL) Fld.YSCHED_CTRL_EN
  | _ => false

/-- YARD_CTRL: LEAVE leaves the yard; JOIN_EN set in service starts the joining, cleared it stands the package alone, with SYNC_EN 0
(R269). -/
def Dev.writeYardCtrl (d : Dev) (v : W32) : Dev :=
  let r := r0 .YARD_CTRL
  let was := d.flag r Fld.YARD_CTRL_JOIN_EN
  let on := Fld.YARD_CTRL_JOIN_EN.get v == 1
  let d := if Fld.YARD_CTRL_LEAVE.get v = 1 || (was && !on) then ((d.leaveYard).setYardState 0).membersSelf else d
  let d := (d.setF r Fld.YARD_CTRL_JOIN_EN (boolNat on)).setF r Fld.YARD_CTRL_MEMBER (Fld.YARD_CTRL_MEMBER.get v)
  if on && !was && decide (3 ≤ d.phase) then d.yardStart
  else if was && !on then
    (List.range 32).foldl Dev.refreshYlink ((d.setF (r0 .YARD_STATUS) Fld.YARD_STATUS_MEMBERS 1).setF (r0 .BEAT_CTRL) Fld.BEAT_CTRL_SYNC_EN 0)
  else d

/-- YLINK_CTRL: ENABLE and MASK, applied by CH_MAP, and RETRAIN. -/
def Dev.writeYlinkCtrl (d : Dev) (l : Nat) (v : W32) : Dev :=
  let r := r1 .YLINK_CTRL l
  let was := d.flag r Fld.YLINK_CTRL_ENABLE
  let on := Fld.YLINK_CTRL_ENABLE.get v == 1
  let d := (d.setF r Fld.YLINK_CTRL_ENABLE (boolNat on)).setF r Fld.YLINK_CTRL_MASK (Fld.YLINK_CTRL_MASK.get v)
  let d := if on && !was && decide (3 ≤ d.phase) then d.trainYlink l else d
  let d := if Fld.YLINK_CTRL_RETRAIN.get v = 1 then d.retrainYlink l else d
  (d.remapYlink l).refreshYlink l

/-- YSCHED_CTRL: EN 0 takes effect at the next frame boundary. -/
def Dev.writeYschedCtrl (d : Dev) (v : W32) : Dev :=
  let r := r0 .YSCHED_CTRL
  let y := d.yard
  let off := if Fld.YSCHED_CTRL_EN.get v = 0 ∧ d.flag r Fld.YSCHED_CTRL_EN then some ((d.beat / 128 + 1) * 128) else none
  { d.store r v with yard := { y with schedEnd := off } }

/-- A write in the YARD block (R288 and the rules of its registers). -/
def Dev.writeYard (d : Dev) (r : Reg) (v : W32) : Dev :=
  match firstReject false (r.name == .YSCHED_START_LO && v.toNat % 128 != 0) (d.yardBounds r v) with
  | some .malformed => d.inc (r0 .YARD_ERR) Fld.YARD_ERR_MALFORMED
  | some _ => d.inc (r0 .YARD_ERR) Fld.YARD_ERR_BOUNDS
  | none => match r.name with
    | .YARD_CTRL => d.writeYardCtrl v
    | .YLINK_CTRL => d.writeYlinkCtrl r.i v
    | .YSCHED_CTRL => d.writeYschedCtrl v
    | _ => d.store r v

/-- PEER_STATUS as it reads. -/
def Dev.peerWord (d : Dev) (m : Nat) : W32 :=
  let w := d.rd (r1 .PEER_STATUS m)
  let w := Fld.PEER_STATUS_PRESENT.put w (boolNat (bitOf d.members m))
  let w := Fld.PEER_STATUS_DIRECT.put w (boolNat !(d.linksTo m).isEmpty)
  let w := Fld.PEER_STATUS_RELAYED.put w (boolNat (d.relayed m))
  Fld.PEER_STATUS_RELAY.put w (if d.relayed m then (d.relayFor m).getD 0 else 0)

/-- PORT_STATUS as it reads: tags and ledger entries. -/
def Dev.portStatusWord (d : Dev) (p : Nat) : W32 :=
  Fld.PORT_STATUS_LEDGER.put (Fld.PORT_STATUS_TAGS.put (d.rd (r1 .PORT_STATUS p)) (d.port p).tags.length) (d.port p).ledger.length

end Sys2Proof.Machine
end

