-- ==== Sys2Proof/Machine/Start.lean ====
section
/-! DEFINITION. Start and trust (R383-R414, R467-R469, R476): the phases, secure boot, the test of barns, the Tack room and the
TAP. Configuration records and the entry of barns stand where the bus and the service are known. -/

namespace Sys2Proof.Machine

/-! ## Phases (R383) -/

def Dev.tackFlag (d : Dev) (f : Field) : Bool := d.flag (r0 .TACK_STATUS) f
def Dev.setTack (d : Dev) (f : Field) (v : Nat) : Dev := d.setF (r0 .TACK_STATUS) f v
def Dev.updStart (d : Dev) (f : StartSt → StartSt) : Dev := { d with start := f d.start }

/-- A phase begins at this beat. -/
def Dev.setPhase (d : Dev) (p : Nat) : Dev :=
  (d.setTack Fld.TACK_STATUS_START_PHASE p).setPair (r1 .TACK_PHASE_BEAT_LO p) (r1 .TACK_PHASE_BEAT_HI p) d.beat

def Dev.phaseBeat (d : Dev) (p : Nat) : Nat := d.pair (r1 .TACK_PHASE_BEAT_LO p) (r1 .TACK_PHASE_BEAT_HI p)

/-- The rails that the board brings up: VHBM, VBASE, VPHOT, VAUX (R467). -/
def fixedRails : List Nat := (List.range 45).drop 24

/-- PKG_RESET_n rises, the rails that the board brings up being at their nominal voltages: phase 0 begins, and the PUF array is captured
(R384, R467). The flash devices stay in reset. -/
def execPkgResetRise (s : State) : Out :=
  onUnit true s fun d => d.when (!d.start.out) fun d =>
    (fixedRails.foldl (fun d r => d.setTarget r (nominalMv r)) d).updStart fun t => { t with out := true }

/-- The device as PKG_RESET_n leaves it: all state at its reset values, but the flash devices, ZEROISED, the modules seated, what has
been sent and the TAP. -/
def Dev.powerDown (d : Dev) : Dev :=
  let z := d.tackFlag Fld.TACK_STATUS_ZEROISED
  let d' : Dev := {
    mem := Sparse.slice d.mem 0x20000000 0x10000000
    fresh := d.fresh
    sent := d.sent
    start := { pufSpent := d.start.pufSpent, tap := d.start.tap } }
  let d' := d'.setTack Fld.TACK_STATUS_ZEROISED (boolNat z)
  let d' := d'.setTack Fld.TACK_STATUS_SCAN_OPEN (boolNat (d.tackFlag Fld.TACK_STATUS_SCAN_OPEN))
  (List.range 8).foldl (fun d' k =>
    d'.setF (r1 .MOD_STATUS k) Fld.MOD_STATUS_PRESENT (boolNat (d.modIs k Fld.MOD_STATUS_PRESENT))) d'

/-- PKG_RESET_n falls: every enable goes low, flash and I²C activity stops (R468). -/
def execPkgResetFall (s : State) : Out := onUnit true s fun d => d.when d.start.out Dev.powerDown

/-- VAUX falls below 1.62 V (R469); where it is removed, ZEROISED clears and the PUF array loses what overwrote it (R410, R468). -/
def execVauxLoss (removed : Bool) (s : State) : Out :=
  onUnit true s fun d =>
    let d := if d.start.out then d.powerDown else d
    if removed then (d.setTack Fld.TACK_STATUS_ZEROISED 0).updStart fun t => { t with pufSpent := false } else d

/-- The beat starts from 0, on YREF or in holdover. YREF has been watched for 100,000 holdover periods by then (R384), so the flash devices
have been held in reset for their 1 ms, and leave it (R474; DEDUCED, log 142). -/
def Dev.beginBeat (d : Dev) (qualified : Bool) : Dev :=
  let d := { d with beat := 0, counting := true }.updStart fun t => { t with flashReset := false }
  let d := if qualified then d.beatFlag Fld.BEAT_STATUS_REF_OK true
    else (d.beatFlag Fld.BEAT_STATUS_HOLDOVER true).setF (r0 .REF_LOSS_CNT) Fld.REF_LOSS_CNT_CNT 1
  d.setPhase 1

/-- YREF qualifies, or its 100 ms pass without, and the beat counter starts at zero (R43, R384); phase 1 begins. -/
def execYrefQualify (qualified : Bool) (s : State) : Out :=
  onUnit true s fun d =>
    d.when (d.start.out && !d.counting) fun d => d.beginBeat qualified

/-! ## Secure boot (R408-R410) -/

/-- The identity is derived. -/
def Dev.takeIdentity (d : Dev) (i : SlotImage) : Dev :=
  let d := (d.setTack Fld.TACK_STATUS_ID_READY 1).updStart fun t => { t with key := some (identityKey i) }
  (List.range 4).foldl (fun d k => d.wr (r1 .TACK_ID k) (BitVec.ofNat 32 (deviceId i / 2 ^ (32 * k)))) d

/-- A slot boots, its firmware in the first 2 MiB of Ringmaster SRAM: the firmware of both Ringmasters runs in step, A holding ACTIVE;
phase 2 begins. -/
def Dev.bootSlot (d : Dev) (slot : Nat) (i : SlotImage) (other : Bool) : Dev :=
  let d := (d.setTack Fld.TACK_STATUS_SLOT slot).setTack Fld.TACK_STATUS_OTHER_VALID (boolNat other)
  let d := d.setPair (r0 .TACK_IMAGE_SEQ_LO) (r0 .TACK_IMAGE_SEQ_HI) i.seq
  let d := d.wr (r0 .TACK_FW_VERSION) (BitVec.ofNat 32 i.fwVersion)
  let d := (((d.setActive 1).setStep true).setRmState 1 0).setRmState 2 0
  let d := (d.updRmSt fun r => { r with kicked := d.beat }).updStart fun t => { t with image := some i }
  (d.loadFirmware i).setPhase 2

/-- Phase 1 (R408): the slots in descending IMAGE_SEQ, slot 0 first on a tie; the first that passes boots, and OTHER_VALID tells of the
other. No valid image halts the package; a failed seed check fails every slot (R385, R410). -/
def Dev.secureBoot (d : Dev) (s0 s1 : SlotImage) : Dev :=
  let spent := d.start.pufSpent || d.tackFlag Fld.TACK_STATUS_ZEROISED
  let puf := seedFails s0 spent || seedFails s1 spent
  let v0 := if puf then 4 else slotResult s0 spent
  let v1 := if puf then 4 else slotResult s1 spent
  let d := (d.setTack Fld.TACK_STATUS_SLOT0_RESULT v0).setTack Fld.TACK_STATUS_SLOT1_RESULT v1
  let d := d.addF (r0 .TACK_ERR) Fld.TACK_ERR_FLASH (boolNat (!s0.sfdpOk) + boolNat (!s1.sfdpOk))
  let d := d.updStart fun t => { t with fields := s0.fields ++ s1.fields }
  let top := (s0.fields ++ s1.fields).foldl (fun m r => max m r.seq) 0
  let d := { d with cal := { d.cal with recordSeq := top, recordSlots := max s0.fieldSlots s1.fieldSlots } }
  let first1 := decide (s0.seq < s1.seq)
  let boots (v : Nat) : Bool := v == 0
  let known (v : Nat) : Bool := v == 0 || (decide (5 ≤ v) && decide (v ≤ 10))
  let d := if known v0 then d.takeIdentity s0 else if known v1 then d.takeIdentity s1 else d
  let keeps (other : SlotImage) (d : Dev) : Dev := d.updRmSt fun r => { r with staged := some other }
  if boots v1 && (first1 || !boots v0) then keeps s0 ((d.takeIdentity s1).bootSlot 1 s1 (boots v0))
  else if boots v0 then keeps s1 ((d.takeIdentity s0).bootSlot 0 s0 (boots v1))
  else (d.setTack Fld.TACK_STATUS_PUF_FAIL (boolNat puf)).setTack Fld.TACK_STATUS_BOOT_HALT 1

def execSecureBoot (s0 s1 : SlotImage) (s : State) : Out :=
  onUnit true s fun d =>
    d.when (d.phase == 1 && !d.tackFlag Fld.TACK_STATUS_BOOT_HALT) fun d => d.secureBoot s0 s1

/-! ## Phases 2-4 -/

/-- The field record that phase 2 applies (R402): the highest RECORD_SEQ of those that meet its conditions. -/
def Dev.fieldRecord (d : Dev) (i : SlotImage) : Option FieldRecord :=
  let ok (r : FieldRecord) : Bool := r.signedOk && r.device == deviceId i && r.hashOk &&
    (List.range 115).all fun k => calInRange k (nth r.pairs k ⟨0, 0⟩)
  (sortBy (fun a b => decide (b.seq ≤ a.seq)) (d.start.fields.filter ok)).head?

/-- Records completed and in all. -/
def Dev.recordAt (d : Dev) : Nat := d.getF (r0 .TACK_CONFIG) Fld.TACK_CONFIG_RECORDS_APPLIED
def Dev.records (d : Dev) : List CfgRecord := match d.start.image with | some i => i.records | none => []

/-- Phase 2 begins: the calibration block is taken, and a field record that fits. -/
def Dev.beginConfig (d : Dev) (i : SlotImage) : Dev :=
  let d := { d with cal := { d.cal with block := some i.cal }, factoryHash := i.calHash }
  let d := match d.fieldRecord i with
    | some r =>
      let d := { d with cal := { d.cal with before := r.pairs, now := r.pairs, since := d.beat } }
      ((d.setTack Fld.TACK_STATUS_FIELD_CAL 1).setPair (r0 .CAL_IN_FORCE_LO) (r0 .CAL_IN_FORCE_HI) d.beat).updStart fun t =>
        { t with fieldHash := r.sm3 }
    | none => d
  let d := d.updStart fun t => { t with begun := true }
  if i.records.isEmpty then d.setLevel 1 else d

/-- Phase 2 begins its work: the calibration block, and the field record over it (R382, R402). With no records it has ended. -/
def execConfigApply (s : State) : Out :=
  onUnit true s fun d =>
    match d.start.image with
    | none => d
    | some i =>
      d.when (d.phase == 2 && !d.start.begun) fun d => d.beginConfig i

/-- Whether phase 2 has ended. -/
def Dev.configured (d : Dev) : Bool :=
  d.start.begun && d.recordAt == d.records.length && !d.flag (r0 .TACK_CONFIG) Fld.TACK_CONFIG_CONFIG_FAIL

/-- Phase 3 begins. -/
def Dev.beginPhase3 (d : Dev) : Dev :=
  let d := d.setPhase 3
  let d := (List.range 8).foldl (fun d k =>
    if d.modIs k Fld.MOD_STATUS_PRESENT then d.updMod k fun _ => { insertedAt := some d.beat } else d) d
  d.yardStart

/-- Phase 3 begins: modules present are treated as newly seated (R255, R387), and the gates train their links. -/
def execPhase3Start (s : State) : Out :=
  onUnit true s fun d =>
    d.when (d.phase == 2 && d.configured) fun d => d.beginPhase3

/-- Whether every element of phase 3 is trained, retired or marked failed. -/
def Dev.trainedAll (d : Dev) : Bool :=
  ((List.range 20).all fun n => d.flag (r1 .HBM_STATUS n) Fld.HBM_STATUS_TRAINED || d.flag (r1 .HBM_STATUS n) Fld.HBM_STATUS_RETIRED) &&
  ((List.range 502).all fun wg => (d.lane wg 0).trained && (d.lane wg 1).trained) &&
  (List.range 32).all fun l => (d.ylink l).trainMask == 0

/-- Phase 3 ends: untrained stacks are retired, the controllers accept writes, and the window is the stacks in service. -/
def Dev.endPhase3 (d : Dev) : Dev :=
  let d := (List.range 20).foldl (fun d n =>
    if d.flag (r1 .HBM_STATUS n) Fld.HBM_STATUS_TRAINED then d.setF (r1 .HBM_CTRL n) Fld.HBM_CTRL_ACCEPT 1
    else d.setF (r1 .HBM_STATUS n) Fld.HBM_STATUS_RETIRED 1) d
  ((d.setF (r0 .WIN_MASK) Fld.WIN_MASK_MASK d.stacksIn).setF (r0 .WIN_IN_FORCE) Fld.WIN_IN_FORCE_MASK d.stacksIn).setPhase 4

/-- 150 ms after it began, or once everything is done, phase 3 ends (R387). -/
def execPhase3Timeout (s : State) : Out :=
  onUnit true s fun d =>
    d.when (d.phase == 3 && (decide (d.phaseBeat 3 + 15000000 ≤ d.beat) || d.trainedAll)) Dev.endPhase3

/-- Phase 4 ends at SYNCED, at once with JOIN_EN 0, or after 2 × JOIN_WAIT beats (R388). -/
def execPhase4End (s : State) : Out :=
  onUnit true s fun d =>
    let alone := !d.flag (r0 .YARD_CTRL) Fld.YARD_CTRL_JOIN_EN
    let late := decide (d.phaseBeat 4 + 2 * (d.rd (r0 .YARD_JOIN)).toNat ≤ d.beat)
    d.when (d.phase == 4 && (alone || decide (2 ≤ d.yardState) || late)) fun d => d.setPhase 5

/-! ## Barns (R389-R391, R427-R431) -/

def Dev.stage (d : Dev) (b : Nat) : Nat := d.start.stages.get (fun _ => 0) b
def Dev.setStage (d : Dev) (b v : Nat) : Dev := d.updStart fun t => { t with stages := t.stages.set (fun _ => 0) b v }

/-- A half of the barn under test: its rail goes to the voltage of CUR (t). -/
def Dev.powerHalf (d : Dev) (h : Nat) : Dev := (d.driveVcore h (d.oppCur h)).updHalf h fun v => { v with vcoreEn := true, offAt := none }

/-- t + 3,000: the half's PLLs have locked (Table 12-2). -/
def Dev.lockHalf (d : Dev) (h : Nat) : Dev :=
  let v := d.half h
  (d.setLock h false (!v.failedA)).setLock h true (!v.failedB)

/-- A region of the barn under test: its clock runs. -/
def Dev.startRegion (d : Dev) (r : Nat) : Dev :=
  (d.setF (r1 .REGION_CLK_CTRL r) Fld.REGION_CLK_CTRL_GATE 0).updRegion r fun g => { g with started := true, gate := false, gatePend := none }

/-- A barn is powered and its test begins. -/
def Dev.beginBarnTest (d : Dev) (b : Nat) : Dev :=
  let d := (d.powerHalf (2 * b)).powerHalf (2 * b + 1)
  d.updStart fun t => { t with testing := some (d.beat, b), testRuns := false }

/-- t + 1,000: VCORE of both halves has settled, and the barn's VLOFT is enabled (R466, R467). -/
def Dev.powerLoft (d : Dev) (b : Nat) : Dev :=
  let d := (d.halfFlag (2 * b) Fld.HALF_STATUS_VOLT_OK true).halfFlag (2 * b + 1) Fld.HALF_STATUS_VOLT_OK true
  { d.setTarget (16 + b) (nominalMv 16) with vloftEn := setBitNat d.vloftEn b true }

/-- What a barn's test does at its beats: the loft rail at t + 1,000, the region clocks at t + 3,000 (Tables 12-2, 15-3). -/
def Dev.edgeTest (d : Dev) : Dev :=
  match d.start.testing with
  | some (t, b) =>
    let d := d.when (!bitOf d.vloftEn b && decide (t + 1000 ≤ d.beat)) fun d => d.powerLoft b
    d.when (!d.start.testRuns && decide (t + 3000 ≤ d.beat)) fun d =>
      let d := (d.lockHalf (2 * b)).lockHalf (2 * b + 1)
      ((List.range 8).foldl (fun d i => d.startRegion (8 * b + i)) d).updStart fun t => { t with testRuns := true }
  | none => d

/-- A barn's test begins: in the order B0 to B7, one at a time (R389, R467). -/
def execBarnTest (b : Nat) (s : State) : Out :=
  onUnit (decide (b < 8)) s fun d =>
    let before := (List.range b).all fun k => decide (2 ≤ d.stage k)
    d.when (decide (5 ≤ d.phase) && before && d.stage b == 0 && d.start.testing.isNone) fun d => d.beginBarnTest b

/-- What a barn's test and the assembly spare map find together. -/
structure BarnFindings where
  items : List SpareItem
  res : BarnResult

def BarnFindings.listed (f : BarnFindings) (kind site unit index : Nat) : Bool :=
  f.items.any fun i => i.kind == kind && i.site == site && i.unit == unit && i.index == index

def BarnFindings.siteBad (f : BarnFindings) (x : Nat) : Bool := f.listed 1 x 0 0 || f.res.sites.contains x
def BarnFindings.routerBad (f : BarnFindings) (x : Nat) : Bool := f.listed 2 x 0 0 || f.res.routers.contains x
def BarnFindings.wireBad (f : BarnFindings) (x bundle wire : Nat) : Bool :=
  f.listed 3 x bundle wire || f.res.wires.contains (x, bundle, wire)
def BarnFindings.coilBad (f : BarnFindings) (x die which : Nat) : Bool :=
  f.listed 4 x die which || f.res.coils.contains (x, die, which)

/-- Dies of a site that use their spare pair; whether some die has no good pair. -/
def BarnFindings.spareCoils (f : BarnFindings) (x : Nat) : Nat := maskOf 4 fun k => f.coilBad x k 0 && !f.coilBad x k 1
def BarnFindings.noCoil (f : BarnFindings) (x : Nat) : Bool := (List.range 4).any fun k => f.coilBad x k 0 && f.coilBad x k 1

/-- The good wires of a bundle, in ascending order. -/
def BarnFindings.wires (f : BarnFindings) (x bundle : Nat) : List Nat :=
  (List.range 68).filter fun w => !f.wireBad x bundle w

/-- Bundles of a tap in service; the spare wires that they use, four bits a bundle. -/
def BarnFindings.bundles (f : BarnFindings) (x : Nat) : Nat := maskOf 5 fun k => decide (64 ≤ (f.wires x k).length)
def BarnFindings.spareWires (f : BarnFindings) (x : Nat) : Nat :=
  sumNat ((List.range 5).map fun k =>
    if bitOf (f.bundles x) k then maskOf 4 (fun i => ((f.wires x k).take 64).contains (64 + i)) * 16 ^ k else 0)

/-- One level of the tree after another: the routers next to the level before take their parent of lowest index (R174). -/
def growTree (ok : Nat → Bool) : Nat → Sparse Nat → List Nat → Sparse Nat
  | 0, par, _ => par
  | n + 1, par, front =>
    let new := (List.range 768).filterMap fun y =>
      if ok y && !(par.any fun c => c.1 == y) then (front.find? fun f => (portTowards y f).isSome).map fun f => (y, f) else none
    if new.isEmpty then par else growTree ok n (par ++ new) (new.map (·.1))

/-- The root of the tree: the router in service of lowest index in row 11, else in row 12. -/
def treeRoot (ok : Nat → Bool) : Option Nat := ((List.range 64).map (352 + ·)).find? ok

/-- The parents of R174 over the routers in service; a router that the tree does not reach has none. -/
def buildTree (ok : Nat → Bool) : Sparse Nat :=
  match treeRoot ok with
  | some r => growTree ok 768 [(r, r)] [r]
  | none => []

/-- The parent that the tree gives a router, if it gives one. -/
def treeParent (par : Sparse Nat) (x : Nat) : Option Nat := (par.find? fun c => c.1 == x).map (·.2)

/-- The routes of a barn (R174, R176): RT_PARENT of every site, RT_MAP of every logical tile, loaded into every router. -/
def Dev.writeRoutes (d : Dev) (b : Nat) (par : Sparse Nat) : Dev :=
  let d := (List.range 768).foldl (fun d x =>
    d.wr (r2 .RT_PARENT b x) (match treeParent par x with
      | some p => Fld.RT_PARENT_IN_SERVICE.put (Fld.RT_PARENT_PARENT.put 0 p) 1
      | none => 0)) d
  let d := (List.range 704).foldl (fun d t =>
    d.wr (r2 .RT_MAP b t) (match d.siteOf b t with
      | some x => Fld.RT_MAP_VALID.put (Fld.RT_MAP_SITE.put 0 x) 1
      | none => 0)) d
  (d.loadRoutes b).setF (r1 .RT_STATUS b) Fld.RT_STATUS_DONE 1

/-- Chunks that a logical tile has sent since package start (Table 14-4). -/
def Dev.chunksOf (d : Dev) (b t : Nat) : Nat :=
  ((d.tiles.find? fun e => e.1 / 768 == b && e.2.logical == some t).map fun e => e.2.chunkSeq).getD 0

/-- A site after its barn's test: the logical tile it holds, with the chunks that it has sent, or its state as spare, retired or hole. -/
def Dev.placeSite (d : Dev) (b : Nat) (f : BarnFindings) (hole : Nat → Bool) (good : List Nat) (sent : Nat → Nat) (x : Nat) : Dev :=
  let t := findIdxFrom (· == x) good 0
  let logical := match t with | some t => if t < 704 then some t else none | none => none
  let state := if hole x then 3 else if logical.isSome then 0 else if t.isSome then 1 else 2
  let asm := f.items.any fun i => i.site == x && i.kind != 3
  let d := d.wr (r2 .FAR_SITE b x) (packWord [(0, state), (2, boolNat asm), (3, f.spareCoils x)])
  let d := d.setF (r2 .RTR_CTRL b x) Fld.RTR_CTRL_ROUTER_ONLY (boolNat (state == 2))
  d.updTile b x fun u => { logical := logical, util := u.util, chunkSeq := (logical.map sent).getD 0 }

/-- A tap after its barn's test: the bundles in service. -/
def Dev.placeTap (d : Dev) (b : Nat) (f : BarnFindings) (i : Nat) : Dev :=
  let x := 352 + i
  (d.wr (r2 .TAP_STATUS b x) (Fld.TAP_STATUS_IN_SERVICE.put 0 (f.bundles x))).wr (r2 .FAR_TAP b i)
    (packWord [(0, f.bundles x), (5, f.spareWires x)])

/-- A barn that passed its test: mapped, cleared and routed (Table 12-2). -/
def Dev.mapBarn (d : Dev) (b : Nat) (f : BarnFindings) (par : Sparse Nat) (good : List Nat) : Dev :=
  let hole (x : Nat) : Bool := (treeParent par x).isNone
  let holes := ((List.range 768).filter hole).length
  let sent := d.chunksOf b
  let d := d.zero (localBase b 0) (768 * 2 ^ 25)
  let d := (List.range 768).foldl (fun d x => d.placeSite b f hole good sent x) d
  let d := (List.range 64).foldl (fun d i => d.placeTap b f i) d
  let d := d.wr (r1 .FAR_BARN b) (packWord [(0, good.length - 704), (7, 768 - holes - good.length), (14, holes)])
  let d := d.writeRoutes b par
  (List.range 32).foldl (fun d col => (d.retap b 11 col).retap b 12 col) d

/-- Phase 6 begins once every barn is in service or out; its level is then formed (R393). -/
def Dev.endPhase5 (d : Dev) : Dev :=
  if d.phase = 5 ∧ (List.range 8).all (fun b => decide (2 ≤ d.stage b)) then (d.setPhase 6).relevel else d

/-- A barn that cannot serve: gated, its rails at zero, out until the next start (R390). -/
def Dev.failBarn (d : Dev) (b : Nat) : Dev :=
  ((((d.gateBarn b true).powerOff b).bar b).setStage b 3).updStart fun t => { t with testing := none }

/-- A barn's test ends (R389, R390). -/
def execBarnTestDone (b : Nat) (res : BarnResult) (s : State) : Out :=
  onUnit (decide (b < 8)) s fun d =>
    match d.start.testing, d.start.image with
    | some (t, k), some i =>
      d.when (k == b && d.stage b == 0 && decide (t + 3000 ≤ d.beat)) fun d =>
        let d := d.edgeTest
        let fell := [2 * b, 2 * b + 1].any fun r => (d.pwr.railBeats.get (fun _ => []) r).any fun f => decide (t ≤ f)
        let f : BarnFindings := ⟨i.spares.filter fun e => e.barn == b, res⟩
        let par := buildTree fun x => !f.routerBad x
        let good := (List.range 768).filter fun x => !f.siteBad x && (treeParent par x).isSome && !f.noCoil x
        let d := d.addF (r0 .FAR_EVT) Fld.FAR_EVT_SIG_FAIL res.sites.length
        if fell || res.railFault || decide (good.length < 704) then (d.failBarn b).endPhase5
        else (d.mapBarn b f par good).setStage b 1
    | _, _ => d

/-! ## The Tack room (R411, R414) -/

/-- Zeroisation (R414): the secrets, the signing buffers, Ringmaster SRAM; both Ringmasters in reset, every region gated, level 0. -/
def Dev.zeroise (d : Dev) : Dev :=
  let d := d.setTack Fld.TACK_STATUS_ID_READY 0
  let clear (d : Dev) (n : RegName) (k : Nat) : Dev := (List.range k).foldl (fun d i => d.wr (r1 n i) 0) d
  let d := clear (clear (clear d .TACK_ID 4) .TACK_SIGN_HASH 8) .TACK_SIGN_OUT 16
  let d := (d.wr (r0 .TACK_SIGN_STATUS) 0).setF (r0 .TACK_CTRL) Fld.TACK_CTRL_SIGN_GO 0
  let d := { d.zero rmSram (2 * rmSramSize) with act := none, svc := none }
  let d := (((d.setActive 0).setStep false).setRmState 1 2).setRmState 2 2
  let d := (List.range 8).foldl (fun d b => d.gateBarn b true) d
  let d := (d.setTack Fld.TACK_STATUS_ZEROISED 1).setLevel 0
  d.updStart fun t => { t with pufSpent := true, signAt := none, key := none }

def Dev.tackReject (d : Dev) (_ : Reject) : Dev := d.inc (r0 .TACK_ERR) Fld.TACK_ERR_REJ

/-- SIGN_GO (R411): refused without an identity or after zeroisation. -/
def Dev.signGo (d : Dev) : Dev :=
  let st := r0 .TACK_SIGN_STATUS
  let d := d.setF st Fld.TACK_SIGN_STATUS_DONE 0
  if !d.tackFlag Fld.TACK_STATUS_ID_READY || d.tackFlag Fld.TACK_STATUS_ZEROISED then
    (d.setF st Fld.TACK_SIGN_STATUS_REFUSED 1).inc (r0 .TACK_ERR) Fld.TACK_ERR_SIGN_REFUSED
  else
    let d := (d.setF st Fld.TACK_SIGN_STATUS_REFUSED 0).setF st Fld.TACK_SIGN_STATUS_BUSY 1
    (d.setF (r0 .TACK_CTRL) Fld.TACK_CTRL_SIGN_GO 1).updStart fun t => { t with signAt := some d.beat }

/-- Writes of the TACK block. -/
def Dev.writeTack (d : Dev) (r : Reg) (v : W32) : Dev :=
  match r.name with
  | .TACK_CTRL =>
    let go := Fld.TACK_CTRL_SIGN_GO.get v == 1
    if (go && d.flag (r0 .TACK_SIGN_STATUS) Fld.TACK_SIGN_STATUS_BUSY) || decide (2 ≤ Fld.TACK_CTRL_DOMAIN.get v) then
      d.tackReject .bounds
    else
      let d := d.setF r Fld.TACK_CTRL_DOMAIN (Fld.TACK_CTRL_DOMAIN.get v)
      let d := if go then d.signGo else d
      if Fld.TACK_CTRL_ZEROISE.get v = 1 then d.zeroise else d
  | _ => d.writeOr r v none Dev.tackReject

/-- The digest that the Ringmaster gave. -/
def Dev.signHash (d : Dev) : List Byte := (List.range 8).flatMap fun i => bytesLE (d.rd (r1 .TACK_SIGN_HASH i)).toNat 4

/-- The signature is ready (R411). -/
def execSignDone (s : State) : Out :=
  onUnit true s fun d =>
    let st := r0 .TACK_SIGN_STATUS
    d.when (d.flag st Fld.TACK_SIGN_STATUS_BUSY) fun d =>
      let sig := d.signature (d.getF (r0 .TACK_CTRL) Fld.TACK_CTRL_DOMAIN) d.signHash
      let d := (List.range 16).foldl (fun d i => d.wr (r1 .TACK_SIGN_OUT i) (BitVec.ofNat 32 (fieldLE sig (4 * i) 4))) d
      let d := (d.setF st Fld.TACK_SIGN_STATUS_BUSY 0).setF st Fld.TACK_SIGN_STATUS_DONE 1
      (d.setF (r0 .TACK_CTRL) Fld.TACK_CTRL_SIGN_GO 0).updStart fun t => { t with signAt := none }

/-! ## The TAP (R414, R476, Table 15-5) -/

/-- An instruction that opens no scan path to secrets. -/
def Dev.tapPlain (d : Dev) (code : Nat) : Dev :=
  (d.setTack Fld.TACK_STATUS_SCAN_OPEN 0).updStart fun t => { t with tap := code }

/-- An instruction that zeroises first, then takes effect. -/
def Dev.tapOpen (d : Dev) (code : Nat) : Dev :=
  (d.zeroise.setTack Fld.TACK_STATUS_SCAN_OPEN 1).updStart fun t => { t with tap := code }

def execExtest (s : State) : Out := onUnit true s fun d => d.tapOpen 0x00
def execClamp (s : State) : Out := onUnit true s fun d => d.tapOpen 0x03
def execHighz (s : State) : Out := onUnit true s fun d => d.tapOpen 0x04
def execIntscan (s : State) : Out := onUnit true s fun d => d.tapOpen 0x20

/-- FLASH_ACCESS: accepted only with ZEROISED at 1; else the TAP selects BYPASS. -/
def execFlashAccess (s : State) : Out :=
  onUnit true s fun d => if d.tackFlag Fld.TACK_STATUS_ZEROISED then d.tapOpen 0x21 else d.tapPlain 0xFF

def execIdcode (s : State) : Out := onUnit true s fun d => d.tapPlain 0x01
def execSamplePreload (s : State) : Out := onUnit true s fun d => d.tapPlain 0x02
def execBypass (s : State) : Out := onUnit true s fun d => d.tapPlain 0xFF

/-- What IDCODE shifts out (R476). -/
def idcode : Nat := 0x14D2036B

end Sys2Proof.Machine
end

