-- ==== Sys2Proof/Machine/Farrier.lean ====
section
/-! DEFINITION. The Farrier in service (R428), a router that fails (R175, R440), schedules after a move (R434), and barns that
leave and come back (R438, R439). -/

namespace Sys2Proof.Machine

/-! ## FAR registers -/

def Dev.farReject (d : Dev) (_ : Reject) : Dev := d.inc (r0 .FAR_ERR) Fld.FAR_ERR_REJ

/-- Writes of the FAR block. -/
def Dev.writeFarrier (d : Dev) (r : Reg) (v : W32) : Dev :=
  let bad := match r.name with
    | .FAR_PERIOD => Fld.FAR_PERIOD_PERIOD.get v == 0
    | .FAR_LIMITS => decide (Fld.FAR_LIMITS_FAULT_LIMIT.get v < 2) || decide (Fld.FAR_LIMITS_PORT_HANG_LIMIT.get v < 100000)
    | _ => false
  d.writeOr r v (firstReject false false bad) Dev.farReject

/-! ## In-service tests (R428) -/

/-- A site that failed its logic BIST twice: a logical tile moves, a spare is retired. -/
def Dev.failSite (d : Dev) (b x : Nat) : Dev :=
  let d := d.inc (r0 .FAR_EVT) Fld.FAR_EVT_SIG_FAIL
  if d.siteState b x = 0 then d.postMove b x
  else if d.siteState b x = 1 then
    let n := r1 .FAR_BARN b
    let d := d.setF (r2 .FAR_SITE b x) Fld.FAR_SITE_STATE 2
    ((d.setF n Fld.FAR_BARN_SPARES (d.getF n Fld.FAR_BARN_SPARES - 1)).addF n Fld.FAR_BARN_RETIRED 1).setF
      (r2 .RTR_CTRL b x) Fld.RTR_CTRL_ROUTER_ONLY 1
  else d

/-- The next region's turn: its clock stops, with STOP_CAUSE 2, and its state is kept in the save buffer. A region whose clock is stopped
already is passed over. -/
def Dev.beginRegionTest (d : Dev) (r : Nat) : Dev :=
  let runs := d.running r
  let d := { d with farTests := d.farTests + 1, farLast := d.beat }
  let d := d.setF (r0 .FAR_STATUS) Fld.FAR_STATUS_REGION r
  if runs then (d.setF (r0 .FAR_STATUS) Fld.FAR_STATUS_TEST_BUSY 1).updRegion r fun g => { g with farrier := true } else d

/-- The test ends: the region's state is put back, its clock runs again, and the sites that failed are told. -/
def Dev.endRegionTest (d : Dev) (r : Nat) (failed : List Nat) : Dev :=
  let d := (d.setF (r0 .FAR_STATUS) Fld.FAR_STATUS_TEST_BUSY 0).updRegion r fun g => { g with farrier := false }
  failed.foldl (fun d x => d.failSite (r / 8) x) d

/-- The test of a region, FAR_PERIOD × 2^20 beats after the last began; the command's repetition, at most 20,000 beats later, ends it with
the sites that failed. -/
def execFarrierRegionTest (r : Nat) (failed : List Nat) (s : State) : Out :=
  onUnit (decide (r < 64) && failed.all fun x => decide (x < 768) && regionOf (r / 8) x == r) s fun d =>
    let st := r0 .FAR_STATUS
    if d.flag st Fld.FAR_STATUS_TEST_BUSY then d.when (d.getF st Fld.FAR_STATUS_REGION == r) fun d => d.endRegionTest r failed
    else
      let due := decide (d.farLast + d.getF (r0 .FAR_PERIOD) Fld.FAR_PERIOD_PERIOD * 2 ^ 20 ≤ d.beat)
      d.when (d.flag (r0 .FAR_CTRL) Fld.FAR_CTRL_INSVC_EN && r == d.farTests % 64 && due) fun d => d.beginRegionTest r

/-! ## A router fails in service (R175, R440) -/

/-- Whether every PORT_BUF of a barn reads zero. -/
def Dev.buffersEmpty (d : Dev) (b : Nat) : Bool :=
  !(d.net.any fun f => match f.place with | .router k _ _ => k == b | _ => false) &&
  (List.range 768).all fun x => (List.range 4).all fun i => (d.router b x).schedFlits i == 0

/-- A site becomes a hole. -/
def Dev.makeHole (d : Dev) (b x : Nat) : Dev :=
  let n := r1 .FAR_BARN b
  let st := d.siteState b x
  let d := (d.setF (r2 .FAR_SITE b x) Fld.FAR_SITE_STATE 3).addF n Fld.FAR_BARN_HOLES 1
  if st = 1 then d.setF n Fld.FAR_BARN_SPARES (d.getF n Fld.FAR_BARN_SPARES - 1)
  else if st = 2 then d.setF n Fld.FAR_BARN_RETIRED (d.getF n Fld.FAR_BARN_RETIRED - 1)
  else d

/-- A tile placed anew at a site: with an act running it is loaded and leaves reset (R391). -/
def Dev.freshTile (d : Dev) (b t y : Nat) : Dev :=
  match d.act with
  | some a =>
    if a.running && Config.actUses a.image b t then
      let c := r2 .TILE_CTRL b y
      let d := (d.writeShape b y).loadTile a.image b t y
      ((d.setF c Fld.TILE_CTRL_RESET 0).setF c Fld.TILE_CTRL_RUN 1).leaveReset b y
    else d
  | none => d

/-- The logical tile of a hole goes to a spare, where it starts anew; without a spare it has no site. -/
def Dev.replaceHole (d : Dev) (b x : Nat) : Dev :=
  match (d.tile b x).logical with
  | none => d
  | some t =>
    let flows := d.hasFlows b x
    let sent := (d.tile b x).chunkSeq
    let d := d.updTile b x fun u => { util := u.util }
    match d.spareFor b x with
    | none => d.inc (r0 .FAR_EVT) Fld.FAR_EVT_NO_SPARE
    | some y =>
      let n := r1 .FAR_BARN b
      let d := (d.setF (r2 .FAR_SITE b y) Fld.FAR_SITE_STATE 0).setF n Fld.FAR_BARN_SPARES (d.getF n Fld.FAR_BARN_SPARES - 1)
      let d := (d.updTile b y fun u => { logical := some t, util := u.util, chunkSeq := sent }).freshTile b t y
      if flows then
        { d with replaceDue := (d.replaceDue.set (fun _ => false) (halfOf b x) true).set (fun _ => false) (halfOf b y) true }
      else d

/-- Steps 3 and 4 of R175: the tree over the routers left, MAP and ROUTE in every router, the columns' taps; the barn returns unless a
logical tile has no site. -/
def Dev.rewriteRoutes (d : Dev) (b x : Nat) : Dev :=
  let ok (y : Nat) : Bool := y != x && parentIn (d.parentWord b y)
  let par := buildTree ok
  let lost := (List.range 768).filter fun y => parentIn (d.parentWord b y) && (treeParent par y).isNone
  let d := lost.foldl (fun d y => d.makeHole b y) { d with rewriting := d.rewriting.set (fun _ => none) b none }
  let d := lost.foldl (fun d y => d.replaceHole b y) d
  let d := d.writeRoutes b par
  let d := lost.foldl (fun d y => d.releaseHeld b y) d
  let d := (List.range 32).foldl (fun d col => (d.retap b 11 col).retap b 12 col) d
  if (List.range 704).all fun t => (d.siteOf b t).isSome then Dev.newShape { d with barnsIn := setBitNat d.barnsIn b true }
  else d.bar b

/-- A router of a barn in service fails: the barn leaves; once its buffers are empty, the routes are rewritten and it returns. A
repeated command looks at the buffers again. -/
def execRouteRewrite (b x : Nat) (s : State) : Out :=
  onUnit (okSite b x) s fun d =>
    let going := d.rewriting.get (fun _ => none) b == some x
    let begins := bitOf d.barnsIn b && parentIn (d.parentWord b x)
    d.when (d.hasMaster && (going || begins)) fun d =>
      let d := if going then d else { d.barnLeaves b with rewriting := d.rewriting.set (fun _ => none) b (some x) }
      if d.buffersEmpty b then d.rewriteRoutes b x else d

/-! ## Schedules after a move (R434) -/

/-- A half's schedule is replaced, or its failure is posted. -/
def Dev.replaceSchedule (d : Dev) (b half : Nat) (a : Act) (ok : Bool) : Dev :=
  let h := 2 * b + half
  let d := { d with replaceDue := d.replaceDue.set (fun _ => false) h false }
  if ok then
    let sites := (List.range 768).filter fun x => halfOf b x == h
    let on := sites.filter fun x => d.flag (r2 .RTR_CTRL b x) Fld.RTR_CTRL_SCHED_EN
    let d := on.foldl (fun d x => d.setF (r2 .RTR_CTRL b x) Fld.RTR_CTRL_SCHED_EN 0) d
    let d := d.writeSchedule a.image b fun x => halfOf b x == h
    on.foldl (fun d x => d.setF (r2 .RTR_CTRL b x) Fld.RTR_CTRL_SCHED_EN 1) d
  else
    let all := (List.range 8).flatMap fun k => (d.actSites a.image k).map fun p => (k, p.2)
    (all.foldl (fun d p => d.postEvent p.1 p.2 2) d).raise (164 + b)

/-- The Ringmaster places a moved tile's flows and rewrites the half's schedule; where they do not fit, it posts STOP and raises
TILE. -/
def execScheduleReplace (b half : Nat) (ok : Bool) (s : State) : Out :=
  onUnit (decide (b < 8) && decide (half < 2)) s fun d =>
    let h := 2 * b + half
    match d.act with
    | none => d
    | some a =>
      d.when (d.hasMaster && a.running && d.replaceDue.get (fun _ => false) h) fun d => d.replaceSchedule b half a ok

/-! ## Barns leave and come back (R438, R439) -/

/-- Whether a rail has faulted FAULT_LIMIT times within 100,000,000 beats. -/
def Dev.railWorn (d : Dev) (r : Nat) : Bool :=
  decide (d.getF (r0 .FAR_LIMITS) Fld.FAR_LIMITS_FAULT_LIMIT ≤
    ((d.pwr.railBeats.get (fun _ => []) r).filter fun t => d.beat ≤ t + 100000000).length)

/-- What a worn rail takes out of service. -/
def Dev.railExit (d : Dev) (r : Nat) : Dev :=
  if r < 24 then
    let b := if r < 16 then r / 2 else r - 16
    d.when (!bitOf d.barred b) fun d => (((d.barnOut b).powerOff b).setStage b 3).endPhase5
  else if r < 28 then
    match ((List.range 5).map (5 * (r - 24) + ·)).find? d.stackIn with
    | some n => d.when ((d.hbm n).retiring.isNone && d.winNext.isNone) fun d => d.retireStack n
    | none => d
  else d

/-- A worn VCORE or VLOFT rail takes its barn out until the next start; a worn VHBM rail retires its five stacks, the lowest first: a
repeated command retires the next. -/
def execBarnExit (r : Nat) (s : State) : Out :=
  onUnit (decide (r < 45)) s fun d =>
    d.when (d.hasMaster && d.railWorn r) fun d => d.railExit r

/-- Whether every node of a barn lies below its throttle threshold. -/
def Dev.barnCool (d : Dev) (b : Nat) : Bool :=
  let thr := r0 .PWR_THR
  (halfNodes (2 * b) ++ halfNodes (2 * b + 1)).all fun i =>
    decide (d.nodeT i < (if i < 128 then d.setting thr Fld.PWR_THR_THR_BARN else d.setting thr Fld.PWR_THR_THR_LOFT : Nat))

/-- A tripped barn that has cooled takes the sequence of Table 12-2 again. -/
def execBarnReentry (b : Nat) (s : State) : Out :=
  onUnit (decide (b < 8)) s fun d =>
    let st := r0 .PWR_STATUS
    let may := d.hasMaster && !d.flag st Fld.PWR_STATUS_PKG_TRIP && !bitOf d.barred b
    d.when (may && bitOf (d.getF st Fld.PWR_STATUS_TRIPPED) b && d.barnCool b && decide (2 ≤ d.stage b)) fun d =>
      (d.setF st Fld.PWR_STATUS_TRIPPED (setBitNat (d.getF st Fld.PWR_STATUS_TRIPPED) b false)).setStage b 0

end Sys2Proof.Machine
end

