-- ==== Sys2Proof/Machine/Eth.lean ====
section
/-! DEFINITION. The Ethernet ports and their queue pairs (R330-R337): frames, priorities and pauses, rates, connections, and the
registers of the ETH block. -/

namespace Sys2Proof.Machine

/-! ## Ports -/

def Dev.ethSt (d : Dev) (p : Nat) : EthSt := d.eth.get (fun _ => {}) p
def Dev.updEth (d : Dev) (p : Nat) (f : EthSt → EthSt) : Dev := { d with eth := d.eth.upd (fun _ => {}) p f }

def Dev.ethF (d : Dev) (p : Nat) (f : Field) : Nat := d.getF (r1 .ETH_CTRL p) f
def Dev.ethStatus (d : Dev) (p : Nat) (f : Field) : Nat := d.getF (r1 .ETH_STATUS p) f
def Dev.setEthStatus (d : Dev) (p : Nat) (f : Field) (v : Nat) : Dev := d.setF (r1 .ETH_STATUS p) f v

/-- Whether a port runs and its link is up. -/
def Dev.portUp (d : Dev) (p : Nat) : Bool :=
  d.ethF p Fld.ETH_CTRL_ENABLE == 1 && d.ethStatus p Fld.ETH_STATUS_LINK_UP == 1

/-- The line rate of a port in Gb/s (Table 10-1). -/
def Dev.lineRate (d : Dev) (p : Nat) : Nat := 400 / 2 ^ d.ethStatus p Fld.ETH_STATUS_RATE_UP

def Dev.ethMtu (d : Dev) (p : Nat) : Nat := d.getF (r1 .ETH_MTU p) Fld.ETH_MTU_ETH_MTU

/-! ## Queue pairs -/

def Dev.qp (d : Dev) (i : Nat) : Option Qp := d.qps.get (fun _ => none) i
def Dev.setQp (d : Dev) (i : Nat) (q : Option Qp) : Dev := { d with qps := d.qps.set (fun _ => none) i q }
def Dev.updQp (d : Dev) (i : Nat) (f : Qp → Qp) : Dev := d.setQp i ((d.qp i).map f)

/-- Whether a queue pair is connected over a port that runs. -/
def Dev.qpUp (d : Dev) (i : Nat) : Bool :=
  match d.qp i with
  | some q => q.up && d.portUp q.port
  | none => false

/-- Queue pairs bound to a port. -/
def Dev.qpsOf (d : Dev) (p : Nat) : List Nat :=
  d.qps.filterMap fun e => match e.2 with | some q => if q.port = p then some e.1 else none | none => none

/-- A queue pair enters the error state: its READs are lost, and a command that waits for one stays without an answer; accesses of its host
that are under way are not answered. -/
def Dev.qpError (d : Dev) (i : Nat) : Dev :=
  { d.updQp i (fun q => { q with up := false, last := none }) with
    reads := d.reads.filter fun r => r.1 != i
    hostOps := d.hostOps.filter fun o => o.qp != i }

/-! ## Sending (R332, R334, Table 10-2) -/

/-- The bytes of a message's payload. -/
def HostMsg.bytes : HostMsg → Nat
  | .send data => data.length
  | .write _ _ data => data.length
  | .readData data => data.length
  | _ => 0

/-- How many frames a message takes. -/
def Dev.framesOf (d : Dev) : EthMsg → Nat
  | .roce i m => match d.qp i with | some q => max 1 (ceilDiv m.bytes q.mtu) | none => 1
  | _ => 1

def Dev.vlanF (d : Dev) (p : Nat) (f : Field) : Nat := d.getF (r1 .ETH_VLAN p) f

/-- The 802.1Q priority and the DSCP of what a port sends (Table 10-2). -/
def Dev.classOf (d : Dev) (p : Nat) : EthMsg → Nat × Nat
  | .roce _ _ | .cm _ _ _ _ | .pfc _ _ => (d.vlanF p Fld.ETH_VLAN_ROCE_PCP, d.vlanF p Fld.ETH_VLAN_ROCE_DSCP)
  | .cnp _ => (d.vlanF p Fld.ETH_VLAN_CNP_PCP, d.vlanF p Fld.ETH_VLAN_CNP_DSCP)
  | .answer _ => (7, 48)

/-- An address of a port that stands in four words. -/
def Dev.addr6 (d : Dev) (n : RegName) (p : Nat) : Nat := sumNat ((List.range 4).map fun i => (d.rd (r2 n p i)).toNat * 2 ^ (32 * i))
def Dev.ip4 (d : Dev) (p : Nat) : Nat := (d.rd (r1 .ETH_IP4 p)).toNat
def Dev.ip6 (d : Dev) (p : Nat) : Nat := d.addr6 .ETH_IP6 p

/-- Where a packet to an address goes next: to it, or outside the port's prefix to the port's gateway (R333). -/
def Dev.nextHop (d : Dev) (p : Nat) (v6 : Bool) (a : Nat) : Nat :=
  let pre (f : Field) (w : Nat) : Nat := 2 ^ (w - d.getF (r1 .ETH_PREFIX p) f)
  if v6 then (if a / pre Fld.ETH_PREFIX_PREFIX6 128 = d.ip6 p / pre Fld.ETH_PREFIX_PREFIX6 128 then a else d.addr6 .ETH_GW6 p)
  else if a / pre Fld.ETH_PREFIX_PREFIX4 32 = d.ip4 p / pre Fld.ETH_PREFIX_PREFIX4 32 then a else (d.rd (r1 .ETH_GW4 p)).toNat

/-- The head of a message's frames (R332, R333, R335, R337); a PFC frame carries no tag (DEDUCED, log 148). -/
def Dev.frameHead (d : Dev) (p : Nat) (m : EthMsg) : FrameHead :=
  let c := d.classOf p m
  let vid := if d.ethF p Fld.ETH_CTRL_VLAN_EN = 1 then some (d.vlanF p Fld.ETH_VLAN_VID) else none
  let roce (v6 : Bool) (a i : Nat) : FrameHead := ⟨vid, c.1, c.2, 2, 0xC000 + i % 2 ^ 14, d.nextHop p v6 a⟩
  let ofQp (i : Nat) : FrameHead := match d.qp i with | some q => roce q.v6 q.addr i | none => roce false 0 i
  match m with
  | .roce i _ => ofQp i
  | .cnp i => ofQp i
  | .cm v6 a _ _ => roce v6 a 1
  | .pfc _ _ => {}
  | .answer _ => { vid := vid, prio := c.1, dscp := c.2 }

/-- Sends a message from a port; a paused priority holds it (R334). -/
def Dev.ethSend (d : Dev) (p : Nat) (m : EthMsg) : Dev :=
  let prio := (d.classOf p m).1
  if bitOf (d.ethStatus p Fld.ETH_STATUS_PAUSED) prio then d.updEth p fun e => { e with held := e.held ++ [(prio, m)] }
  else (d.addPair (r1 .ETH_TX_FRAMES_LO p) (r1 .ETH_TX_FRAMES_HI p) (d.framesOf m)).emit (.eth p (d.frameHead p m) m)

/-- Sends a RoCEv2 message on a queue pair that is connected. -/
def Dev.qpSend (d : Dev) (i : Nat) (m : HostMsg) : Dev :=
  match d.qp i with
  | some q => if d.qpUp i then d.ethSend q.port (.roce i m) else d
  | none => d

/-- Sends a request on a queue pair: it is kept until it is acknowledged (R337). -/
def Dev.qpRequest (d : Dev) (i : Nat) (m : HostMsg) : Dev :=
  (d.qpSend i m).updQp i fun q => { q with last := some m, sentAt := d.beat, retries := 0 }

/-- A priority resumes: what it held goes out in order. -/
def Dev.ethResume (d : Dev) (p prio : Nat) : Dev :=
  let go := (d.ethSt p).held.filter fun e => e.1 == prio
  let d := d.setEthStatus p Fld.ETH_STATUS_PAUSED (setBitNat (d.ethStatus p Fld.ETH_STATUS_PAUSED) prio false)
  let d := d.updEth p fun e => { e with held := e.held.filter fun h => h.1 != prio, pauseEnd := e.pauseEnd.set (fun _ => 0) prio 0 }
  go.foldl (fun d e => d.ethSend p e.2) d

/-- NAK Invalid Request: the queue pair enters the error state (R336). -/
def Dev.invalidRequest (d : Dev) (i : Nat) : Dev :=
  ((d.qpSend i (.nak 1)).inc (r0 .ETH_RDMA_ERR) Fld.ETH_RDMA_ERR_MALFORMED).qpError i

/-! ## Links (R331, R415) -/

/-- A link comes up or goes down: source 66 + p, the shape table, and on loss every queue pair of the port in error. -/
def Dev.setLink (d : Dev) (p : Nat) (up : Bool) : Dev :=
  let d := d.setEthStatus p Fld.ETH_STATUS_LINK_UP (boolNat up)
  let d := d.setEthStatus p Fld.ETH_STATUS_RATE_UP (if up then d.ethF p Fld.ETH_CTRL_RATE else 0)
  let d := if up then d else
    ((((d.qpsOf p).foldl (fun d i => d.qpError i) d).setEthStatus p Fld.ETH_STATUS_PAUSED 0).setEthStatus p
      Fld.ETH_STATUS_XOFF_SENT 0).updEth p fun e =>
      { e with held := [], pauseEnd := [], bufKb := 0 }
  (d.raise (66 + p)).newShape

def execLinkUpChange (p : Nat) (up : Bool) (s : State) : Out :=
  onUnit (decide (p < 4)) s fun d =>
    let is := d.ethStatus p Fld.ETH_STATUS_LINK_UP == 1
    d.when (up != is && (!up || d.ethF p Fld.ETH_CTRL_ENABLE == 1)) fun d => d.setLink p up

/-- A port tries to bring its link up (R330, R331): on the lanes of RATE (Table 10-1), with MEDIA 0 or 1 after auto-negotiation and
training. -/
def Dev.bringUp (d : Dev) (p : Nat) : Dev :=
  let rate := d.ethF p Fld.ETH_CTRL_RATE
  let advert := if d.ethF p Fld.ETH_CTRL_MEDIA = 2 then none else some rate
  (d.updEth p fun e => { e with triedAt := d.beat }).emit (.ethStart p (4 / 2 ^ rate) advert)

/-- A link that is not up is tried again after 100,000,000 beats (R331). -/
def execEthLinkRetry (p : Nat) (up : Bool) (s : State) : Out :=
  onUnit (decide (p < 4)) s fun d =>
    let due := decide ((d.ethSt p).triedAt + 100000000 ≤ d.beat)
    d.when (d.ethF p Fld.ETH_CTRL_ENABLE == 1 && d.ethStatus p Fld.ETH_STATUS_LINK_UP == 0 && due) fun d =>
      let d := d.bringUp p
      if up then d.setLink p true else d

/-- A port stops: its link is down and every queue pair bound to it is in error. -/
def Dev.portDown (d : Dev) (p : Nat) : Dev :=
  if d.ethStatus p Fld.ETH_STATUS_LINK_UP = 1 then d.setLink p false else (d.qpsOf p).foldl (fun d i => d.qpError i) d

/-! ## Frames (R331-R334) -/

/-- Whether a frame's tags are accepted (R332). -/
def Dev.tagsOk (d : Dev) (p : Nat) (tags : List (Nat × Nat)) : Bool :=
  let on := d.ethF p Fld.ETH_CTRL_VLAN_EN == 1
  match tags with
  | [] => !on
  | [(vid, _)] => vid == 0 || (on && vid == d.getF (r1 .ETH_VLAN p) Fld.ETH_VLAN_VID)
  | _ => false

/-- Whether a frame asks for an answer that the port gives itself (R333). -/
def Dev.answers (d : Dev) (p : Nat) : FrameKind → Bool
  | .arp t => t != 0 && t == d.ip4 p
  | .neighbour t => t != 0 && t == d.ip6 p
  | .echo v6 dst _ => dst != 0 && dst == (if v6 then d.ip6 p else d.ip4 p)
  | _ => false

/-- What a port does with a frame: the first reason to drop it, an answer, or the RoCEv2 engine. -/
def Dev.frame (d : Dev) (p : Nat) (f : EthFrame) : Dev :=
  let drops := r1 .ETH_DROPS p
  let full := d.ethF p Fld.ETH_CTRL_PFC_EN == 0 && decide (2048 ≤ (d.ethSt p).bufKb)
  if !f.fcsOk || decide (d.ethMtu p < f.ipBytes) then d.inc drops Fld.ETH_DROPS_FCS
  else if !d.tagsOk p f.tags then d.inc drops Fld.ETH_DROPS_VLAN
  else if f.kind == .pause then d.inc drops Fld.ETH_DROPS_NOT_ROCE
  else if full then d.inc drops Fld.ETH_DROPS_BUF_FULL
  else match f.kind with
    | .roce ok => if ok then d else d.inc (r1 .ETH_CNP_ICRC p) Fld.ETH_CNP_ICRC_ICRC
    | .badOp i => d.when (d.qpUp i && (d.qpsOf p).contains i) fun d => d.invalidRequest i
    | k => if d.answers p k then d.ethSend p (.answer k) else d.inc drops Fld.ETH_DROPS_NOT_ROCE

def execEthFrameRx (p : Nat) (frame : EthFrame) (s : State) : Out :=
  onUnit (decide (p < 4)) s fun d =>
    d.when (d.portUp p) fun d =>
      let d := d.addPair (r1 .ETH_RX_FRAMES_LO p) (r1 .ETH_RX_FRAMES_HI p) 1
      let d := d.addF (r1 .ETH_FEC_CORR p) Fld.ETH_FEC_CORR_CNT frame.corr
      (d.addF (r1 .ETH_FEC_UNCORR p) Fld.ETH_FEC_UNCORR_CNT frame.uncorr).frame p frame

/-- One priority of a PFC frame: a time of 0 resumes it; q quanta of 512 bit times pause it. -/
def Dev.pause (d : Dev) (p prio quanta : Nat) : Dev :=
  if quanta = 0 then d.ethResume p prio
  else
    let d := d.setEthStatus p Fld.ETH_STATUS_PAUSED (setBitNat (d.ethStatus p Fld.ETH_STATUS_PAUSED) prio true)
    let stop := d.beat + ceilDiv (quanta * 512) (10 * d.lineRate p)
    d.updEth p fun e => { e with pauseEnd := e.pauseEnd.set (fun _ => 0) prio stop }

def execPfcFrame (p : Nat) (pauses : List (Nat × Nat)) (s : State) : Out :=
  onUnit (decide (p < 4) && pauses.all fun e => decide (e.1 < 8) && decide (e.2 < 65536)) s fun d =>
    d.when (d.portUp p) fun d =>
      let d := d.addPair (r1 .ETH_RX_FRAMES_LO p) (r1 .ETH_RX_FRAMES_HI p) 1
      pauses.foldl (fun d e => d.pause p e.1 e.2) (d.inc (r1 .ETH_PFC_CNT p) Fld.ETH_PFC_CNT_PFC_RX)

/-- A PFC frame for ROCE_PCP (R334): it is no traffic of a priority, so no pause holds it. -/
def Dev.sendPfc (d : Dev) (p : Nat) (xoff : Bool) : Dev :=
  let d := (d.setEthStatus p Fld.ETH_STATUS_XOFF_SENT (boolNat xoff)).inc (r1 .ETH_PFC_CNT p) Fld.ETH_PFC_CNT_PFC_TX
  (d.addPair (r1 .ETH_TX_FRAMES_LO p) (r1 .ETH_TX_FRAMES_HI p) 1).emit
    (.eth p (d.frameHead p (.pfc 0 xoff)) (.pfc (d.vlanF p Fld.ETH_VLAN_ROCE_PCP) xoff))

/-- The level of a port's receive buffer, and the pauses that follow from it. -/
def Dev.bufferLevel (d : Dev) (p kb : Nat) : Dev :=
  let d := d.updEth p fun e => { e with bufKb := kb }
  let sent := d.ethStatus p Fld.ETH_STATUS_XOFF_SENT == 1
  let lim (f : Field) : Nat := d.getF (r1 .ETH_PFC p) f
  if d.ethF p Fld.ETH_CTRL_PFC_EN = 0 then d
  else if !sent && decide (lim Fld.ETH_PFC_XOFF_KB < kb) then d.sendPfc p true
  else if sent && decide (kb < lim Fld.ETH_PFC_XON_KB) then d.sendPfc p false
  else d

/-- The receive buffer of a port holds kb KiB. -/
def execPfcXoff (p kb : Nat) (s : State) : Out :=
  onUnit (decide (p < 4) && decide (kb ≤ 2048)) s fun d =>
    d.when (d.portUp p) fun d => d.bufferLevel p kb

/-! ## Congestion (R335) -/

/-- A frame marked CE, and the notification that it is answered with. -/
def Dev.ceFrame (d : Dev) (p qp : Nat) : Dev :=
  let cnt := r1 .ETH_CNP_CNT p
  let d := d.inc cnt Fld.ETH_CNP_CNT_CE_RX
  match d.qp qp with
  | some q =>
    let gap := d.getF (r1 .ETH_CC p) Fld.ETH_CC_CNP_GAP
    let due := match q.cnpAt with | some t => decide (t + gap ≤ d.beat) | none => true
    d.when (q.port == p && q.up && due) fun d =>
      let d := (d.inc cnt Fld.ETH_CNP_CNT_CNP_TX).updQp qp fun q => { q with cnpAt := some d.beat }
      d.ethSend p (.cnp qp)
  | none => d

/-- A RoCEv2 packet of a queue pair arrives with CE. -/
def execCeReceive (p qp : Nat) (s : State) : Out :=
  onUnit (decide (p < 4) && decide (qp < 4096)) s fun d =>
    d.when (d.portUp p) fun d => d.ceFrame p qp

def execCnpReceive (qp : Nat) (s : State) : Out :=
  onUnit (decide (qp < 4096)) s fun d =>
    match d.qp qp with
    | some q =>
      d.when (d.qpUp qp) fun d =>
        (d.inc (r1 .ETH_CNP_ICRC q.port) Fld.ETH_CNP_ICRC_CNP_RX).updQp qp fun q => { q with rate := max 1 (q.rate / 2), rateAt := d.beat }
    | none => d

/-- RECOVER beats without a CNP. -/
def execRateRecover (qp : Nat) (s : State) : Out :=
  onUnit (decide (qp < 4096)) s fun d =>
    match d.qp qp with
    | some q =>
      let line : Rat := (d.lineRate q.port : Nat)
      d.when (d.qpUp qp && decide (q.rateAt + d.getF (r1 .ETH_CC q.port) Fld.ETH_CC_RECOVER ≤ d.beat)) fun d =>
        d.updQp qp fun q => { q with rate := min line (q.rate + line / 20), rateAt := d.beat }
    | none => d

/-! ## Connections (R337) -/

/-- The address of an OWNER entry. -/
def Dev.ownerAddr (d : Dev) (i : Nat) : Nat :=
  sumNat ((List.range 4).map fun k => (d.rd (r2 .OWNER_ADDR i k)).toNat * 2 ^ (32 * k))

/-- Whether an address lies in a VALID entry of OWNER. -/
def Dev.owned (d : Dev) (v6 : Bool) (a : Nat) : Bool :=
  (List.range 16).any fun i =>
    let c := r1 .OWNER_CTL i
    let w := if v6 then 128 else 32
    let n := w - d.getF c Fld.OWNER_CTL_PREFIX
    d.flag c Fld.OWNER_CTL_VALID && d.flag c Fld.OWNER_CTL_V6 == v6 && d.ownerAddr i % 2 ^ w / 2 ^ n == a % 2 ^ w / 2 ^ n

/-- The free queue pair of lowest number. -/
def Dev.freeQp (d : Dev) : Option Nat := (List.range 4096).find? fun i => (d.qp i).isNone

/-- A connection request is accepted or refused; the rate starts at the line rate (DESIGN CHOICE, log 149). -/
def Dev.connRequest (d : Dev) (p : Nat) (req : CmReq) : Dev :=
  let mtuOk := [1024, 2048, 4096].contains req.mtu && decide (req.mtu + 80 ≤ d.ethMtu p)
  match d.freeQp with
  | some i =>
    if mtuOk && d.owned req.v6 req.src then
      let q : Qp := {
        port := p, peer := req.qp, v6 := req.v6, addr := req.src, mtu := req.mtu
        rate := (d.lineRate p : Nat), rateAt := d.beat, heard := d.beat }
      (d.setQp i (some q)).ethSend p (.cm req.v6 req.src 1 (0x100000 + i))
    else (d.inc (r0 .ETH_RDMA_ERR) Fld.ETH_RDMA_ERR_REJ).ethSend p (.cm req.v6 req.src 2 0)
  | none => (d.inc (r0 .ETH_RDMA_ERR) Fld.ETH_RDMA_ERR_REJ).ethSend p (.cm req.v6 req.src 2 0)

def execCmReq (p : Nat) (req : CmReq) (s : State) : Out :=
  onUnit (decide (p < 4)) s fun d =>
    d.when (d.portUp p) fun d => d.connRequest p req

/-- Whether a session is bound to a queue pair. -/
def Dev.hasSession (d : Dev) (i : Nat) : Bool :=
  match d.svc with
  | some v => v.sessions.any fun e => match e.2 with | some k => k.qp == i | none => false
  | none => false

/-- A DREQ: the queue pair is freed, by the loss of its session where it has one (R354). -/
def execCmDreq (qp : Nat) (s : State) : Out :=
  onUnit (decide (qp < 4096)) s fun d =>
    match d.qp qp with
    | some q =>
      d.when (d.portUp q.port) fun d =>
        let d := d.ethSend q.port (.cm q.v6 q.addr 3 (0x100000 + qp))
        if d.hasSession qp then d.qpError qp else (d.qpError qp).setQp qp none
    | none => d

/-- The local ACK timeout, 4.096 µs × 2^14 in beats, rounded up. -/
def ackBeats : Nat := 6710887

/-- The last message goes out again, at most seven times. -/
def Dev.resend (d : Dev) (qp : Nat) (q : Qp) (m : HostMsg) : Dev :=
  if q.retries < 7 then (d.qpSend qp m).updQp qp fun q => { q with retries := q.retries + 1, sentAt := d.beat }
  else d.qpError qp

/-- A request without an answer is sent again, seven times; then the queue pair enters the error state. -/
def execAckTimeout (qp : Nat) (s : State) : Out :=
  onUnit (decide (qp < 4096)) s fun d =>
    match d.qp qp with
    | some q =>
      match q.last with
      | some m =>
        d.when (q.up && decide (q.sentAt + ackBeats ≤ d.beat)) fun d => d.resend qp q m
      | none => d
    | none => d

/-! ## ETH registers -/

def Dev.ethReject (d : Dev) (_ : Reject) : Dev := d.inc (r0 .ETH_ERR) Fld.ETH_ERR_REJ

/-- Whether a write of the ETH block is rejected: values outside their range, and port settings while ENABLE is 1. -/
def Dev.ethBad (d : Dev) (r : Reg) (v : W32) : Bool :=
  let on := d.ethF r.i Fld.ETH_CTRL_ENABLE == 1
  match r.name with
  | .ETH_CTRL =>
    let diff (f : Field) : Bool := f.get v != d.ethF r.i f
    Fld.ETH_CTRL_RATE.get v == 3 || Fld.ETH_CTRL_MEDIA.get v == 3 ||
    (on && (diff Fld.ETH_CTRL_RATE || diff Fld.ETH_CTRL_MEDIA || diff Fld.ETH_CTRL_VLAN_EN))
  | .ETH_VLAN =>
    let vid := Fld.ETH_VLAN_VID.get v
    on || (d.ethF r.i Fld.ETH_CTRL_VLAN_EN == 1 && (vid == 0 || vid == 4095))
  | .ETH_MTU => !within 1280 9216 (Fld.ETH_MTU_ETH_MTU.get v)
  | .ETH_PFC =>
    decide (1920 < Fld.ETH_PFC_XOFF_KB.get v) || decide (Fld.ETH_PFC_XOFF_KB.get v ≤ Fld.ETH_PFC_XON_KB.get v)
  | .ETH_CC => decide (Fld.ETH_CC_CNP_GAP.get v < 100) || decide (Fld.ETH_CC_RECOVER.get v < 100)
  | .ETH_PREFIX => decide (32 < Fld.ETH_PREFIX_PREFIX4.get v) || decide (128 < Fld.ETH_PREFIX_PREFIX6.get v)
  | .ETH_LEASE => decide (v.toNat < 1000000)
  | .OWNER_CTL => decide ((if Fld.OWNER_CTL_V6.get v = 1 then 128 else 32) < Fld.OWNER_CTL_PREFIX.get v)
  | _ => false

/-- Writes of the ETH block. -/
def Dev.writeEth (d : Dev) (r : Reg) (v : W32) : Dev :=
  if d.ethBad r v then d.ethReject .bounds
  else
    let was := d.ethF r.i Fld.ETH_CTRL_ENABLE
    let d := d.store r v
    if r.name ≠ .ETH_CTRL then d
    else
      let now := Fld.ETH_CTRL_ENABLE.get v
      if was = 1 ∧ now = 0 then d.portDown r.i
      else if was = 0 ∧ now = 1 then d.bringUp r.i
      else d

/-- QPS and FULL of ETH_STATUS. -/
def Dev.ethView (d : Dev) (r : Reg) : Option W32 :=
  match r.name with
  | .ETH_STATUS =>
    let n := (d.qpsOf r.i).length
    some (Fld.ETH_STATUS_FULL.put (Fld.ETH_STATUS_QPS.put (d.rd r) n) (n / 4096))
  | _ => none

/-- 1,000,000 beats after NO_MASTER the RM block clears ENABLE on every port (R426). -/
def execNoMasterEthDisable (s : State) : Out :=
  onUnit true s fun d =>
    match d.rm.noMasterAt with
    | some t =>
      d.when (d.flag (r0 .RM_STATUS) Fld.RM_STATUS_NO_MASTER && decide (t + 1000000 ≤ d.beat)) fun d =>
        (List.range 4).foldl (fun d p =>
          if d.ethF p Fld.ETH_CTRL_ENABLE = 1 then (d.setF (r1 .ETH_CTRL p) Fld.ETH_CTRL_ENABLE 0).portDown p else d) d
    | none => d

end Sys2Proof.Machine
end

