-- ==== Sys2Proof/Machine/Service.lean ====
section
/-! DEFINITION. The generation service's lead tile (R297-R310, R324, R328, R343-R354): its header, its rings in host memory, sessions,
the command ring, the sequence table and its reservations. -/

namespace Sys2Proof.Machine

/-! ## The service header (Table 09-1) -/

def hLAYOUTS : Nat := 0x004
def hLAYERS : Nat := 0x008
def hHEADS : Nat := 0x00C
def hVOCAB : Nat := 0x014
def hMAXDRAFT : Nat := 0x018
def hWINDOW : Nat := 0x01C
def hCHUNK : Nat := 0x024
def hEVERY : Nat := 0x028
def hSLOTS : Nat := 0x02C
def hKEYPOOL : Nat := 0x038
def hWINPOOL : Nat := 0x03C
def hENTRIES : Nat := 0x048

/-- A 4-byte field of the header in force. -/
def Dev.hdr (d : Dev) (off : Nat) : Nat := d.hdrField off 4
def Dev.kvBase (d : Dev) : Nat := d.hdrField 0x030 8
def Dev.weightMap (d : Dev) : Nat := d.hdrField 0x040 8
/-- KEY_EXP of a layer. -/
def Dev.keyExp (d : Dev) (l : Nat) : Int := signed 8 (d.hdrField (0x100 + l) 1)

/-- Whether a header breaks a legal range (R297, R298). -/
def headerBad (h : List Byte) : Bool :=
  let f (o : Nat) : Nat := fieldLE h o 4
  let tile (i : Nat) : Nat := f (0x200 + 4 * i)
  let exps : List Int := (List.range 256).map fun l => signed 8 (fieldLE h (0x100 + l) 1)
  let map := fieldLE h 0x40 8
  h.length != 0x300 || f 0 != 1 || f hLAYOUTS % 2 != 0 || decide (512 ≤ f hLAYOUTS) || !within 1 256 (f hLAYERS) || !within 1 8 (f hHEADS) ||
  !within 1 8 (f 0x10) || !within 1 1048576 (f hVOCAB) || !within 0 15 (f hMAXDRAFT) || !within 0 64 (f hWINDOW) || !within 0 128 (f 0x20) ||
  !within 64 2048 (f hCHUNK) || f hCHUNK % 64 != 0 || !within 1 1000 (f hEVERY) || fieldLE h 0x30 8 % 16384 != 0 ||
  decide (stackBytes ≤ fieldLE h 0x30 8) || f hKEYPOOL % 128 != 0 || f hWINPOOL % 16384 != 0 || addrMalformed map ||
  !within 8 64 (f 0x4C) || exps.any (fun e => decide (e < -64) || decide (63 < e)) || (exps.drop (f hLAYERS)).any (· != 0) ||
  (List.range 64).any (fun i => if i < f 0x4C then decide (8192 ≤ tile i) || decide (704 ≤ tile i % 1024) else tile i != 0) ||
  (List.range 8).any (fun b => !(List.range (f 0x4C)).any fun i => bitsOf (tile i) 12 10 == b) ||
  (bytesAt h 0x50 0xB0).any (· != 0)

/-- Frames of a stack in a page slot over w stacks (R316). -/
def framesPer (layers heads w : Nat) : Nat := if w = 0 then 0 else ceilDiv (layers * heads) w

/-- Whether a header's pools exceed the memory behind them, w stacks being in service. -/
def headerBounds (h : List Byte) (w : Nat) : Bool :=
  let f (o : Nat) : Nat := fieldLE h o 4
  (w == 0 && f hSLOTS != 0) ||
  decide (stackBytes < fieldLE h 0x30 8 + f hSLOTS * framesPer (f hLAYERS) (f hHEADS) w * 16384) ||
  decide (16777216 < f hKEYPOOL + f hWINPOOL)

/-! ## Layouts (R298, R324, R392) -/

/-- Barns in service. -/
def Dev.barnCount (d : Dev) : Nat := popCount d.barnsIn 8

/-- The largest barn count of BARN_LAYOUTS. -/
def Dev.largestLayout (d : Dev) : Nat := (((List.range 9).filter fun n => bitOf (d.hdr hLAYOUTS) n).getLast?).getD 0

/-- The layout for the barns in service: below level 3 the largest alone; none where the count has none. -/
def Dev.layoutNow (d : Dev) : Option Nat :=
  if d.level < 3 then some d.largestLayout else if bitOf (d.hdr hLAYOUTS) d.barnCount then some d.barnCount else none

def Dev.updSvc (d : Dev) (f : Svc → Svc) : Dev := { d with svc := d.svc.map f }

/-- Whether the slices of the layout hold their weights (R324). -/
def Dev.slicesFilled (d : Dev) (v : Svc) : Bool :=
  d.hdr hENTRIES == 0 || (v.loaded && Nat.land d.barnsIn v.filled == d.barnsIn)

/-- STATE of the status record: 0 loading, 1 waiting for barns, 2 generating, 3 stopped. -/
def Dev.svcState (d : Dev) (v : Svc) : Nat :=
  if v.stopped.isSome then 3
  else if v.layout ≠ d.barnCount ∨ v.layoutBarns ≠ d.barnsIn then 1
  else if d.slicesFilled v then 2 else 0

/-- Whether rounds and chunks run. -/
def Dev.generating (d : Dev) : Bool := match d.svc with | some v => d.svcState v == 2 | none => false

/-- The barn that holds a KV head: the layout's barn of that number (R318). -/
def Dev.headBarn (d : Dev) (v : Svc) (h : Nat) : Nat :=
  match d.act with
  | some a => nth ((List.range 8).filter (bitOf v.layoutBarns)) (Config.headHolder a.image v.layout h % max 1 v.layout) 0
  | none => 0

/-- Heads that the k-th barn of the layout holds. -/
def Dev.headsOf (d : Dev) (v : Svc) (k : Nat) : Nat :=
  match d.act with
  | some a => ((List.range (d.hdr hHEADS)).filter fun h => Config.headHolder a.image v.layout h % max 1 v.layout == k).length
  | none => 0

/-! ## Rings in host memory (R350-R352) -/

/-- Room in a ring; none where TAIL - HEAD is negative or exceeds the records. -/
def ringFree (tail head n : Nat) : Option Nat :=
  let x := (tail + 2 ^ 64 - head % 2 ^ 64) % 2 ^ 64
  if x ≤ n then some (n - x) else none

/-- Whether a head adds to HEAD_ERR: TAIL + 2^63 stands for a head not yet rewritten (R353). -/
def headOdd (tail head n : Nat) : Bool :=
  let x := (tail + 2 ^ 64 - head % 2 ^ 64) % 2 ^ 64
  decide (n < x) && x != 2 ^ 63

def Dev.headOf (d : Dev) (v : Svc) (q : Nat) : Nat := d.readOwnNat (v.area + 8 * q) 8
def Dev.cheadOf (d : Dev) (v : Svc) (s : Nat) : Nat := d.readOwnNat (v.area + 0x800 + 8 * s) 8

def Svc.session (v : Svc) (s : Nat) : Option Session := v.sessions.get (fun _ => none) s
def Svc.setSession (v : Svc) (s : Nat) (k : Option Session) : Svc := { v with sessions := v.sessions.set (fun _ => none) s k }
def Svc.seq (v : Svc) (q : Nat) : Seqn := v.seqs.get (fun _ => {}) q
def Svc.setSeq (v : Svc) (q : Nat) (e : Seqn) : Svc := { v with seqs := v.seqs.set (fun _ => {}) q e }
def Dev.updSeq (d : Dev) (q : Nat) (f : Seqn → Seqn) : Dev := d.updSvc fun v => v.setSeq q (f (v.seq q))
def Dev.stat (d : Dev) (off n : Nat) : Dev := d.updSvc fun v => { v with stats := v.stats.upd (fun _ => 0) off fun x => (x + n) % 2 ^ 64 }

/-- An RDMA WRITE into host memory. -/
def Dev.hostWrite (d : Dev) (qp va key : Nat) (data : List Byte) : Dev := d.qpRequest qp (.write va key data)

/-- A record written to a ring: the record, then TAIL. -/
def Dev.ringWrite (d : Dev) (qp : Nat) (r : HostRing) (rec : List Byte) : Dev :=
  (d.hostWrite qp (r.va + 64 + rec.length * (r.tail % max 1 r.entries)) r.key rec).hostWrite qp r.va r.key (bytesLE (r.tail + 1) 8)

/-- Writes a record to a session's completion ring, which has room. -/
def Dev.writeCompletion (d : Dev) (s : Nat) (k : Session) (rec : List Byte) : Dev :=
  (d.ringWrite k.qp k.ring rec).updSvc fun v => v.setSession s (some { k with ring := { k.ring with tail := k.ring.tail + 1 } })

/-- Posts a completion record; it waits behind the session's earlier ones and for room. -/
def Dev.post (d : Dev) (s : Nat) (rec : List Byte) : Dev :=
  match d.svc with
  | some v =>
    match v.session s with
    | some k =>
      let free := (ringFree k.ring.tail (d.cheadOf v s) k.ring.entries).getD 0
      if !(v.waiting.any fun w => w.1 == s) && decide (0 < free) then d.writeCompletion s k rec
      else d.updSvc fun v => { v with waiting := v.waiting ++ [(s, rec)] }
    | none => d
  | none => d

/-- The records that wait go out as far as there is room. -/
def Dev.flushWaiting (d : Dev) : Dev :=
  match d.svc with
  | some v => v.waiting.foldl (fun d w => d.post w.1 w.2) (d.updSvc fun v => { v with waiting := [] })
  | none => d

/-- A completion record (Table 10-9). -/
def completionRecord (kind status code seq tag index value : Nat) : List Byte :=
  bytesLE kind 1 ++ bytesLE status 1 ++ bytesLE code 1 ++ bytesLE 0 1 ++ bytesLE seq 4 ++ bytesLE tag 8 ++ bytesLE index 8 ++ bytesLE value 8

/-! ## Command entries (Table 10-6) -/

def cField (c : SvcCmd) (off n : Nat) : Nat := fieldLE c.entry off n
def cCode (c : SvcCmd) : Nat := cField c 0 1
def cSeq (c : SvcCmd) : Nat := cField c 4 4
def cTag (c : SvcCmd) : Nat := cField c 8 8
def cVa (c : SvcCmd) : Nat := cField c 0x10 8
def cKey (c : SvcCmd) : Nat := cField c 0x18 4
def cCount (c : SvcCmd) : Nat := cField c 0x1C 4
def cRing (c : SvcCmd) : HostRing := { va := cField c 0x20 8, key := cField c 0x28 4, entries := cField c 0x2C 4 }
def cParams (c : SvcCmd) : List Byte := bytesAt c.entry 0x40 64

/-- Fields of a sampling parameter record (Table 09-4). -/
def pField (p : List Byte) (off : Nat) : Nat := fieldLE p off 4
def pMaxNew (p : List Byte) : Nat := pField p 0x20
def pDraft (p : List Byte) : Nat := pField p 0x24
def pStops (p : List Byte) : List Nat := (List.range (pField p 0x28)).map fun i => pField p (0x2C + 4 * i)

/-- Whether a sampling parameter record is legal (R310). -/
def paramsOk (p : List Byte) (vocab maxDraft : Nat) : Bool :=
  let r (o : Nat) : Rat := f32Rat (BitVec.ofNat 32 (pField p o))
  ([0, 4, 8, 12].all fun o => finite32' (pField p o)) && decide (0 ≤ r 0) && decide (r 0 ≤ 1000) && decide (0 < r 4) && decide (r 4 ≤ 1) &&
  decide (0 ≤ r 8) && decide (r 8 < 1) && decide (1 ≤ r 12) && decide (r 12 ≤ 100) && within 1 vocab (pField p 0x10) &&
  decide (pField p 0x14 ≤ 4096) && decide (pMaxNew p ≤ 4194304) && decide (pDraft p ≤ maxDraft) && decide (pField p 0x28 ≤ 4) &&
  ((List.range 4).all fun i => if i < pField p 0x28 then decide (pField p (0x2C + 4 * i) < vocab) else pField p (0x2C + 4 * i) == 0) &&
  pField p 0x3C == 0
where
  /-- Whether an FP32 code is a finite number. -/
  finite32' (c : Nat) : Bool := c / 2 ^ 23 % 256 != 255

/-- Whether a command's fields are legal and those that its CODE does not use zero (R347). -/
def Dev.entryOk (d : Dev) (c : SvcCmd) : Bool :=
  let code := cCode c
  let zero (codes : List Nat) (off n : Nat) : Bool := codes.contains code || cField c off n == 0
  within 1 8 code && cField c 1 3 == 0 && cField c 0x30 16 == 0 && zero [2, 3, 4, 5, 8] 4 4 && decide (cSeq c < 256) &&
  zero [2, 3, 7] 0x10 8 && zero [2, 3, 7] 0x18 4 && zero [2, 3] 0x1C 4 && decide (cCount c ≤ 4194304) && zero [2, 8] 0x20 8 &&
  zero [2, 8] 0x28 4 && zero [2, 8] 0x2C 4 && zero [2, 3] 0x40 64 &&
  (!(code == 2 || code == 8) || ((cRing c).va % 64 == 0 && within 1 16777216 (cRing c).entries)) &&
  (!(code == 2 || code == 3) || paramsOk (cParams c) (d.hdr hVOCAB) (d.hdr hMAXDRAFT))

/-- Completes a command. -/
def Dev.finishCmd (d : Dev) (c : SvcCmd) (status value : Nat) : Dev :=
  d.post c.sess (completionRecord 1 status (cCode c) (cSeq c) (cTag c) c.idx value)

/-! ## Ends of sequences (R308, R309, R349) -/

/-- A sequence ends: HELD, with an END record; what prefill has not processed is gone. -/
def Dev.endSeq (d : Dev) (q reason status : Nat) : Dev :=
  match d.svc with
  | some v =>
    let e := v.seq q
    let toks := if e.state = 1 then e.tokens.take e.done else e.tokens
    let d := d.updSeq q fun e => { e with state := 3, tokens := toks }
    match e.owner with
    | some s => d.post s (completionRecord 2 status reason q 0 0 toks.length)
    | none => d
  | none => d

/-- Returns a sequence to FREE with its reservations. -/
def Dev.freeSeq (d : Dev) (q : Nat) : Dev := d.updSeq q fun _ => {}

/-- The CANCELs and CLOSEs of a sequence take effect: after its END record they complete. -/
def Dev.settleSeq (d : Dev) (q : Nat) : Dev :=
  match d.svc with
  | some v =>
    let e := v.seq q
    if e.ending.isEmpty && !e.closing then d
    else
      let d := if e.state = 1 ∨ e.state = 2 then d.endSeq q 3 stOk else d
      let d := d.updSeq q fun e => { e with ending := [], closing := false }
      let d := if e.closing then d.freeSeq q else d
      e.ending.foldl (fun d c => d.finishCmd c stOk 0) d
  | none => d

def Dev.settleAll (d : Dev) : Dev := (List.range 256).foldl (fun d q => d.settleSeq q) d

/-! ## Reservations (R303, R304) -/

/-- Bytes that a sequence of p pages needs in each tile of a barn that holds n heads: keys, window. -/
def Dev.keyNeed (d : Dev) (p n : Nat) : Nat := n * (ceilDiv p 704 * 128 * d.hdr hLAYERS)
def Dev.winNeed (d : Dev) (n : Nat) : Nat := n * (ceilDiv (d.hdr hLAYERS * d.hdr hWINDOW) 704 * 16384)

/-- Whether the pools of every barn of the layout hold sequences of these page counts. -/
def Dev.poolsHold (d : Dev) (v : Svc) (pages : List Nat) : Bool :=
  (List.range v.layout).all fun k =>
    let n := d.headsOf v k
    decide (sumNat (pages.map fun p => d.keyNeed p n) ≤ d.hdr hKEYPOOL) && decide (pages.length * d.winNeed n ≤ d.hdr hWINPOOL)

/-- Page slots that no sequence holds. -/
def Svc.slotsUsed (v : Svc) : List Nat := v.seqs.flatMap fun e => e.2.pages
def Svc.freeSlots (v : Svc) : List Nat := (List.range v.slots).filter fun q => !v.slotsUsed.contains q

/-- Whether a sequence holds its reservations: it is open and has not lost them (R304, R327). -/
def Seqn.reserves (e : Seqn) : Bool := e.state != 0 && !e.lost

/-- The pages of a sequence grown to an end length, if every pool meets it. -/
def Dev.reserve (d : Dev) (v : Svc) (q n : Nat) : Option (List Nat) :=
  let old := (v.seq q).pages
  let more := ceilDiv n 64 - old.length
  let others := (v.seqs.filter fun e => e.1 != q && e.2.reserves).map fun e => e.2.pages.length
  if v.slotsUsed.length + more ≤ v.slots ∧ d.poolsHold v ((old.length + more) :: others) then some (old ++ v.freeSlots.take more) else none

/-! ## The KV pool (R316, R327) -/

/-- The service declares each stack's pool as a block region with SHIFT 4 (R222, R316); region 0 is the model's (DESIGN CHOICE, log 145). -/
def Dev.declarePools (d : Dev) : Dev :=
  match d.svc with
  | some v =>
    let len := v.slots * framesPer (d.hdr hLAYERS) (d.hdr hHEADS) v.kvStacks.length * 16384
    let put (n : Nat) (d : Dev) (p : RegName × Nat) : Dev := d.writeHbm (r2 p.1 n 0) (BitVec.ofNat 32 p.2)
    v.kvStacks.foldl (fun d n =>
      let off := (d.rd (r2 .TRK_REGION0 n 0)).toNat / 2 * 2
      [(RegName.TRK_REGION0, off), (.TRK_REGION1, d.kvBase / 2 ^ 32 + 4 * 2 ^ 16), (.TRK_REGION2, len % 2 ^ 32), (.TRK_REGION3, len / 2 ^ 32),
        (.TRK_REGION0, d.kvBase % 2 ^ 32 + 1)].foldl (put n) d) d
  | none => d

/-- A sequence that loses its KV: an END record, whether it ran or was HELD; HELD with no usable tokens. -/
def Dev.loseKv (d : Dev) (q status : Nat) : Dev := (d.endSeq q 4 status).updSeq q fun e => { e with pages := [], lost := true }

/-- The sequences with pages lose them; the remaining stacks hold the pages from then on. -/
def Dev.loseStackKv (d : Dev) (v : Svc) : Dev :=
  let d := v.seqs.foldl (fun d e => if e.2.pages.isEmpty then d else d.loseKv e.1 stPoison) d
  let left := (List.range 20).filter fun k => v.kvStacks.contains k && d.stackIn k
  let f := framesPer (d.hdr hLAYERS) (d.hdr hHEADS) left.length
  let slots := if f = 0 then 0 else min (d.hdr hSLOTS) ((stackBytes - d.kvBase) / (f * 16384))
  let d := left.foldl (fun d k => d.zeroStack k d.kvBase (slots * f * 16384)) d
  (d.updSvc fun v => { v with kvStacks := left, slots := slots }).declarePools.settleAll

/-- The pool as the next OPEN finds it: a stack that has retired is out of it (R327). -/
def Dev.poolReady (d : Dev) : Dev :=
  match d.svc with
  | some v => if v.kvStacks.all d.stackIn then d else d.loseStackKv v
  | none => d

/-! ## Taking commands (R344-R346) -/

/-- Completion records promised to a session: those that wait, and those of commands under way. -/
def Svc.promised (v : Svc) (s : Nat) : Nat :=
  (v.waiting.filter fun w => w.1 == s).length + (match v.busy with | some c => boolNat (c.sess == s) | none => 0) +
  sumNat (v.seqs.map fun e => (e.2.ending.filter fun c => c.sess == s).length)

/-- Whether a session has a command waiting, and room for its completion. -/
def Dev.canTake (d : Dev) (v : Svc) (s : Nat) : Bool :=
  match v.session s with
  | some k =>
    decide (k.consumed < k.rung) &&
    (match ringFree k.ring.tail (d.cheadOf v s) k.ring.entries with | some n => decide (v.promised s < n) | none => false)
  | none => false

/-- The session whose command is taken next: round-robin in session order. -/
def Dev.nextSession (d : Dev) (v : Svc) : Option Nat := ((List.range 16).map fun i => (v.turn + i) % 16).find? fun s => d.canTake v s

/-- The entry of a session's next command. -/
def Dev.nextEntry (d : Dev) (v : Svc) (s : Nat) (k : Session) : SvcCmd :=
  ⟨s, k.consumed, d.readOwn (v.area + 0x1000 + s * 0x2000 + 128 * (k.consumed % 64)) 128⟩

/-- A session's next command is taken: CONSUMED is written, and the turn passes on. -/
def Dev.consume (d : Dev) (s : Nat) (k : Session) : Dev :=
  (d.hostWrite k.qp (k.ring.va + 0x18) k.ring.key (bytesLE (k.consumed + 1) 8)).updSvc fun v =>
    { v.setSession s (some { k with consumed := k.consumed + 1 }) with turn := (s + 1) % 16 }

/-- Takes the next command of a session if it is its turn and the command's code is one of the row's; CONSUMED is written. -/
def Dev.command (d : Dev) (s : Nat) (mine : Nat → Bool) (f : Dev → SvcCmd → Dev) : Dev :=
  match d.svc with
  | some v =>
    match v.session s with
    | some k =>
      let c := d.nextEntry v s k
      d.when (v.busy.isNone && d.nextSession v == some s && mine (cCode c)) fun d =>
        let d := d.consume s k
        if mine 0 || d.entryOk c then f d c
        else d.finishCmd c stMalformed (match cCode c with
          | 3 | 8 => if cSeq c < 256 then (v.seq (cSeq c)).tokens.length else 0
          | 7 => 96
          | _ => 0)
    | none => d
  | none => d

/-- The doorbell (R344). -/
def Dev.doorbell (d : Dev) (qp : Nat) (imm : W32) : Dev :=
  match d.svc with
  | some v =>
    match (v.sessions.find? fun e => match e.2 with | some k => k.qp == qp | none => false) with
    | some (s, some k) =>
      let d := d.updQp qp fun q => { q with heard := d.beat }
      let diff := signed 32 ((imm.toNat + 2 ^ 32 - k.consumed % 2 ^ 32) % 2 ^ 32)
      if diff ≤ 0 then d
      else if diff ≤ 64 then d.updSvc fun v => v.setSession s (some { k with rung := max k.rung (k.consumed + diff.toNat) })
      else
        let (bs, d) := d.freeBytes 24
        d.post s (completionRecord 1 stBounds 0xFF 0 (fieldLE bs 0 8) (fieldLE bs 8 8) (fieldLE bs 16 8))
    | _ => d
  | none => d

/-! ## NOP and the status record (R328, R348) -/

/-- NOP, and the codes that Table 10-7 does not assign. -/
def execSvcNop (sess : Nat) (s : State) : Out :=
  onUnit (decide (sess < 16)) s fun d =>
    d.command sess (fun k => k == 1 || !within 1 8 k) fun d c =>
      if d.entryOk c then d.finishCmd c stOk 0
      else if cCode c = 1 then d.finishCmd c stMalformed 0
      else
        let (bs, d) := d.freeBytes 8
        d.finishCmd c stMalformed (fieldLE bs 0 8)

/-- The record of Table 09-6. -/
def Dev.statusRecord (d : Dev) (v : Svc) : List Byte :=
  let openSeqs := (v.seqs.filter fun e => e.2.state != 0).length
  [1, d.svcState v, v.layout, openSeqs, v.slots - v.slotsUsed.length, 0].flatMap (fun n => bytesLE n 4) ++
  (List.range 9).flatMap fun i => bytesLE (v.stats.get (fun _ => 0) (0x18 + 8 * i)) 8

/-- READ_STATUS. -/
def Dev.readStatusCmd (d : Dev) (sess : Nat) (c : SvcCmd) : Dev :=
  match d.svc with
  | some v =>
    let d := match v.session sess with
      | some k => d.hostWrite k.qp (cVa c) (cKey c) (d.statusRecord v)
      | none => d
    d.finishCmd c stOk 96
  | none => d

def execReadStatus (sess : Nat) (s : State) : Out :=
  onUnit (decide (sess < 16)) s fun d =>
    d.command sess (· == 7) fun d c =>
      d.readStatusCmd sess c

/-! ## OPEN and APPEND (R303) -/

/-- The RDMA READ of a command's tokens; a command of no tokens goes on at once. -/
def Dev.readTokens (d : Dev) (c : SvcCmd) (go : Dev → SvcCmd → List Nat → Dev) : Dev :=
  if cCount c = 0 then go d c []
  else
    match d.svc.bind fun v => v.session c.sess with
    | some k =>
      let d := d.qpRequest k.qp (.read (cVa c) (cKey c) (4 * cCount c))
      { d.updSvc fun v => { v with busy := some c } with reads := d.reads ++ [(k.qp, .cmd c)] }
    | none => d

/-- A sequence begins its prefill, decodes on, or ends at once (R303, R308, R347). -/
def Dev.beginSeq (d : Dev) (q : Nat) (toks : List Nat) : Dev :=
  match d.svc with
  | some v =>
    let e := v.seq q
    let d := (d.updSeq q fun e => { e with order := v.orders }).updSvc fun v => { v with orders := v.orders + 1 }
    if !toks.isEmpty then d.updSeq q fun e => { e with state := 1 }
    else if !e.tokens.isEmpty && pMaxNew e.params != 0 then d.updSeq q fun e => { e with state := 2 }
    else d.endSeq q 1 stOk
  | none => d

/-- An OPEN whose tokens are here. -/
def Dev.openSeq (d : Dev) (c : SvcCmd) (toks : List Nat) : Dev :=
  let d := d.poolReady
  match d.svc with
  | some v =>
    let q := cSeq c
    let n := toks.length + pMaxNew (cParams c)
    if toks.any fun t => decide (d.hdr hVOCAB ≤ t) then d.finishCmd c stMalformed 0
    else if (v.seq q).state ≠ 0 ∨ v.stopped.isSome then d.finishCmd c stDenied 0
    else
      match d.reserve v q n with
      | some pages =>
        if decide (4194304 < n) || decide ((cRing c).entries < 1 + pDraft (cParams c)) then d.finishCmd c stBounds 0
        else
          let e : Seqn := { owner := some c.sess, params := cParams c, ring := cRing c, tokens := toks, pages := pages }
          let d := d.updSeq q fun _ => e
          let d := match v.session c.sess with
            | some k => d.hostWrite k.qp e.ring.va e.ring.key (bytesLE 0 8)
            | none => d
          (d.finishCmd c stOk 0).beginSeq q toks
      | none => d.finishCmd c stBounds 0
  | none => d

/-- An APPEND whose tokens are here. -/
def Dev.appendSeq (d : Dev) (c : SvcCmd) (toks : List Nat) : Dev :=
  match d.svc with
  | some v =>
    let q := cSeq c
    let e := v.seq q
    let n := e.tokens.length + toks.length + pMaxNew (cParams c)
    let no (st : Nat) : Dev := d.finishCmd c st e.tokens.length
    if toks.any fun t => decide (d.hdr hVOCAB ≤ t) then no stMalformed
    else if e.state ≠ 3 ∨ e.owner ≠ some c.sess ∨ e.lost ∨ v.stopped.isSome then no stDenied
    else
      match d.reserve v q n with
      | some pages =>
        if 4194304 < n then no stBounds
        else
          let d := d.updSeq q fun e => { e with params := cParams c, tokens := e.tokens ++ toks, pages := pages, streamed := 0 }
          (d.finishCmd c stOk (e.tokens.length + toks.length)).beginSeq q toks
      | none => no stBounds
  | none => d

def execSvcOpen (sess : Nat) (s : State) : Out :=
  onUnit (decide (sess < 16)) s fun d => d.command sess (· == 2) fun d c => d.readTokens c Dev.openSeq

def execSvcAppend (sess : Nat) (s : State) : Out :=
  onUnit (decide (sess < 16)) s fun d => d.command sess (· == 3) fun d c => d.readTokens c Dev.appendSeq

/-- The host's answer to a command's READ (R349). -/
def Dev.tokensRead (d : Dev) (c : SvcCmd) (ok : Bool) (data : List Byte) : Dev :=
  let d := d.updSvc fun v => { v with busy := none }
  let toks := (List.range (cCount c)).map fun i => fieldLE data (4 * i) 4
  let held := match d.svc with | some v => (v.seq (cSeq c)).tokens.length | none => 0
  if !ok then d.finishCmd c stDenied (if cCode c = 3 then held else 0)
  else if cCode c = 2 then d.openSeq c toks else d.appendSeq c toks

/-! ## What may run (R305, R306) -/

/-- Whether a round or a chunk may run: the service generates, and every stack of its pool is in service. -/
def Dev.canRound (d : Dev) : Bool :=
  match d.svc with
  | some v => d.generating && v.kvStacks.all d.stackIn
  | none => false

/-- Whether a sequence in DECODE has room in its token ring for a round (R352). -/
def Dev.hasRoom (d : Dev) (v : Svc) (q : Nat) : Bool :=
  let e := v.seq q
  match ringFree e.ring.tail (d.headOf v q) e.ring.entries with
  | some n => decide (1 + pDraft e.params ≤ n)
  | none => false

/-- Sequences taken in order while their rows stay at or below 16 (R306). -/
def takeRows (v : Svc) : Nat → List Nat → List Nat
  | _, [] => []
  | rows, q :: t => let r := rows + 1 + pDraft (v.seq q).params; if r ≤ 16 then q :: takeRows v r t else []

/-- The sequences in DECODE in the order of R306, and those that the next round admits. -/
def Svc.decoding (v : Svc) : List Nat :=
  ((List.range 256).map fun k => (v.lastAdmitted + 1 + k) % 256).filter fun q => (v.seq q).state == 2
def Dev.admitted (d : Dev) (v : Svc) : List Nat := takeRows v 0 (v.decoding.filter fun q => d.hasRoom v q)

/-- The sequence in PREFILL that is served (R305): the first accepted. -/
def Svc.prefilling (v : Svc) : Option Nat :=
  ((sortBy (fun a b => decide (a.2.order ≤ b.2.order)) (v.seqs.filter fun e => e.2.state == 1)).head?).map (·.1)

/-- Whether a round or a chunk is under way: the service runs them back to back while one may run. -/
def Dev.underWay (d : Dev) : Bool :=
  match d.svc with
  | some v => d.canRound && (v.prefilling.isSome || !(d.admitted v).isEmpty)
  | none => false

/-- A ring's head is looked at: HEAD_ERR counts once while it is out of range (R352). -/
def Dev.lookAt (d : Dev) (r : HostRing) (head : Nat) (put : Dev → HostRing → Dev) : Dev :=
  let odd := headOdd r.tail head r.entries
  let d := if odd && !r.odd then d.inc (r0 .HEAD_ERR) Fld.HEAD_ERR_HEAD_ERR else d
  if odd = r.odd then d else put d { r with odd := odd }

/-- The heads of the rings that the service is about to use: token rings of sequences in DECODE, completion rings of sessions with a
command or a record waiting. -/
def Dev.edgeHeads (d : Dev) : Dev :=
  match d.svc with
  | some v =>
    let d := v.decoding.foldl (fun d q =>
      d.lookAt (v.seq q).ring (d.headOf v q) fun d r => d.updSeq q fun e => { e with ring := r }) d
    v.sessions.foldl (fun d e => match e.2 with
      | some k =>
        if k.consumed < k.rung || v.waiting.any fun w => w.1 == e.1 then
          d.lookAt k.ring (d.cheadOf v e.1) fun d r => d.updSvc fun v => v.setSession e.1 (some { k with ring := r })
        else d
      | none => d) d
  | none => d

/-! ## CANCEL, CLOSE, ADOPT (R309, R346, R349, R354) -/

/-- A CANCEL or CLOSE of a sequence: at once where no round or chunk is under way. -/
def Dev.cancelCmd (d : Dev) (c : SvcCmd) (close : Bool) : Dev :=
  match d.svc with
  | some v =>
    let e := v.seq (cSeq c)
    if e.state = 0 ∨ e.owner ≠ some c.sess then d.finishCmd c stDenied 0
    else if e.state = 3 then
      let d := d.finishCmd c stOk 0
      if close then d.freeSeq (cSeq c) else d
    else
      let d := d.updSeq (cSeq c) fun e => { e with ending := e.ending ++ [c], closing := e.closing || close }
      if d.underWay then d else d.settleSeq (cSeq c)
  | none => d

def execSvcCancel (sess : Nat) (s : State) : Out :=
  onUnit (decide (sess < 16)) s fun d => d.command sess (· == 4) fun d c => d.cancelCmd c false

def execSvcClose (sess : Nat) (s : State) : Out :=
  onUnit (decide (sess < 16)) s fun d => d.command sess (· == 5) fun d c => d.cancelCmd c true

/-- ADOPT. -/
def Dev.adoptCmd (d : Dev) (sess : Nat) (c : SvcCmd) : Dev :=
  match d.svc with
  | some v =>
    let e := v.seq (cSeq c)
    if e.state ≠ 3 ∨ e.owner.isSome ∨ e.adoptBy < d.beat then d.finishCmd c stDenied e.tokens.length
    else if (cRing c).entries < 1 + pDraft e.params then d.finishCmd c stBounds e.tokens.length
    else
      let d := d.updSeq (cSeq c) fun e => { e with owner := some sess, adoptBy := 0, ring := cRing c }
      let d := match v.session sess with
        | some k => d.hostWrite k.qp (cRing c).va (cRing c).key (bytesLE 0 8)
        | none => d
      d.finishCmd c stOk e.tokens.length
  | none => d

def execAdopt (sess : Nat) (s : State) : Out :=
  onUnit (decide (sess < 16)) s fun d =>
    d.command sess (· == 8) fun d c =>
      d.adoptCmd sess c

/-! ## Sessions (R342, R354) -/

/-- Every sequence of a session is left: cancelled and held for adoption, or closed. -/
def Dev.leaveSeqs (d : Dev) (s : Nat) (hold : Option Nat) : Dev :=
  (List.range 256).foldl (fun d q =>
    match d.svc with
    | some v =>
      let e := v.seq q
      if e.state ≠ 0 ∧ e.owner = some s then
        let d := d.updSeq q fun e => { e with owner := none, ending := [] }
        let d := if e.state = 3 then d else d.endSeq q 3 stOk
        match hold with
        | some t => if e.closing then d.freeSeq q else d.updSeq q fun e => { e with adoptBy := d.beat + t }
        | none => d.freeSeq q
      else d
    | none => d) d

/-- A session ends: its commands, its completions and its READs are gone. -/
def Dev.dropSession (d : Dev) (s : Nat) (k : Session) (hold : Option Nat) : Dev :=
  let d := d.leaveSeqs s hold
  { d.updSvc fun v =>
      { v.setSession s none with
        waiting := v.waiting.filter fun w => w.1 != s
        busy := match v.busy with | some c => if c.sess = s then none else some c | none => none } with
    reads := d.reads.filter fun r => match r.2 with | .cmd _ => r.1 != k.qp | .act _ => true }

/-- A session whose QP is in error, or from which nothing came for LEASE beats, is lost. -/
def execSessionLost (sess : Nat) (s : State) : Out :=
  onUnit (decide (sess < 16)) s fun d =>
    match d.svc.bind fun v => v.session sess with
    | some k =>
      let idle := match d.qp k.qp with
        | some q => !q.up || decide (q.heard + (d.rd (r0 .ETH_LEASE)).toNat ≤ d.beat)
        | none => true
      d.when idle fun d =>
        let hold := d.getF (r0 .ETH_ADOPT) Fld.ETH_ADOPT_ADOPT_HOLD * 1000000
        ((d.dropSession sess k (some hold)).qpError k.qp).setQp k.qp none |>.inc (r0 .ETH_SESSION_LOST) Fld.ETH_SESSION_LOST_LOST
    | none => d

/-- A sequence that no session adopted in time is closed. -/
def execAdoptHoldExpire (i : Nat) (s : State) : Out :=
  onUnit (decide (i < 256)) s fun d =>
    match d.svc with
    | some v =>
      let e := v.seq i
      d.when (e.state == 3 && e.owner.isNone && decide (e.adoptBy ≤ d.beat)) fun d => d.freeSeq i
    | none => d

end Sys2Proof.Machine
end

