-- ==== Sys2Proof/Machine/Sampler.lean ====
section
/-! DEFINITION. Sampling, draft and verify (R310-R313): from FP32 logits to the tokens of a round. Probabilities are FP32 codes; a
distribution is a list of (token, code) in the order in which its sums run. -/

namespace Sys2Proof.Machine

/-! ## FP32 arithmetic, rounded to nearest even -/

def f32Num (c : Nat) : Num := fp32.decode c
def f32Mul (a b : Nat) : Nat := fp32.encode false .nearest ((f32Num a).mul (f32Num b))
def f32Neg (a : Nat) : Nat := if bitOf a 31 then a - 2 ^ 31 else a + 2 ^ 31
def f32Sub (a b : Nat) : Nat := fp32Add a (f32Neg b)
def f32Lt (a b : Nat) : Bool := (f32Num a).lt (f32Num b)
def f32Le (a b : Nat) : Bool := !(f32Lt b a) && f32Num a != .nan && f32Num b != .nan
def f32IsNan (a : Nat) : Bool := f32Num a == .nan

def f32Div (a b : Nat) : Nat :=
  fp32.encode false .nearest (match f32Num a, f32Num b with
    | .nan, _ => .nan
    | _, .nan => .nan
    | .inf _, .inf _ => .nan
    | .inf s, .fin t _ _ => .inf (s != t)
    | .fin s _ e, .inf t => .fin (s != t) 0 e
    | .fin s m e, .fin t n g =>
      if n = 0 then (if m = 0 then .nan else .inf (s != t))
      else ratNum (s != t) ((Num.fin false m e).toRat / (Num.fin false n g).toRat))

/-- The sum of FP32 codes in the order given. -/
def f32Sum (l : List Nat) : Nat := l.foldl fp32Add 0

/-- A distribution: tokens with their codes. -/
abbrev Dist := List (Nat × Nat)

/-- Descending by code, ties by ascending token. -/
def distBefore (a b : Nat × Nat) : Bool := f32Lt b.2 a.2 || (!f32Lt a.2 b.2 && decide (a.1 ≤ b.1))

def distSort (l : Dist) : Dist := sortBy distBefore l

/-- Every code over their sum, which runs in the order of the list. -/
def normalise (l : Dist) : Dist :=
  let s := f32Sum (l.map (·.2))
  l.map fun p => (p.1, f32Div p.2 s)

/-- The shortest prefix whose sum reaches a mass. -/
def massPrefix (mass : Nat) : Nat → Dist → Dist
  | _, [] => []
  | s, p :: t => let s := fp32Add s p.2; if f32Le mass s then [p] else p :: massPrefix mass s t

/-! ## The distribution of R311 -/

/-- The logits after the repeat penalty, by token. -/
def penalised (p : List Byte) (z : List W32) (hist : List Nat) : Dist :=
  let seen := hist.drop (hist.length - pField p 0x14)
  let pen := pField p 0x0C
  z.zipIdx.map fun e =>
    let c := e.1.toNat
    (e.2, if seen.contains e.2 then (if f32Lt 0 c then f32Div c pen else f32Mul c pen) else c)

/-- The distribution of one position, and the NaN logits excluded; empty where every logit is NaN. -/
def distribution (p : List Byte) (z : List W32) (hist : List Nat) : Dist × Nat :=
  let l := (penalised p z hist).filter fun e => !f32IsNan e.2
  let nan := z.length - l.length
  let one := fp32.encode false .nearest (.fin false 1 0)
  let temp := pField p 0
  match distSort l with
  | [] => ([], nan)
  | top :: rest =>
    if temp % 2 ^ 31 = 0 then ([(top.1, one)], nan)
    else
      let c := (top :: rest).take (pField p 0x10)
      let e := c.map fun t => (t.1, fnExp (f32Num (f32Div (f32Sub t.2 top.2) temp)))
      let c := massPrefix (pField p 4) 0 (distSort (normalise e))
      let floor := f32Mul (pField p 8) (match c with | t :: _ => t.2 | [] => 0)
      (if c.any fun t => f32IsNan t.2 then e else normalise (c.filter fun t => f32Le floor t.2), nan)

/-- The token that a draw takes: the first at which the running sum exceeds u, else the last. A sum that is no number (a logit of
+infinity) leaves the choice open: a free member. -/
def pickFrom (u : Nat) : Nat → Dist → Nat → Nat
  | _, [], last => last
  | s, p :: t, _ => let s := fp32Add s p.2; if f32Lt u s then p.1 else pickFrom u s t p.1

def pickToken (l : Dist) (u free : Nat) : Nat :=
  if l.any fun t => f32IsNan t.2 then (nth l ((Config.freeWord free).toNat % max 1 l.length) (0, 0)).1 else pickFrom u 0 l 0

/-- u of a draw: w[63:40] × 2^-24. -/
def drawUnit (w : W64) : Nat := fp32.encode false .nearest (.fin false (w.toNat / 2 ^ 40) (-24))

/-- The residual of R313, in descending order. -/
def residual (p q : Dist) : Dist :=
  let qOf (t : Nat) : Nat := match q.find? fun e => e.1 == t with | some e => e.2 | none => 0
  let r := (p.map fun e => (e.1, f32Sub e.2 (qOf e.1))).filter fun e => f32Lt 0 e.2
  if (p ++ q).any fun t => f32IsNan t.2 then p else if r.isEmpty then p else normalise (distSort r)

/-! ## A sequence's part of a round (R312, R313) -/

/-- The tokens of a round so far; drafts proposed and accepted; NaN logits; a position whose logits were all NaN; draws and free
values taken. -/
structure Samp where
  toks : List Nat := []
  drafted : Nat := 0
  accepted : Nat := 0
  nan : Nat := 0
  fault : Bool := false
  draws : Nat
  fresh : Nat

/-- One draw of the sequence's generator (R158, R312). -/
def Samp.draw (s : Samp) (p : List Byte) : Nat × Samp :=
  (drawUnit (rngDraw (BitVec.ofNat 64 (fieldLE p 0x18 8)) (BitVec.ofNat 64 s.draws)), { s with draws := s.draws + 1 })

/-- A token drawn from a distribution. -/
def Samp.token (s : Samp) (p : List Byte) (l : Dist) : Nat × Samp :=
  let (u, s) := s.draw p
  (pickToken l u s.fresh, { s with fresh := s.fresh + 1 })

/-- The draft stage: each token from its own distribution, after those before it. -/
def draftStage (p : List Byte) (hist : List Nat) : List (List W32) → Samp → List (Nat × Dist) → List (Nat × Dist) × Samp
  | [], s, xs => (xs, s)
  | z :: t, s, xs =>
    let (q, n) := distribution p z (hist ++ xs.map (·.1))
    let s := { s with nan := s.nan + n }
    if q.isEmpty then (xs, { s with fault := true })
    else
      let (x, s) := s.token p q
      draftStage p hist t { s with drafted := s.drafted + 1 } (xs ++ [(x, q)])

/-- The target's positions: drafted tokens are accepted in order, and one token is drawn at the end. -/
def verifyStage (p : List Byte) (hist : List Nat) : List (Nat × Dist) → List (List W32) → Samp → Samp
  | _, [], s => s
  | xs, z :: zs, s =>
    let (l, n) := distribution p z (hist ++ s.toks)
    let s := { s with nan := s.nan + n }
    if l.isEmpty then { s with fault := true }
    else
      match xs with
      | [] => let (t, s) := s.token p l; { s with toks := s.toks ++ [t] }
      | (x, q) :: rest =>
        let (u, s) := s.draw p
        let at' (m : Dist) : Nat := match m.find? fun e => e.1 == x with | some e => e.2 | none => 0
        if f32Lt (f32Mul u (at' q)) (at' l) then
          verifyStage p hist rest zs { s with toks := s.toks ++ [x], accepted := s.accepted + 1 }
        else
          let (t, s) := s.token p (residual l q)
          { s with toks := s.toks ++ [t] }

/-- A sequence's part of a round. -/
def sampleSeq (e : Seqn) (o : RoundOut) (fresh : Nat) : Samp :=
  let (xs, s) := draftStage e.params e.tokens o.draft { draws := e.draws, fresh := fresh } []
  if s.fault then s else verifyStage e.params e.tokens xs o.target s

/-- What a sequence keeps of the tokens drawn: up to the one that reaches MAX_NEW, or a stop token; the reason, 0 where it goes on. -/
def keepTokens (p : List Byte) : Nat → List Nat → List Nat × Nat
  | _, [] => ([], 0)
  | n, t :: rest =>
    if pMaxNew p ≤ n + 1 then ([t], 1)
    else if (pStops p).contains t then ([t], 2)
    else let (k, r) := keepTokens p (n + 1) rest; (t :: k, r)

end Sys2Proof.Machine
end

