-- ==== Sys2Proof/Machine/Rounds.lean ====
section
/-! DEFINITION. The generation service at work: KV frames, block keys and windows (R315-R318), prefill chunks and decode rounds
(R305-R309, R314, R325), weights (R300, R301, R488), and what it does when the shape changes (R326, R327, R353). -/

namespace Sys2Proof.Machine

/-! ## KV frames, block keys, windows -/

/-- The stack and stack address of frame j of a page slot (R316). -/
def Dev.frameAt (d : Dev) (v : Svc) (slot j : Nat) : Nat × Nat :=
  let w := max 1 v.kvStacks.length
  let f := framesPer (d.hdr hLAYERS) (d.hdr hHEADS) v.kvStacks.length
  (nth v.kvStacks ((slot + j) % w) 0, d.kvBase + (slot * f + j / w) * 16384)

/-- Bytes written to a stack by the service. -/
def Dev.writeStack (d : Dev) (n a : Nat) (bs : List Byte) : Dev :=
  ((d.dropLines n a bs.length).addPair (r1 .HBM_WRITE_BYTES_LO n) (r1 .HBM_WRITE_BYTES_HI n) bs.length).writeStackMarked (hbmBase n + a) bs []

/-- The K and V of a position (R315): what the act's models computed, free bytes here. -/
def Dev.writeKv (d : Dev) (v : Svc) (pages : List Nat) (pos : Nat) : Dev :=
  let slot := nth pages (pos / 64) 0
  (List.range (d.hdr hLAYERS * d.hdr hHEADS)).foldl (fun d j =>
    let p := d.frameAt v slot j
    let (k, d) := d.freeBytes 128
    let (u, d) := d.freeBytes 128
    (d.writeStack p.1 (p.2 + 128 * (pos % 64)) k).writeStack p.1 (p.2 + 8192 + 128 * (pos % 64)) u) d

/-- The E2M1 codes in ascending order of value. -/
def e2m1Codes : List Nat := [15, 14, 13, 12, 11, 10, 9, 0, 1, 2, 3, 4, 5, 6, 7]

/-- One byte of a block key from the 64 keys of a dimension (R317): [3:0] the upper bound, [7:4] the lower; free where a key is NaN. -/
def keyByte (ks : List Num) (free : Byte) : Byte :=
  match ks with
  | [] => free
  | k :: t =>
    let hi := t.foldl (fun a b => if a.lt b then b else a) k
    let lo := t.foldl (fun a b => if b.lt a then b else a) k
    let up := (e2m1Codes.find? fun c => !(e2m1.decode c).lt hi).getD 7
    let dn := (e2m1Codes.reverse.find? fun c => !lo.lt (e2m1.decode c)).getD 15
    if ks.any fun x => x == .nan then free else BitVec.ofNat 8 (up + 16 * dn)

/-- The key of block b in layer l and head h, written into its tile's slice (R317, R318). -/
def Dev.formKey (d : Dev) (v : Svc) (q : Nat) (pages : List Nat) (b l h : Nat) : Dev :=
  match d.siteOf (d.headBarn v h) (b % 704) with
  | some x =>
    let p := d.frameAt v (nth pages b 0) (d.hdr hHEADS * l + h)
    let key (s i : Nat) : Num := (e4m3.decode (d.byte (hbmBase p.1 + p.2 + 128 * s + i)).toNat).scale (-(d.keyExp l))
    let (fr, d') := d.freeBytes 128
    let bs := (List.range 128).map fun i => keyByte ((List.range 64).map fun s => key s i) (nth fr i 0)
    let a := loftBase + (Config.keyRun q l h v.layout + b / 704) * 128 % 0x1000000
    d'.writeLocal (d.headBarn v h) x a bs []
  | none => d

/-- The copy of block b's frame in its window block (R318). -/
def Dev.copyWindow (d : Dev) (v : Svc) (q : Nat) (pages : List Nat) (b l h : Nat) : Dev :=
  let n := d.hdr hWINDOW
  let i := b % max 1 n
  match d.siteOf (d.headBarn v h) ((l * n + i) % 704) with
  | some x =>
    let p := d.frameAt v (nth pages b 0) (d.hdr hHEADS * l + h)
    let a := hbmBase p.1 + p.2
    d.writeLocal (d.headBarn v h) x (loftBase + Config.windowRun q l h i % 1024 * 16384) (d.readBytes a 16384) (d.marksOf a 16384)
  | none => d

/-- Keys and windows of the blocks that positions from lo on, below hi, touch, hi being the sequence's length; sel picks barns and
tiles. -/
def Dev.touchBlocks (d : Dev) (v : Svc) (q : Nat) (pages : List Nat) (lo hi : Nat) (sel : Nat → Nat → Bool) : Dev :=
  if hi ≤ lo then d
  else
    let c := (hi - 1) / 64
    let n := d.hdr hWINDOW
    let lh := (List.range (d.hdr hLAYERS)).flatMap fun l => (List.range (d.hdr hHEADS)).map fun h => (l, h)
    ((List.range (c + 1)).drop (lo / 64)).foldl (fun d b =>
      lh.foldl (fun d p =>
        let k := d.headBarn v p.2
        let d := if 64 * (b + 1) ≤ hi ∧ sel k (b % 704) then d.formKey v q pages b p.1 p.2 else d
        if c < b + n ∧ sel k ((p.1 * n + b % max 1 n) % 704) then d.copyWindow v q pages b p.1 p.2 else d) d) d

/-- The keys and windows of every open sequence rebuilt from its frames (Table 09-5, R326). -/
def Dev.rebuild (d : Dev) (sel : Nat → Nat → Bool) : Dev :=
  match d.svc with
  | some v =>
    v.seqs.foldl (fun d e => if e.2.state = 0 ∨ e.2.lost then d else d.touchBlocks v e.1 e.2.pages 0 e.2.done sel) d
  | none => d

/-! ## Chunks and rounds -/

/-- Whether a chunk is due before the next round. -/
def Dev.chunkDue' (d : Dev) (v : Svc) : Bool := v.prefilling.isSome && decide (d.hdr hEVERY ≤ v.since)

/-- Every service tile executes YIELD (R299): the YIELD stands at its core's PC (DESIGN CHOICE, log 147). -/
def Dev.serviceYield (d : Dev) : Dev :=
  d.serviceSites.foldl (fun d p => if d.coreReady p.1 p.2 then (d.issued p.1 p.2).yieldAt p.1 p.2 else d) d

/-- A prefill chunk of a sequence. -/
def Dev.prefillChunk (d : Dev) (v : Svc) (q : Nat) : Dev :=
  let e := v.seq q
  let n := min (d.hdr hCHUNK) (e.tokens.length - e.done)
  let d := ((List.range n).map (e.done + ·)).foldl (fun d pos => d.writeKv v e.pages pos) d
  let d := d.touchBlocks v q e.pages e.done (e.done + n) fun _ _ => true
  let d := ((d.updSeq q fun e => { e with done := e.done + n }).stat 0x58 n).updSvc fun v => { v with since := 0 }
  if e.done + n < e.tokens.length then d
  else if pMaxNew e.params = 0 then d.endSeq q 1 stOk
  else d.updSeq q fun e => { e with state := 2 }

/-- The next chunk, back to back while no sequence can decode, else after PREFILL_EVERY rounds. -/
def execPrefillChunk (i : Nat) (s : State) : Out :=
  onUnit (decide (i < 256)) s fun d =>
    match d.svc with
    | some v =>
      d.when (d.canRound && v.prefilling == some i && ((d.admitted v).isEmpty || d.chunkDue' v)) fun d =>
        (d.prefillChunk v i).settleAll.serviceYield
    | none => d

/-- The record of a streamed token (Table 10-8). -/
def tokenRecord (q pos tok beat : Nat) : List Byte := bytesLE tok 4 ++ bytesLE (pos % 2 ^ 23 + q * 2 ^ 24) 4 ++ bytesLE beat 8

/-- A round's tokens of a sequence go to its ring, then TAIL (R307, R351). -/
def Dev.streamTokens (d : Dev) (v : Svc) (q : Nat) (toks : List Nat) : Dev :=
  let e := v.seq q
  match e.owner.bind fun s => v.session s with
  | some k =>
    let n := max 1 e.ring.entries
    let d := toks.zipIdx.foldl (fun d t =>
      d.hostWrite k.qp (e.ring.va + 64 + 16 * ((e.ring.tail + t.2) % n)) e.ring.key
        (tokenRecord q (e.tokens.length + t.2) t.1 d.beat)) d
    d.hostWrite k.qp e.ring.va e.ring.key (bytesLE (e.ring.tail + toks.length) 8)
  | none => d

/-- The KV of the positions that a round evaluates: DRAFT + 1 from the sequence's length on. That of positions that are not accepted
stays in its frames and counts for nothing (R314, R315). -/
def Dev.evaluate (d : Dev) (v : Svc) (q : Nat) : Dev :=
  let e := v.seq q
  (((List.range (1 + pDraft e.params)).map (e.tokens.length + ·)).filter fun pos => decide (pos < 64 * e.pages.length)).foldl
    (fun d pos => d.writeKv v e.pages pos) d

/-- What a round leaves of a sequence: its tokens kept, streamed and with their KV; its end, if it ends. -/
def Dev.applySamp (d : Dev) (v : Svc) (q : Nat) (r : Samp) : Dev :=
  let e := v.seq q
  let (keep, reason) := keepTokens e.params e.streamed r.toks
  let len := e.tokens.length
  let d := (((d.stat 0x28 r.drafted).stat 0x30 r.accepted).stat 0x38 r.nan).stat 0x18 keep.length
  let d := if keep.isEmpty then d else d.streamTokens v q keep
  let d := d.updSeq q fun e =>
    { e with
      tokens := e.tokens ++ keep
      done := len + keep.length
      streamed := e.streamed + keep.length
      ring := { e.ring with tail := e.ring.tail + keep.length } }
  let d := d.evaluate v q
  let d := d.touchBlocks v q e.pages len (len + keep.length) fun _ _ => true
  if reason ≠ 0 then d.endSeq q reason stOk else if r.fault then d.endSeq q 4 stPoison else d

/-- The parts of a round, one sequence after another. -/
def sampleAll (v : Svc) : List RoundOut → Nat → List (Nat × Samp)
  | [], _ => []
  | o :: t, fresh => let r := sampleSeq (v.seq o.seq) o fresh; (o.seq, r) :: sampleAll v t r.fresh

/-- Whether the models' outputs have the form that the sequences' drafts ask for. -/
def Dev.outsFit (d : Dev) (v : Svc) (outs : List RoundOut) : Bool :=
  outs.all fun o =>
    let n := pDraft (v.seq o.seq).params
    o.target.length == n + 1 && o.draft.length == n && (o.target ++ o.draft).all fun z => z.length == d.hdr hVOCAB

/-- Sequences whose frames hold an own yard address. -/
def Dev.framesHold (d : Dev) (v : Svc) (a : Nat) : List Nat :=
  let f := framesPer (d.hdr hLAYERS) (d.hdr hHEADS) v.kvStacks.length
  if addrTarget a < 8 ∨ 28 ≤ addrTarget a ∨ addrOffset a < d.kvBase ∨ f = 0 then []
  else
    let slot := (addrOffset a - d.kvBase) / 16384 / f
    (v.seqs.filter fun e => e.2.pages.contains slot && v.kvStacks.contains (addrTarget a - 8)).map (·.1)

/-- A round that a fault discards (R325): its draws stay taken. A second POISON at one address ends the sequences whose frames hold
it. -/
def Dev.discardRound (d : Dev) (v : Svc) (fault : RoundFault) : Dev :=
  let d := d.stat 0x40 1
  match fault with
  | .poison a =>
    if v.poisonAt = some a then
      (d.framesHold v a).foldl (fun d q => if (v.seq q).state = 1 ∨ (v.seq q).state = 2 then d.endSeq q 4 stPoison else d)
        (d.updSvc fun v => { v with poisonAt := none })
    else d.updSvc fun v => { v with poisonAt := some a }
  | _ => d

/-- One decode round of the admitted sequences. -/
def Dev.runRound (d : Dev) (v : Svc) (outs : List RoundOut) (fault : RoundFault) (beats : Nat) : Dev :=
  let adm := d.admitted v
  let rs := sampleAll v outs d.fresh
  let d := { d with fresh := rs.foldl (fun (_ : Nat) (r : Nat × Samp) => r.2.fresh) d.fresh }
  let d := rs.foldl (fun d r => d.updSeq r.1 fun e => { e with draws := r.2.draws }) d
  let d := d.updSvc fun v => { v with lastAdmitted := (adm.getLast?).getD v.lastAdmitted }
  if fault ≠ .none then ((adm.foldl (fun d q => d.evaluate v q) d).discardRound v fault).settleAll.serviceYield
  else
    let d := rs.foldl (fun d r => d.applySamp v r.1 r.2) d
    let d := (d.stat 0x20 1).updSvc fun v =>
      { v with since := v.since + 1, poisonAt := none, stats := v.stats.set (fun _ => 0) 0x50 beats }
    d.settleAll.serviceYield

/-- A decode round: outs holds what the models computed for the sequences admitted, in their order; beats is the time it took. -/
def execDecodeRound (outs : List RoundOut) (fault : RoundFault) (beats : Nat) (s : State) : Out :=
  onUnit true s fun d =>
    match d.svc with
    | some v =>
      let adm := d.admitted v
      d.when (d.canRound && !d.chunkDue' v && !adm.isEmpty && outs.map (·.seq) == adm && d.outsFit v outs) fun d => d.runRound v outs fault beats
    | none => d

/-! ## Weights (R300, R301, R488) -/

/-- An entry of the weight map (Table 09-2). -/
structure WEntry where
  m0 : Nat
  m1 : Nat
  dest : Nat
  off : Nat
  len : Nat
  rsv : Nat

def WEntry.barn (e : WEntry) : Nat := bitsOf e.dest 12 10
def WEntry.tile (e : WEntry) : Nat := e.dest % 1024

/-- Whether the weight map lies in another member. -/
def Dev.mapFar (d : Dev) : Bool := addrMember d.weightMap != d.self

/-- An entry of the map in force; one of another member is known as LOAD_WEIGHTS read it (DESIGN CHOICE, log 144). -/
def Dev.wEntry (d : Dev) (i : Nat) : WEntry :=
  let far := match d.svc with | some v => v.farMap | none => []
  let b := if d.mapFar then bytesAt (far.drop (32 * i)) 0 32 else d.readOwn (d.weightMap + 32 * i) 32
  ⟨fieldLE b 0 8, fieldLE b 8 8, fieldLE b 16 4, fieldLE b 20 4, fieldLE b 24 4, fieldLE b 28 4⟩

def Dev.wEntries (d : Dev) : List WEntry := (List.range (d.hdr hENTRIES)).map d.wEntry

/-- The first failure of an entry in the order MALFORMED, DENIED, BOUNDS. -/
def Dev.entryStatus (d : Dev) (e : WEntry) : Nat :=
  let bad (m : Nat) : Bool := addrMalformed m || addrMember m != d.self || decide (addrTarget m < 8) || decide (27 < addrTarget m)
  let gone (m : Nat) : Bool := !d.stackIn (addrTarget m - 8)
  let out (m : Nat) : Bool := decide (stackBytes < addrOffset m + e.len)
  if e.rsv != 0 || bad e.m0 || bad e.m1 || addrTarget e.m0 == addrTarget e.m1 || decide (8192 ≤ e.dest) || decide (704 ≤ e.tile) then stMalformed
  else if gone e.m0 || gone e.m1 then stDenied
  else if out e.m0 || out e.m1 || decide (16777216 < e.off + e.len) then stBounds
  else stOk

/-- The stack byte that a master's address names. -/
def masterKey (m : Nat) : Nat := hbmBase (addrTarget m - 8) + addrOffset m

/-- A range copied from one stack address to another, with its marks. -/
def Dev.copyMaster (d : Dev) (src dst len : Nat) : Dev :=
  (d.dropLines (addrTarget dst - 8) (addrOffset dst) len).copyUnits (masterKey src) (masterKey dst) len

/-- An entry's range put into its slice from MASTER0, units that read POISON from MASTER1 (R301); and whether some unit is POISON in
both. -/
def Dev.fillEntry (d : Dev) (e : WEntry) : Dev × Bool :=
  match d.siteOf e.barn e.tile with
  | some x =>
    (cuts 32 (e.len / 32 + 2) (masterKey e.m0) e.len).foldl (fun (a : Dev × Bool) p =>
      let d := a.1
      let i := p.1 - masterKey e.m0
      let other := masterKey e.m1 + i
      let from' := if d.poisoned p.1 p.2 && !d.poisoned other p.2 then other else p.1
      let both := d.poisoned p.1 p.2 && d.poisoned other p.2
      (d.writeLocal e.barn x (loftBase + e.off + i) (d.readBytes from' p.2) (d.marksOf from' p.2), a.2 || both)) (d, false)
  | none => (d, false)

/-- Generation stops (Table 09-5): every sequence in PREFILL or DECODE ends. -/
def Dev.stopService (d : Dev) (status : Nat) : Dev :=
  match d.svc with
  | some v =>
    let d := d.updSvc fun v => { v with stopped := some status }
    let d := v.seqs.foldl (fun d e => if e.2.state = 1 ∨ e.2.state = 2 then d.endSeq e.1 4 status else d) d
    d.settleAll
  | none => d

/-- The entries for which sel holds put into their slices; a unit lost in both copies stops generation. -/
def Dev.fillSlices (d : Dev) (sel : WEntry → Bool) : Dev :=
  let r := (d.wEntries.filter sel).foldl (fun (a : Dev × Bool) e => let r := a.1.fillEntry e; (r.1, a.2 || r.2)) (d, false)
  if r.2 then r.1.stopService stPoison else r.1

/-- The first failure of the map's own range. -/
def Dev.mapStatus (d : Dev) : Nat :=
  let n := 32 * d.hdr hENTRIES
  if !d.mapFar then (d.rangeStatus d.weightMap n false).getD stOk
  else if !d.inYard (addrMember d.weightMap) then stDenied
  else if !d.addrFits d.weightMap n then stBounds
  else stOk

/-- LOAD_WEIGHTS. -/
def Dev.loadWeightsCmd (d : Dev) (c : SvcCmd) (far : List Byte) : Dev :=
  let d := d.updSvc fun v => { v with farMap := if d.mapFar then far else [] }
  let map := d.mapStatus
  let sts := map :: (if map = stOk then d.wEntries.map d.entryStatus else [])
  match [stMalformed, stDenied, stBounds].find? sts.contains with
  | some st => d.finishCmd c st 0
  | none =>
    let d := d.wEntries.foldl (fun d e => d.copyMaster e.m0 e.m1 e.len) d
    let d := d.fillSlices fun e => bitOf d.barnsIn e.barn
    (d.updSvc fun v => { v with loaded := true, filled := d.barnsIn }).finishCmd c stOk 0

/-- LOAD_WEIGHTS: the map and every entry checked, then MASTER1, then the slices of the barns in service. Where the map lies in another
member, `far` is what its READs there answer. -/
def execLoadWeights (sess : Nat) (far : List Byte) (s : State) : Out :=
  onUnit (decide (sess < 16)) s fun d =>
    d.command sess (· == 6) fun d c => d.loadWeightsCmd c far

/-- LOFT_LOSS at a tile: its weights, keys and window blocks come back. -/
def execLoftLossReload (b x : Nat) (s : State) : Out :=
  onUnit (okSite b x) s fun d =>
    match d.svc, (d.tile b x).logical with
    | some v, some t =>
      d.when (bitOf d.barnsIn b) fun d =>
        let mine (e : WEntry) : Bool := e.barn == b && e.tile == t
        let has := v.loaded && d.wEntries.any mine
        let d := if has then (d.fillSlices mine).stat 0x48 1 else d
        d.rebuild fun k u => k == b && u == t
    | _, _ => d

/-- A posted WRITE of the lead service tile leaves for a yard address. -/
def Dev.leadWrite (d : Dev) (a : Nat) (bs : List Byte) : Dev :=
  match d.serviceSites.head? with
  | some (b, x) =>
    let p := d.mkRequest b x { typ := tyWRITE, addr := a, len := bs.length, data := bs }
    let (p, d) := (d.spend b x p).number b x p
    d.injectAt b x (pSet p 255 224 d.beat)
  | none => d

/-- A master of entry i of the weight map is named anew; in a map of another member by a WRITE of the lead. -/
def Dev.renameMaster (d : Dev) (i off m : Nat) : Dev :=
  let a := 32 * i + off
  let put (l : List Byte) : List Byte := bytesAt l 0 a ++ bytesLE m 8 ++ l.drop (a + 8)
  if d.mapFar then (d.updSvc fun v => { v with farMap := put v.farMap }).leadWrite (d.weightMap + a) (bytesLE m 8)
  else d.writeOwn (d.weightMap + a) (bytesLE m 8)

/-- The ranges of a retired stack are copied again from their other copies, and the map names the new ones (R488). -/
def Dev.recopyEntry (d : Dev) (n i : Nat) : Dev :=
  let e := d.wEntry i
  let first := addrTarget e.m0 == n + 8
  let good := if first then e.m1 else e.m0
  let other := addrTarget good - 8
  if !(first || addrTarget e.m1 == n + 8) || !d.stackIn other then d
  else
    match (List.range 20).find? fun k => d.stackIn k && k != other with
    | some k =>
      let m := d.self * 2 ^ 56 + (k + 8) * 2 ^ 51 + addrOffset good
      (d.copyMaster good m e.len).renameMaster i (if first then 0 else 8) m
    | none => d

def execMasterRecopy (n : Nat) (s : State) : Out :=
  onUnit (decide (n < 20)) s fun d =>
    match d.svc with
    | some v =>
      d.when (v.loaded && d.flag (r1 .HBM_STATUS n) Fld.HBM_STATUS_RETIRED) fun d =>
        (List.range (d.hdr hENTRIES)).foldl (fun d i => d.recopyEntry n i) d
    | none => d

/-! ## Stacks and barns lost (R326, R327) -/

/-- A stack of the pool is retired: every reservation is lost, and the pool is laid out again over the stacks left. -/
def execKvLoss (n : Nat) (s : State) : Out :=
  onUnit (decide (n < 20)) s fun d =>
    match d.svc with
    | some v =>
      d.when (v.kvStacks.contains n && !d.stackIn n) fun d => d.loseStackKv v
    | none => d

/-- Every open sequence reserves again under the layout (R304), in the order of SEQ_ID; one that cannot ends and keeps no reservation,
as after R327 (DESIGN CHOICE, log 146). -/
def Dev.reserveAgain (d : Dev) (v : Svc) : Dev :=
  (v.seqs.foldl (fun (a : Dev × List Nat) e =>
    if !e.2.reserves then a
    else if a.1.poolsHold v (e.2.pages.length :: a.2) then (a.1, e.2.pages.length :: a.2)
    else
      let d := if e.2.state = 3 then a.1 else a.1.endSeq e.1 4 stBounds
      (d.updSeq e.1 fun e => { e with pages := [], lost := true }, a.2)) (d, [])).1

/-- The service takes the layout of the barns in service: slices from MASTER0, keys and windows from the frames; without a layout it
stops. -/
def Dev.relayout (d : Dev) (v : Svc) : Dev :=
  match d.layoutNow with
  | none => (d.stopService stDenied).updSvc fun v => { v with layout := 0, layoutBarns := d.barnsIn }
  | some n =>
    let resume := if v.stopped = some stDenied then none else v.stopped
    let d := d.updSvc fun v => { v with layout := n, layoutBarns := d.barnsIn, stopped := resume }
    let d := match d.svc with | some v => d.reserveAgain v | none => d
    let tiles := ((List.range 8).flatMap fun b => (List.range 704).map fun t => (b, t)).filter fun p =>
      bitOf d.barnsIn p.1 && d.wEntries.any fun e => e.barn == p.1 && e.tile == p.2
    let d := if v.loaded then
        (((d.fillSlices fun e => bitOf d.barnsIn e.barn).stat 0x48 tiles.length).updSvc fun v => { v with filled := d.barnsIn })
      else d
    (d.rebuild fun _ _ => true).settleAll

/-- The count of barns in service changes at level 3 or 4 (R392). -/
def execRelayout (s : State) : Out :=
  onUnit true s fun d =>
    match d.svc with
    | some v => d.when (decide (3 ≤ d.level) && v.layoutBarns != d.barnsIn) fun d => d.relayout v
    | none => d

/-! ## The lead (R298, R353) -/

/-- The place in SERVICE_TILES of the first tile in service. -/
def Dev.firstLead (d : Dev) : Option Nat := findIdxFrom (fun p => bitOf d.barnsIn p.1) d.serviceTiles 0

/-- AREA_BASE of a lead. -/
def Dev.areaOf (d : Dev) (a : Act) (lead : Nat) : Nat :=
  let p := nth d.serviceTiles lead (0, 0)
  mkTileAddr d.self p.1 p.2 (Config.actArea a.image % 0x200000)

/-- The heads of a new area: TAIL + 2^63 for every open ring. -/
def Dev.initArea (d : Dev) (v : Svc) (area : Nat) : Dev :=
  let d := v.seqs.foldl (fun d e =>
    if e.2.state = 0 then d else d.writeOwn (area + 8 * e.1) (bytesLE (e.2.ring.tail + 2 ^ 63) 8)) d
  v.sessions.foldl (fun d e => match e.2 with
    | some k => d.writeOwn (area + 0x800 + 8 * e.1) (bytesLE (k.ring.tail + 2 ^ 63) 8)
    | none => d) d

/-- The lead moves to another tile. -/
def Dev.moveLead (d : Dev) (v : Svc) (a : Act) (i : Nat) : Dev :=
  let area := d.areaOf a i
  let d := (d.initArea v area).updSvc fun v => { v with area := area, lead := i }
  v.sessions.foldl (fun d e => match e.2 with
    | some k =>
      let k' := { k with epoch := k.epoch + 1, rung := k.consumed }
      let d := d.updSvc fun v => v.setSession e.1 (some k')
      let w (d : Dev) (off n : Nat) : Dev := d.hostWrite k.qp (k.ring.va + off) k.ring.key (bytesLE n 8)
      w (w (w d 0x08 area) 0x18 k.consumed) 0x10 k'.epoch
    | none => d) d

/-- The lead's barn has left: the next lead's area is made ready, and every session learns of it. -/
def execLeadMove (s : State) : Out :=
  onUnit true s fun d =>
    match d.svc, d.act, d.firstLead with
    | some v, some a, some i =>
      let here := (nth d.serviceTiles v.lead (0, 0)).1
      d.when (d.hasMaster && !bitOf d.barnsIn here && i != v.lead) fun d => d.moveLead v a i
    | _, _, _ => d

end Sys2Proof.Machine
end

