-- ==== Sys2Proof/Machine/HostPort.lean ====
section
/-! DEFINITION. What hosts ask of the package: management requests (R342, R412, R413), RDMA into its memory (R336-R339), the answers to
its own READs; and the entry of a barn into service (R391). -/

namespace Sys2Proof.Machine

/-! ## Management requests (Table 10-4) -/

def mField (m : List Byte) (off n : Nat) : Nat := fieldLE m off n

/-- The Ringmaster's answer: CODE and TAG echoed, STATUS, and the reply's fields from 0x10 on. -/
def Dev.reply (d : Dev) (qp : Nat) (msg : List Byte) (status : Nat) (fields : List Byte) : Dev :=
  d.qpRequest qp (.send (bytesAt (bytesLE (mField msg 0 1) 1 ++ bytesLE status 3 ++ bytesAt msg 4 8 ++ bytesLE 0 4 ++ fields) 0 128))

/-- Where the fields that a request lists end: every byte beyond is zero. -/
def requestEnd (code : Nat) : Nat :=
  match code with
  | 2 => 0x28
  | 5 => 0x20
  | 6 => 0x14
  | _ => 0x10

/-- Whether a request has the form of Table 10-4 (R342). -/
def requestOk (msg : List Byte) : Bool :=
  let code := mField msg 0 1
  msg.length == 128 && within 1 6 code && mField msg 1 3 == 0 && mField msg 12 4 == 0 && (msg.drop (requestEnd code)).all (· == 0)

/-- QUERY: the level, the service's STATE, AREA_BASE; what no rule states of an act without the service is free. -/
def Dev.query (d : Dev) (qp : Nat) (msg : List Byte) : Dev :=
  let (fr, d') := d.freeBytes 12
  match d.svc with
  | some v => d.reply qp msg stOk (bytesLE d.level 4 ++ bytesLE (d.svcState v) 4 ++ bytesLE v.area 8)
  | none =>
    let st := if d.actRuns then fr.take 4 else bytesLE 0xFFFFFFFF 4
    d'.reply qp msg stOk (bytesLE d.level 4 ++ st ++ fr.drop 4)

/-- LOAD_ACT (R412): with the request in order the act is read from the host. -/
def Dev.loadAct (d : Dev) (qp : Nat) (msg : List Byte) : Dev :=
  let len := mField msg 0x1C 4
  if d.actRuns then d.reply qp msg stDenied []
  else if !within 512 4194304 len then d.reply qp msg stBounds []
  else { d.qpRequest qp (.read (mField msg 0x10 8) (mField msg 0x18 4) len) with reads := d.reads ++ [(qp, .act msg)] }

/-- The fields of an act's header outside their legal values (Table 12-11). -/
def Dev.actBad (d : Dev) (image : List Byte) (len : Nat) : Bool :=
  let set := fieldLE image 12 4
  let rep := fieldLE image 16 8
  fieldLE image 0 4 != 1 || fieldLE image 4 4 != len || set == 0 || decide (256 ≤ set) ||
  (List.range 8).any (fun p => bitOf set p && !(List.range 16).all fun h => d.oppValid h p) ||
  addrMalformed rep || addrMember rep != 0 || decide (8 ≤ addrTarget rep) || decide (704 ≤ addrTile rep) || addrLocal rep % 64 != 0 ||
  decide (0x1FF000 < addrLocal rep + 1024) || fieldLE image 0x18 8 != 0 || (bytesAt image 0x80 384).any (· != 0) ||
  !Config.actFormOk image

/-- The checks of an act, in the order of R412. -/
def Dev.actStatus (d : Dev) (image hdr : List Byte) (len headerAddr : Nat) : Nat :=
  let at' := if hdr.isEmpty then stOk else (d.rangeStatus headerAddr 0x300 true).getD stOk
  let minimum := match d.start.image with | some i => i.actMinVersion | none => 0
  if d.actBad image len || (!hdr.isEmpty && headerBad hdr) || at' == stMalformed then stMalformed
  else if !Config.actSigned image || bytesAt image 0x20 32 != bytesAt (Config.sm3 (image.drop 0x200)) 0 32 ||
      decide (fieldLE image 8 4 < minimum) || d.schedAstray image || at' == stDenied then stDenied
  else if (!hdr.isEmpty && headerBounds hdr ((List.range 20).filter d.stackIn).length) || at' == stBounds then stBounds
  else stOk

/-- The host's answer to the READ of an act: checked, then staged, its service header placed (R297). -/
def Dev.actRead (d : Dev) (qp : Nat) (msg : List Byte) (ok : Bool) (image : List Byte) : Dev :=
  let len := mField msg 0x1C 4
  let at' := mField msg 0x20 8
  let hdr := Config.actHeader image
  let st := if !ok || d.actRuns then stDenied else d.actStatus image hdr len at'
  if st ≠ stOk then d.reply qp msg st []
  else
    let d := if hdr.isEmpty then d else d.writeOwn at' hdr
    { d with act := some { image := image, header := hdr, headerAddr := at' } }.reply qp msg stOk []

/-- The service of an act that starts (R324, R392). -/
def Dev.newSvc (d : Dev) (a : Act) : Svc :=
  let inService := (List.range 20).filter d.stackIn
  let f := framesPer (d.hdr hLAYERS) (d.hdr hHEADS) inService.length
  let lead := d.firstLead.getD 0
  { area := d.areaOf a lead
    lead := lead
    layout := d.layoutNow.getD 0
    layoutBarns := d.barnsIn
    stopped := if d.layoutNow.isNone then some stDenied else none
    kvStacks := inService
    slots := if f = 0 then 0 else min (d.hdr hSLOTS) ((stackBytes - d.kvBase) / (f * 16384)) }

/-- START_ACT (R31, R56, R413). -/
def Dev.startAct (d : Dev) (qp : Nat) (msg : List Byte) : Dev :=
  match d.act with
  | some a =>
    if a.running then d.reply qp msg stDenied []
    else
      let hdr := if a.header.isEmpty then [] else d.readOwn a.headerAddr 0x300
      let a := { a with running := true, nonce := mField msg 4 8, header := hdr }
      let d := { d with act := some a, generation := 2 }
      let d := if hdr.isEmpty then d else Dev.declarePools { d with svc := some (d.newSvc a) }
      let d := ((List.range 8).filter (bitOf d.barnsIn)).foldl (fun d b => d.actEnters b) d
      d.reply qp msg stOk []
  | none => d.reply qp msg stDenied []

/-- The sites of the act's tiles in the barns in service. -/
def Dev.allActSites (d : Dev) : List (Nat × Nat) :=
  match d.act with
  | some a => ((List.range 8).filter (bitOf d.barnsIn)).flatMap fun b => (d.actSites a.image b).map fun p => (b, p.2)
  | none => []

/-- STOP_ACT: STOP to every tile of the act; the answer waits until every one has halted. -/
def Dev.stopAct (d : Dev) (qp : Nat) (msg : List Byte) : Dev :=
  if !d.actRuns then d.reply qp msg stDenied []
  else
    let d := d.allActSites.foldl (fun d p => d.postEvent p.1 p.2 2) d
    { d with stopping := d.stopping ++ [(qp, msg)] }

/-- Every tile of the act has halted: STOP_ACT is answered and the staging area is free. -/
def Dev.actStopped (d : Dev) : Dev :=
  if !d.stopping.isEmpty && d.allActSites.all fun p => (d.tile p.1 p.2).halted then
    let waits := d.stopping
    let d := { d with act := none, svc := none, stopping := [] }
    let d := (List.range 16).foldl (fun d h => d.updHalf h fun v => { v with actHold := false, actWant := none, actAsked := false }) d
    waits.foldl (fun d w => d.reply w.1 w.2 stOk []) d
  else d

/-- SESSION_OPEN: the lowest session number that is free; the ring's header is written. -/
def Dev.sessionOpen (d : Dev) (qp : Nat) (msg : List Byte) : Dev :=
  match d.svc with
  | none => d.reply qp msg stDenied []
  | some v =>
    match (List.range 16).find? fun s => (v.session s).isNone with
    | none => d.reply qp msg stDenied []
    | some s =>
      let n := mField msg 0x1C 4
      if d.hasSession qp then d.reply qp msg stDenied []
      else if !within 16 65536 n then d.reply qp msg stBounds []
      else
        let ring : HostRing := { va := mField msg 0x10 8, key := mField msg 0x18 4, entries := n }
        let d := d.updSvc fun v => v.setSession s (some { qp := qp, ring := ring })
        let d := d.hostWrite qp ring.va ring.key (bytesLE 0 8 ++ bytesLE v.area 8 ++ bytesLE 0 16)
        d.reply qp msg stOk (bytesLE s 8 ++ bytesLE v.area 8)

/-- SESSION_CLOSE: the session's sequences are closed (R354). -/
def Dev.sessionClose (d : Dev) (qp : Nat) (msg : List Byte) : Dev :=
  let s := mField msg 0x10 4
  match d.svc.bind fun v => if s < 16 then v.session s else none with
  | some k => if k.qp = qp then (d.dropSession s k none).reply qp msg stOk [] else d.reply qp msg stDenied []
  | none => d.reply qp msg stDenied []

/-- A management request: answered by the Ringmaster from service level S1; during a pause it waits (R421). -/
def Dev.manage (d : Dev) (qp : Nat) (msg : List Byte) : Dev :=
  if !d.hasMaster || d.level == 0 then d
  else if d.rmPaused then d.updRmSt fun r => { r with waiting := r.waiting ++ [(qp, msg)] }
  else if !requestOk msg then d.reply qp msg stMalformed []
  else match mField msg 0 1 with
    | 1 => d.query qp msg
    | 2 => d.loadAct qp msg
    | 3 => d.startAct qp msg
    | 4 => d.stopAct qp msg
    | 5 => d.sessionOpen qp msg
    | _ => d.sessionClose qp msg

/-! ## Messages of queue pairs (R336-R339) -/

/-- A message that arrived on a queue pair and is acknowledged; the Ringmaster answers it. -/
def Dev.received (d : Dev) (qp : Nat) (msg : List Byte) : Dev :=
  ((d.updQp qp fun q => { q with heard := d.beat }).qpSend qp .ack).manage qp msg

/-- A SEND, of at most 256 B. -/
def execSend (qp : Nat) (msg : List Byte) (s : State) : Out :=
  onUnit (decide (qp < 4096)) s fun d =>
    d.when (d.qpUp qp) fun d =>
      if 256 < msg.length then d.invalidRequest qp
      else d.received qp msg

/-- A request of Table 10-4 by its row: 128 B that begin with its CODE. -/
def isRequest (code : Nat) (msg : List Byte) : Bool := msg.length == 128 && mField msg 0 1 == code

def execQuery (qp : Nat) (msg : List Byte) (s : State) : Out :=
  onUnit (decide (qp < 4096) && isRequest 1 msg) s fun d => d.when (d.qpUp qp) fun d => d.received qp msg
def execLoadAct (qp : Nat) (msg : List Byte) (s : State) : Out :=
  onUnit (decide (qp < 4096) && isRequest 2 msg) s fun d => d.when (d.qpUp qp) fun d => d.received qp msg
def execStartAct (qp : Nat) (msg : List Byte) (s : State) : Out :=
  onUnit (decide (qp < 4096) && isRequest 3 msg) s fun d => d.when (d.qpUp qp) fun d => d.received qp msg
def execStopAct (qp : Nat) (msg : List Byte) (s : State) : Out :=
  onUnit (decide (qp < 4096) && isRequest 4 msg) s fun d => d.when (d.qpUp qp) fun d => d.received qp msg
def execSessionOpen (qp : Nat) (msg : List Byte) (s : State) : Out :=
  onUnit (decide (qp < 4096) && isRequest 5 msg) s fun d => d.when (d.qpUp qp) fun d => d.received qp msg
def execSessionClose (qp : Nat) (msg : List Byte) (s : State) : Out :=
  onUnit (decide (qp < 4096) && isRequest 6 msg) s fun d => d.when (d.qpUp qp) fun d => d.received qp msg

/-- Why an RDMA access is refused (R338). -/
def Dev.rdmaRefusal (d : Dev) (va key n : Nat) (write : Bool) : Option Nat :=
  if key ≠ 0x100 then some stDenied else d.rangeStatus va n write

/-- NAK Remote Access Error, counted by its reason. -/
def Dev.rdmaRefuse (d : Dev) (qp st : Nat) : Dev :=
  let f := if st = stMalformed then Fld.ETH_RDMA_ERR_MALFORMED else if st = stBounds then Fld.ETH_RDMA_ERR_BOUNDS else Fld.ETH_RDMA_ERR_DENIED
  (d.inc (r0 .ETH_RDMA_ERR) f).qpSend qp (.nak 2)

/-! ## The engines of the Ethernet ports (R339, R340) -/

/-- The barn port router by which the engine of a port reaches memory. -/
def Dev.engineRouter (d : Dev) (port : Nat) : Nat := if bitOf d.barnsIn port then port else port + 4

/-- A packet of an engine: a READ, or a WRITE that is to be answered, as from tile 0 of the router's barn (DESIGN CHOICE, log 143). -/
def Dev.hostPacket (d : Dev) (p : Nat) (o : HostOp) (a n : Nat) : Packet :=
  let ty := if o.data.isSome then tyWRITE else tyREAD
  { hdr := BitVec.ofNat 256 (ty + n * 2 ^ 8 + a * 2 ^ 64 + boolNat o.data.isSome * 2 ^ 137 + d.self * 2 ^ 156 + p * 2 ^ 160 +
      d.beat % 2 ^ 32 * 2 ^ 224),
    data := bytesAt (((o.data.getD []).drop (a - o.va)).take n) 0 (if o.data.isSome then n else 0)
    op := o.id, host := true }

def Dev.setHostOp (d : Dev) (o : HostOp) : Dev := { d with hostOps := d.hostOps.map fun k => if k.id = o.id then o else k }

/-- The packets of an access go to the port router, cut at multiples of 1,024 B. -/
def Dev.beginOp (d : Dev) (o : HostOp) : Dev :=
  let p := d.engineRouter (match d.qp o.qp with | some q => q.port | none => 0)
  let pieces := cuts 1024 (o.len / 1024 + 2) o.va o.len
  pieces.foldl (fun d c => d.send (.port p 33) (d.hostPacket p o c.1 c.2)) (d.setHostOp { o with router := some p, left := pieces.length })

/-- What a READ delivers: bytes with a POISON mark are free. -/
def Dev.hostBytes (d : Dev) (o : HostOp) : List Byte × Dev :=
  let got := sortBy (fun a b => decide (a.1 ≤ b.1)) o.got
  let data := got.flatMap fun g => g.2.1
  let marks := got.flatMap fun g => (List.range g.2.1.length).map fun i => nth g.2.2 i false
  if marks.any id then
    let (fr, d) := d.freeBytes o.len
    ((List.range o.len).map fun i => if nth marks i false then nth fr i 0 else nth data i 0, d)
  else (data, d)

/-- An access is over: the WRITE is visible whole and acknowledged, and with an immediate of length 0 at AREA_BASE it is the doorbell; the
READ is answered. One that a target refused is as refused at once (DESIGN CHOICE, log 143). -/
def Dev.endOp (d : Dev) (o : HostOp) : Dev :=
  let d := { d with hostOps := d.hostOps.filter fun k => k.id != o.id }
  if o.status ≠ stOk then d.rdmaRefuse o.qp o.status
  else if o.data.isSome then
    let d := d.qpSend o.qp .ack
    match o.imm, d.svc with
    | some i, some v => if o.len == 0 && o.va == v.area then d.doorbell o.qp i else d
    | _, _ => d
  else
    let (data, d) := d.hostBytes o
    d.qpSend o.qp (.readData data)

/-- An access goes on, if no earlier one of its queue pair is under way: begun, and ended when every packet has been answered. -/
def Dev.stepOp (d : Dev) (id : Nat) : Dev :=
  let turn (d : Dev) : Option HostOp := (d.hostOps.find? fun o => o.id == id).filter fun o =>
    (d.hostOps.find? fun k => k.qp == o.qp).all fun k => k.id == id
  let d := match turn d with
    | some o => if o.router.isNone then d.beginOp o else d
    | none => d
  match turn d with
  | some o => if o.left = 0 then d.endOp o else d
  | none => d

/-- The accesses under way go on, the oldest first. -/
def Dev.stepOps (d : Dev) : Dev := (d.hostOps.map HostOp.id).foldl Dev.stepOp d

/-- An access of a host begins. -/
def Dev.startOp (d : Dev) (qp va len : Nat) (data : Option (List Byte)) (imm : Option W32) : Dev :=
  let o : HostOp := { id := d.ops + 1, qp := qp, va := va, len := len, data := data, imm := imm }
  Dev.stepOp { d with ops := d.ops + 1, hostOps := d.hostOps ++ [o] } o.id

/-- The answer to a packet of an access. -/
def HostOp.answered (o : HostOp) (p : Packet) : HostOp :=
  let st := pStatus p
  { o with
    left := o.left - 1
    got := if pType p = tyREADDATA then o.got ++ [(pAddr p - o.va, p.data, p.marks)] else o.got
    status := if o.status = stOk ∧ st ≠ stPoison then st else o.status }

/-- The engines take the answers that have come, and go on. -/
def Dev.edgeHost (d : Dev) : Dev :=
  let here (f : Flight) : Bool := match f.place with | .eth _ => true | _ => false
  let back := (d.net.filter here).map Flight.pkt
  let d := { d with net := d.net.filter fun f => !here f }
  Dev.stepOps (back.foldl (fun d p => match d.hostOps.find? fun o => o.id == p.op with
    | some o => if o.left = 0 then d else d.setHostOp (o.answered p)
    | none => d) d)

/-- An RDMA WRITE: checked whole, then written through the base (R338-R340). -/
def execRdmaWrite (qp va key : Nat) (data : List Byte) (imm : Option W32) (s : State) : Out :=
  onUnit (decide (qp < 4096)) s fun d =>
    d.when (d.qpUp qp) fun d =>
      match d.rdmaRefusal va key data.length true with
      | some st => d.rdmaRefuse qp st
      | none => d.startOp qp va data.length (some data) imm

/-- A doorbell: an RDMA WRITE with immediate of length 0 to AREA_BASE, which follows every earlier WRITE of its queue pair (R339, R344). -/
def execDoorbell (qp : Nat) (imm : W32) (s : State) : Out :=
  onUnit (decide (qp < 4096)) s fun d =>
    match d.svc with
    | some v => d.when (d.qpUp qp) fun d => d.startOp qp v.area 0 (some []) (some imm)
    | none => d

/-- An RDMA READ; one beyond 16 outstanding ones of its queue pair is an Invalid Request (Table 10-3; DEDUCED, log 150). -/
def execRdmaRead (qp va key len : Nat) (s : State) : Out :=
  onUnit (decide (qp < 4096)) s fun d =>
    d.when (d.qpUp qp) fun d =>
      if 16 ≤ (d.hostOps.filter fun o => o.qp == qp && o.data.isNone).length then d.invalidRequest qp
      else match d.rdmaRefusal va key len false with
      | some st => d.rdmaRefuse qp st
      | none => d.startOp qp va len none none

/-- How many bytes a READ of the device asked for. -/
def ReadFor.bytes : ReadFor → Nat
  | .act msg => mField msg 0x1C 4
  | .cmd c => 4 * cCount c

/-- What a read was for goes on with its data. -/
def Dev.readAnswered (d : Dev) (qp : Nat) (ok : Bool) (data : List Byte) (r : Nat × ReadFor) : Dev :=
  let d := { d with reads := eraseFirst (fun e => e.1 == qp) d.reads }
  let d := d.updQp qp fun q => { q with last := match q.last with | some (.read _ _ _) => none | m => m }
  match r.2 with
  | .act msg => d.actRead qp msg ok data
  | .cmd c => d.tokensRead c ok data

/-- The answer to the oldest READ of the device on a queue pair: its data, or a refusal. -/
def execRdmaReadResponse (qp : Nat) (ok : Bool) (data : List Byte) (s : State) : Out :=
  onUnit (decide (qp < 4096)) s fun d =>
    match d.reads.find? fun r => r.1 == qp with
    | some r =>
      d.when (d.qpUp qp && (!ok || data.length == r.2.bytes)) fun d => d.readAnswered qp ok data r
    | none => d

/-! ## A barn enters service (R391, Table 12-2) -/

/-- The service's part: the barn's slices, and at level 2 the barns of the one layout. -/
def Dev.serviceEntry (d : Dev) (b : Nat) : Dev :=
  match d.svc with
  | some v =>
    let d := if v.loaded then
        (d.fillSlices fun e => e.barn == b).updSvc fun v => { v with filled := setBitNat v.filled b true }
      else d
    if d.level < 3 then d.updSvc fun v => { v with layoutBarns := d.barnsIn } else d
  | none => d

/-- A barn enters service. -/
def Dev.barnEnters (d : Dev) (b : Nat) : Dev :=
  let d := d.setF (r1 .STACK_SVC b) Fld.STACK_SVC_SVC d.stacksIn
  let d := ({ d with barnsIn := setBitNat d.barnsIn b true }.setStage b 2).updStart fun t => { t with testing := none }
  let d := if d.phase = 5 ∧ d.level < 2 then d.setLevel 2 else d
  let d := d.newShape
  let d := if d.actRuns then d.actEnters b else d
  (d.serviceEntry b).endPhase5

def execBarnEntry (b : Nat) (s : State) : Out :=
  onUnit (decide (b < 8)) s fun d =>
    match d.start.testing with
    | some (_, k) =>
      d.when (k == b && d.stage b == 1 && d.hasMaster) fun d => d.barnEnters b
    | none => d

end Sys2Proof.Machine
end

