-- ==== Sys2Proof/Machine/Trace.lean ====
section
/-! DEFINITION. Trace modes and the Roustabout (R447-R453), hang examination and snapshots (R460-R463), and the registers of the
tile's trace unit and of the TRC block. -/

namespace Sys2Proof.Machine

/-! ## The Roustabout's settings (R450, R452) -/

def Dev.traceMode (d : Dev) (b x : Nat) : Nat := d.getF (r2 .TRC_TILE_CTRL b x) Fld.TRC_TILE_CTRL_MODE

/-- Tiles of a barn in MODE 1 (TRACING). -/
def Dev.tracing (d : Dev) (b : Nat) : Nat := ((List.range 768).filter fun x => d.traceMode b x == 1).length

/-- I_eff of a barn (R452). -/
def Dev.iEff (d : Dev) (b : Nat) : Nat :=
  max (d.getF (r1 .RST_INTERVAL b) Fld.RST_INTERVAL_RST_INTERVAL) (ceilDiv (1152 * d.tracing b) 768)

/-- RST_BASE and RST_SEG of a barn. -/
def Dev.rstBase (d : Dev) (b : Nat) : Nat := d.pair (r1 .RST_BASE_LO b) (r1 .RST_BASE_HI b)
def Dev.rstSeg (d : Dev) (b : Nat) : Nat := (d.rd (r1 .RST_SEG b)).toNat

/-! ## Register writes -/

def Dev.trcReject (b x : Nat) (d : Dev) (k : Reject) : Dev :=
  d.rejectIn (r2 .TRC_TILE_ERR b x) Fld.TRC_TILE_ERR_BUSY_REJ Fld.TRC_TILE_ERR_MALFORMED Fld.TRC_TILE_ERR_BOUNDS k

/-- TRC_TILE_CTRL (R449): a change of MODE other than to 0 needs an empty buffer; MODE 1 needs the barn's region within the window,
MODE 2 a ring within tile SRAM. -/
def Dev.writeTraceCtrl (d : Dev) (b x : Nat) (v : W32) : Dev :=
  let r := r2 .TRC_TILE_CTRL b x
  let m := Fld.TRC_TILE_CTRL_MODE.get v
  let changes := m != d.traceMode b x
  let base := (d.rd (r2 .TRC_LOCAL_BASE b x)).toNat
  let len := (d.rd (r2 .TRC_LOCAL_LEN b x)).toNat
  let busy := changes && m != 0 && !(d.tile b x).trace.isEmpty
  let malformed := m == 3 || (m == 2 && (decide (len < 32) || len % 16 != 0))
  let bounds := (m == 1 && decide (d.windowBytes < d.rstBase b + 704 * d.rstSeg b)) || (m == 2 && decide (tileSram < base + len))
  match firstReject busy malformed bounds with
  | some k => Dev.trcReject b x d k
  | none =>
    let d := d.store r v
    if changes && m == 2 then d.updTile b x fun t => { t with traceRing := 0 } else d

/-- Writes of a tile's trace unit. -/
def Dev.writeTileTrace (d : Dev) (r : Reg) (v : W32) : Dev :=
  let b := r.i
  let x := r.j
  let ring := d.traceMode b x == 2
  match r.name with
  | .TRC_TILE_CTRL => d.writeTraceCtrl b x v
  | .TRC_LOCAL_BASE =>
    d.writeOr r v (firstReject ring (Fld.TRC_LOCAL_BASE_BASE.get v % 16 != 0) false) (Dev.trcReject b x)
  | .TRC_LOCAL_LEN =>
    let n := Fld.TRC_LOCAL_LEN_LEN.get v
    d.writeOr r v (firstReject ring (n % 16 != 0 || decide (n < 32)) false) (Dev.trcReject b x)
  | _ => d.writeOr r v none (Dev.trcReject b x)

/-- The address in a stack that a yard address of the package's own member names; none for another. -/
def Dev.ownStack (d : Dev) (a : Nat) : Option Nat :=
  let t := addrTarget a
  if addrMember a = d.self ∧ 8 ≤ t ∧ t < 28 ∧ a < 2 ^ 60 then some (hbmBase (t - 8) + addrOffset a) else none

/-- The snapshot's place (R463). -/
def Dev.snapBase (d : Dev) : Nat := d.pair (r0 .TRC_SNAP_BASE_LO) (r0 .TRC_SNAP_BASE_HI)

/-- Writes of the TRC block. RST_BASE, RST_SEG and FLUSH are refused while a tile of the barn is in MODE 1. -/
def Dev.writeTrc (d : Dev) (r : Reg) (v : W32) : Dev :=
  let rej := fun (d : Dev) (k : Reject) => d.rejectIn (r1 .RST_ERR r.i) Fld.RST_ERR_BUSY_REJ Fld.RST_ERR_MALFORMED Fld.RST_ERR_BOUNDS k
  let busy := d.tracing r.i != 0
  match r.name with
  | .RST_CTRL => d.writeOr r v (firstReject busy false (decide (Fld.RST_CTRL_FLUSH.get v < 100))) rej
  | .RST_BASE_LO | .RST_BASE_HI => d.writeOr r v (firstReject busy false false) rej
  | .RST_SEG => d.writeOr r v (firstReject busy false (Fld.RST_SEG_SEG.get v == 0)) rej
  | .RST_INTERVAL => d.writeOr r v none rej
  | .TRC_HANG_CTRL => if Fld.TRC_HANG_CTRL_HANG.get v = 0 then d else d.store r v
  | .TRC_HANG_CONFIRM => if v.toNat < 1000 then d else d.wr r v
  | .TRC_SNAP_BASE_LO => if v.toNat % 64 ≠ 0 then d else d.wr r v
  | .TRC_SNAP_BASE_HI => if (d.ownStack (v.toNat * 2 ^ 32)).isNone then d else d.wr r v
  | .TRC_SNAP_BYTES => if v.toNat < 128 ∨ v.toNat % 32 ≠ 0 then d else d.wr r v
  | _ => d.store r v

/-- Registers of the TRC block that show other state. -/
def Dev.trcView (d : Dev) (r : Reg) : Option W32 :=
  match r.name with
  | .RST_INTERVAL => some (Fld.RST_INTERVAL_IN_FORCE.put (d.rd r) (d.iEff r.i))
  | .RST_STATUS => some (packWord [(0, d.tracing r.i)])
  | _ => none

/-! ## Records (R448, R450-R453) -/

/-- An entry has become free after drops: the trace unit writes one LOST record (R448). -/
def execLostRecord (b x : Nat) (s : State) : Out :=
  onUnit (okSite b x) s fun d =>
    d.when (d.traceMode b x != 0 && d.siteRuns b x) fun d => d.updTile b x fun t => t.flushLost (boolNat d.inHoldover)

/-- The CHUNK record (Table 14-4). -/
def Dev.chunkHead (d : Dev) (b x count : Nat) : BitVec 128 :=
  let t := d.tile b x
  BitVec.ofNat 128 (11 + d.self * 2 ^ 4 + b * 2 ^ 8 + t.logical.getD 0 * 2 ^ 16 + count * 2 ^ 26 + x * 2 ^ 32 +
    t.chunkSeq % 2 ^ 64 * 2 ^ 64)

/-- The beat that a record carries. -/
def recordBeat (w : BitVec 128) : Nat := w.toNat / 2 ^ 64

/-- The packet of a tile's next chunk: a posted WRITE to its segment (R450, R451). -/
def Dev.chunkPacket (d : Dev) (b x : Nat) : Packet :=
  let t := d.tile b x
  let recs := t.trace.take 63
  let data := (d.chunkHead b x recs.length :: recs).flatMap fun w => bytesLE w.toNat 16
  let off := d.rstBase b + t.logical.getD 0 * d.rstSeg b + t.chunkSeq % (d.rstSeg b / 1024) * 1024
  d.mkRequest b x { typ := tyWRITE, addr := d.self * 2 ^ 56 + 28 * 2 ^ 51 + off, len := data.length, data := data }

/-- Whether a chunk is due: I_eff has passed, and 63 records are present or the oldest has waited FLUSH beats (R452, R453). -/
def Dev.chunkDue (d : Dev) (b x : Nat) : Bool :=
  let t := d.tile b x
  d.traceMode b x == 1 && t.logical.isSome && d.siteRuns b x && (t.chunkSeq == 0 || decide (t.lastChunk + d.iEff b ≤ d.beat)) &&
  match t.trace with
  | [] => false
  | w :: _ => decide (63 ≤ t.trace.length) || decide (recordBeat w + d.getF (r1 .RST_CTRL b) Fld.RST_CTRL_FLUSH ≤ d.beat)

/-- A chunk of trace records leaves the tile. -/
def Dev.sendChunk (d : Dev) (b x : Nat) : Dev :=
  let p := d.chunkPacket b x
  let n := min 63 (d.tile b x).trace.length
  let (p, d) := (d.spend b x p).number b x p
  let d := d.injectAt b x (pSet p 255 224 d.beat)
  let hold := boolNat d.inHoldover
  let d := d.updTile b x fun t =>
    { t with
      trace := t.trace.drop n
      traceOldest := (t.traceOldest + n) % 1024
      chunkSeq := t.chunkSeq + 1
      lastChunk := d.beat }
  (d.updTile b x fun t => t.flushLost hold).addPair (r1 .RST_CHUNKS_LO b) (r1 .RST_CHUNKS_HI b) 1

/-- A chunk leaves once its source credit is there: the records sent free their entries (R448, R451). -/
def execChunkSend (b x : Nat) (s : State) : Out :=
  onUnit (okSite b x) s fun d =>
    let p := d.chunkPacket b x
    d.when (d.chunkDue b x && d.hasCredits b x p) fun d => d.sendChunk b x

/-! ## Hang examination (R460) -/

/-- Whether a site waits, or has not yielded, for HANG x 1,000 beats. -/
def Dev.hangs (d : Dev) (b x : Nat) : Bool :=
  let limit := d.getF (r0 .TRC_HANG_CTRL) Fld.TRC_HANG_CTRL_HANG * 1000
  decide (limit ≤ d.sinceYield b x) ||
  match (d.tile b x).wait with
  | some w => decide (w.start + limit ≤ d.beat)
  | none => false

/-- Flags a site and raises HANG for its barn. -/
def Dev.flagHang (d : Dev) (b x : Nat) : Dev :=
  let r := r2 .TRC_HANG_MAP b (x / 32)
  (d.wr r (BitVec.ofNat 32 (setBitNat (d.rd r).toNat (x % 32) true))).raise (70 + b)

/-- Every 65,536 beats the TRC block examines every site of every barn in service whose region runs. -/
def execHangScan (s : State) : Out :=
  onUnit true s fun d =>
    d.when (d.flag (r0 .TRC_HANG_CTRL) Fld.TRC_HANG_CTRL_EN && decide (d.hangLast + 65536 ≤ d.beat)) fun d =>
      let sites := ((List.range 8).filter (bitOf d.barnsIn)).flatMap fun b => (List.range 768).map fun x => (b, x)
      let hung := sites.filter fun p => d.siteRuns p.1 p.2 && d.hangs p.1 p.2
      { hung.foldl (fun d p => d.flagHang p.1 p.2) d with hangLast := d.beat }

/-! ## What waits (R461, Table 14-6) -/

/-- Whether a packet of a barn's tiles is held for a source credit (SRC_CREDIT_STALL). -/
def Dev.creditStalled (d : Dev) (b : Nat) : Bool :=
  (List.range 768).any fun x => (d.tile b x).held.any fun h => !d.hasCredits b x h.slot.pkt

/-- Whether a packet of a tile is held because every slot is in use (TILE_SLOT_STALL). -/
def Dev.slotStalled (d : Dev) (b x : Nat) : Bool :=
  let t := d.tile b x
  t.freeSlot.isNone && t.held.any fun h => h.needsSlot

/-- Whether a request waits at a port router for a free tag (TAG_STALL). -/
def Dev.tagStalled (d : Dev) (p : Nat) : Bool :=
  decide (8192 ≤ (d.port p).tags.length) && d.net.any fun f => (match f.place with | .port q _ => q == p | _ => false) && awaitsReply f.pkt

/-- NODE of a tile, a router or a region. -/
def Dev.nodeTile (d : Dev) (b n : Nat) : Nat := d.self + b * 2 ^ 4 + n * 2 ^ 7

/-- NODE of a port router or a pair. -/
def Dev.nodePort (d : Dev) (p : Nat) : Nat := d.self + p * 2 ^ 17 + 2 ^ 31

/-- The waits and slots of a tile. -/
def Dev.tileItems (d : Dev) (b x : Nat) : List HangItem :=
  let t := d.tile b x
  let node := d.nodeTile b (t.logical.getD 0)
  let wait : List HangItem := match t.wait with
    | some w =>
      let v := match w.kind with
        | 1 => (t.acOf w.index).toNat
        | 2 => (t.ccOf w.index).toNat
        | 3 => d.beat
        | _ => (t.queue w.index).length
      [⟨1, w.kind + w.index * 8, node, w.target.toNat, v, w.start⟩]
    | none => []
  let slots := (List.range 64).filterMap fun i =>
    (t.slot i).map fun s => (⟨2, pType s.pkt, node, pAddr s.pkt, s.attempts, s.issue⟩ : HangItem)
  wait ++ slots

/-- The holds of a router: ports whose input buffers are not empty, with CREDIT_STALL. -/
def Dev.routerItems (d : Dev) (b x : Nat) : List HangItem :=
  (List.range 6).filterMap fun p =>
    if d.portBuf b x p = 0 then none
    else some ⟨3, p, d.nodeTile b x, 0, (d.rd (r3 .PORT_CREDIT_STALL b x p)).toNat, 0⟩

/-- The holds of a port router: tags, ledger and credits, with their stall counts. -/
def Dev.portItems (d : Dev) (p : Nat) : List HangItem :=
  let item (on : Bool) (detail : Nat) (n : RegName) : List HangItem :=
    if on then [⟨4, detail, d.nodePort p, 0, (d.rd (r1 n p)).toNat, 0⟩] else []
  item (d.tagStalled p) 1 .TAG_STALL ++
  item (d.flag (r1 .PORT_STATUS p) Fld.PORT_STATUS_LEDGER_HOLD) 2 .LEDGER_HOLD_BEATS ++
  item (decide (p < 8) && d.creditStalled p) 3 .SRC_CREDIT_STALL

/-- Everything that waits now. -/
def Dev.hangItems (d : Dev) : List HangItem :=
  let barns := (List.range 8).filter (bitOf d.barnsIn)
  let sites := barns.flatMap fun b => (List.range 768).map fun x => (b, x)
  let runs := sites.filter fun p => d.siteRuns p.1 p.2
  let paths := (List.range 502).filter fun w => d.lanesIn w 0 == 0 && d.lanesIn w 1 == 0
  let links := (List.range 32).filter fun l =>
    d.flag (r1 .YLINK_CTRL l) Fld.YLINK_CTRL_ENABLE && d.getF (r1 .YLINK_STATUS l) Fld.YLINK_STATUS_IN_SERVICE == 0
  let stopped := (List.range 64).filter fun r => bitOf d.barnsIn (r / 8) && d.stopCause r != 0
  (runs.flatMap fun p => d.tileItems p.1 p.2) ++ (runs.flatMap fun p => d.routerItems p.1 p.2) ++
  ((List.range 32).flatMap d.portItems) ++
  (paths.map fun w => ⟨5, 0, d.nodePort (wgInfo w).1, w, 0, 0⟩) ++
  (links.map fun l => ⟨5, 1, d.nodePort (28 + l / 8), l, 0, 0⟩) ++
  (stopped.map fun r =>
    let site := ((List.range 768).find? fun x => regionOf (r / 8) x == r).getD 0
    ⟨6, d.stopCause r, d.nodeTile (r / 8) site, 0, 0, 0⟩)

/-- Whether two entries are the same wait in both passes (R462). -/
def sameWait (u v : HangItem) : Bool :=
  u.kind == v.kind && u.detail == v.detail && u.node == v.node && u.on == v.on && u.since == v.since

/-- The entries of a snapshot: pass B's waits that pass A had, with the rise of their counts. -/
def snapshotItems (a : HangPass) (now : List HangItem) : List HangItem :=
  now.filterMap fun v => (a.items.find? (sameWait v)).map fun u =>
    if v.kind ≤ 2 then v else { v with value := (v.value - u.value), since := a.beat }

/-- The 32 bytes of an entry (Table 14-6). -/
def HangItem.bytes (i : HangItem) : List Byte :=
  bytesLE (i.kind + i.detail * 2 ^ 8 + i.node * 2 ^ 32) 8 ++ bytesLE i.on 8 ++ bytesLE i.value 8 ++ bytesLE i.since 8

/-- The snapshot written at TRC_SNAP_BASE (R463), where that names bytes of one of the package's stacks. -/
def Dev.writeSnapshot (d : Dev) (a : HangPass) : Dev :=
  let size := (d.rd (r0 .TRC_SNAP_BYTES)).toNat
  match d.ownStack d.snapBase with
  | none => d
  | some addr =>
    if stackBytes < addrOffset d.snapBase + size then d
    else
      let all := snapshotItems a d.hangItems
      let room := (size - 64) / 32
      let l := all.take room
      let gen := d.hangGen + 2
      let head := bytesLE 1 4 ++ bytesLE gen 4 ++ bytesLE d.self 4 ++ bytesLE l.length 4 ++ bytesLE (all.length - l.length) 4 ++
        bytesLE 0 12 ++ bytesLE a.beat 8 ++ bytesLE d.beat 8 ++ bytesLE 0 16
      let bs := head ++ l.flatMap HangItem.bytes
      let n := addrTarget d.snapBase - 8
      let d := (d.dropLines n (addrOffset d.snapBase) bs.length).addPair (r1 .HBM_WRITE_BYTES_LO n) (r1 .HBM_WRITE_BYTES_HI n) bs.length
      { d.writeStackMarked addr bs [] with hangGen := gen }

/-- A pass over the hang items, and the snapshot after its confirmation. -/
def Dev.takeSnapshot (d : Dev) : Dev :=
  match d.hangA with
  | none => { d with hangA := some ⟨d.beat, d.hangItems⟩ }
  | some a =>
    d.when (decide (a.beat + (d.rd (r0 .TRC_HANG_CONFIRM)).toNat ≤ d.beat)) fun d =>
      { d.writeSnapshot a with hangA := none }

/-- A pass of a snapshot (R462): pass A, or pass B at least HANG_CONFIRM beats after it, which writes the snapshot. -/
def execHangSnapshot (s : State) : Out :=
  onUnit true s fun d =>
    d.when d.hasMaster fun d => d.takeSnapshot

end Sys2Proof.Machine
end

