-- ==== Sys2Proof/Machine/Bus.lean ====
section
/-! DEFINITION. The Ringmaster bus (R8-R12, R26-R30, R71, R132, R461): where an access goes, what a write and a read of every register
do, and the accesses held at a stopped region. -/

namespace Sys2Proof.Machine

/-! ## Where an address lies (Tables 01-6 and 03-17) -/

/-- The site in whose CSR window an address lies. -/
def siteOfAddr (a : Nat) : Option (Nat × Nat) :=
  if 0x1000000000 ≤ a ∧ a < 0x1800000000 ∧ a % 2 ^ 32 < 0x30000000 then some ((a - 0x1000000000) / 2 ^ 32, a % 2 ^ 32 / 2 ^ 20) else none

/-- Whether Table 03-17 maps an offset of a tile window. -/
def windowMaps (o : Nat) : Bool :=
  decide (o < 0x160) || (decide (0x1000 ≤ o) && decide (o < 0x1080)) || (decide (0x1100 ≤ o) && decide (o < 0x1140)) ||
  (decide (0x2000 ≤ o) && decide (o < 0x2100)) || (decide (0x40000 ≤ o) && decide (o < 0x70000)) || decide (0x80000 ≤ o)

/-- The read-only ranges of Table 01-6: the boot ROM and the flash windows. -/
def inRom (a : Nat) : Bool := decide (a < 0x40000)
def inFlash (a : Nat) : Bool := decide (0x20000000 ≤ a) && decide (a < 0x30000000)

/-- Whether Table 01-6, and Table 03-17 within a tile window, map an address. -/
def busMaps (a : Nat) : Bool :=
  let k := a / 0x1000000
  inRom a || inSram a || inFlash a || (decide (0x100 ≤ k) && decide (k ≤ 0x108)) || (decide (0x110 ≤ k) && decide (k ≤ 0x123)) ||
  (decide (0x130 ≤ k) && decide (k ≤ 0x133)) ||
  (decide (0x1000 ≤ k) && decide (k < 0x1800) && (decide (0x30000000 ≤ a % 2 ^ 32) || windowMaps (a % 2 ^ 20)))

/-- Whether an address lies where the map has registers. -/
def isRegister (a : Nat) : Bool := busMaps a && !inRom a && !inFlash a && !inSram a

/-- Where the aperture of a tile window shows tile SRAM. -/
def Dev.aperture (d : Dev) (a : Nat) : Option Nat :=
  match siteOfAddr a with
  | some (b, x) =>
    let o := a % 2 ^ 20
    if 0x80000 ≤ o then
      some (localBase b x + d.getF (r2 .SRAM_APERTURE b x) Fld.SRAM_APERTURE_BASE * 0x80000 + (o - 0x80000) / 4 * 4)
    else none
  | none => none

/-- An access under R29: its address is recorded, it is counted, and source 65 is raised. -/
def Dev.decodeError (d : Dev) (a : Nat) (write : Bool) : Dev :=
  let d := d.wr (r0 .RM_DECODE_LO) (BitVec.ofNat 32 a)
  let hi := Fld.RM_DECODE_HI_WRITE.put (Fld.RM_DECODE_HI_ADDR.put 0 (a / 2 ^ 32)) (boolNat write)
  ((d.wr (r0 .RM_DECODE_HI) hi).inc (r0 .RM_DECODE_CNT) Fld.RM_DECODE_CNT_COUNT).raise 65

/-! ## Writes -/

/-- The W1C bits that hardware sets in the cycle of a write end set (R11); a pending bit so set is a raise of its source. -/
def Dev.setSame (d : Dev) (r : Reg) (sets : W32) : Dev :=
  if r.name = .BRK_PENDING then
    ((List.range 32).filter (bitOf sets.toNat)).foldl (fun d k => d.raise (32 * r.i + k)) d
  else (w1cFields r.name.fields).foldl (fun d f => d.setF r f (Nat.lor (d.getF r f) (f.get sets))) d

/-- What a write of a register's block does with it; a counter takes the additions of the same cycle too. -/
def Dev.writeBlock (d : Dev) (r : Reg) (v adds : W32) : Dev :=
  match r.name.block with
  | .clk => d.writeClk r v
  | .tile =>
    match r.name with
    | .AC => d.writeCounter r.i r.j false r.k v adds
    | .CC => d.writeCounter r.i r.j true r.k v adds
    | _ => d.writeTile r v
  | .router => d.writeRouter r v
  | .loft => d.writeLoft r v
  | .tileTrace => d.writeTileTrace r v
  | .loader => d.writeLoader r v
  | .cap => d.writeCap r v
  | .hbm => d.writeHbm r v
  | .win => d.writeWin r v
  | .lane => d.writeLane r v
  | .lant => d.writeLant r v
  | .yard => d.writeYard r v
  | .port => d.writePort r v
  | .eth => d.writeEth r v
  | .pwr => d.writePwr r v
  | .cal => d.writeCal r v
  | .tack => d.writeTack r v
  | .rm => d.writeRm r v
  | .far => d.writeFarrier r v
  | .trc => d.writeTrc r v
  | .brk => d.writeBrk r v

/-- A write to a register by the block that its name lies in, with what hardware adds to it or sets in it in the same cycle. -/
def Dev.writeReg (d : Dev) (r : Reg) (v same : W32) : Dev := (d.writeBlock r v same).setSame r same

/-- Whether the bridge fences an address: the window of a retired site (R30). -/
def Dev.fenced (d : Dev) (a : Nat) : Bool :=
  match siteOfAddr a with
  | some (b, x) => decide (2 ≤ d.siteState b x)
  | none => false

/-- Whether an access waits at the Turnstile of a stopped region (R71). -/
def Dev.stopped (d : Dev) (a : Nat) : Bool :=
  match siteOfAddr a with
  | some (b, x) => !d.siteRuns b x
  | none => false

/-- A write that the bus carries out. -/
def Dev.putWord (d : Dev) (a : Nat) (v same : W32) : Dev :=
  if !busMaps a || inRom a || inFlash a then d.decodeError a true
  else if inSram a then d.write (a / 4 * 4) (bytesLE v.toNat 4)
  else
    match d.aperture a with
    | some p => d.write p (bytesLE v.toNat 4)
    | none =>
      match Reg.ofAddr a with
      | some r => d.writeReg r v same
      | none => d

/-! ## Reads -/

/-- What a register shows before its access codes apply. -/
def Dev.regWord (d : Dev) (r : Reg) : W32 :=
  match r.name with
  | .BEAT_NOW_LO => halfWord false d.beat
  | .BEAT_NOW_HI => halfWord true d.beat
  | .REGION_CLK_STATUS =>
    packWord [(0, boolNat (d.running r.i)), (1, d.stopCause r.i), (4, boolNat (d.region r.i).stretching)]
  | .HBM_STATUS => Fld.HBM_STATUS_OUTSTANDING.put (d.rd r) (d.hbm r.i).outstanding
  | .TRK_STATUS => packWord [(0, (d.hbm r.i).lines.length), (16, (d.hbm r.i).trackers.length)]
  | .RING_TX => d.ringWord r true
  | .RING_RX => d.ringWord r false
  | .LANE_TOTAL => packWord [(0, d.lanesTotal)]
  | .MOD_STATUS => Fld.MOD_STATUS_LIT.put (d.rd r) (d.litCount r.i)
  | .FEED =>
    if ([1, 2, 3, 4] : List Nat).contains (d.getF r Fld.FEED_STATE) then Fld.FEED_GROUP.put (d.rd r) (d.groupShown r.i r.j) else d.rd r
  | .PEER_STATUS => d.peerWord r.i
  | .FAR_STATUS => Fld.FAR_STATUS_MOVE_BUSY.put (d.rd r) (boolNat d.moveBusy)
  | .PORT_STATUS => d.portStatusWord r.i
  | _ =>
    match d.tileView r with
    | some w => w
    | none =>
      match d.brkView r with
      | some w => w
      | none =>
        match d.trcView r with
        | some w => w
        | none => (d.ethView r).getD (d.rd r)

/-- The registers that a read of a register latches (R9, R461, and the tables that say so). -/
def latchedBy : RegName → List RegName
  | .BEAT_NOW_LO => [.BEAT_NOW_HI]
  | .REGION_STRETCH_LO => [.REGION_STRETCH_HI]
  | .WAIT_TARGET_LO => [.WAIT_TARGET_HI]
  | .WAIT_START_LO => [.WAIT_START_HI]
  | .PORT_FLITS_LO => [.PORT_FLITS_HI]
  | .LOFT_READ_BYTES_LO => [.LOFT_READ_BYTES_HI]
  | .LOFT_WRITE_BYTES_LO => [.LOFT_WRITE_BYTES_HI]
  | .TRC_UTIL_LO => [.TRC_UTIL_HI]
  | .SLOT_ENTRY0 => [.SLOT_ENTRY1, .SLOT_ENTRY2, .SLOT_ENTRY3]
  | .HBM_ECC_CORR_LO => [.HBM_ECC_CORR_HI]
  | .HBM_ECC_LAST_LO => [.HBM_ECC_LAST_HI]
  | .HBM_READ_BYTES_LO => [.HBM_READ_BYTES_HI]
  | .HBM_WRITE_BYTES_LO => [.HBM_WRITE_BYTES_HI]
  | .LANE_LOCKLOSS_LO => [.LANE_LOCKLOSS_HI]
  | .YLINK_FLITS_LO => [.YLINK_FLITS_HI]
  | .PEER_HB_LO => [.PEER_HB_HI]
  | .PORT_RESET_BEAT_LO => [.PORT_RESET_BEAT_HI]
  | .HOT_ADDR_LO => [.HOT_ADDR_HI]
  | .ETH_RX_FRAMES_LO => [.ETH_RX_FRAMES_HI]
  | .ETH_TX_FRAMES_LO => [.ETH_TX_FRAMES_HI]
  | .RAIL_ENERGY_LO => [.RAIL_ENERGY_HI]
  | .CAL_APPLY_LO => [.CAL_APPLY_HI]
  | .TACK_IMAGE_SEQ_LO => [.TACK_IMAGE_SEQ_HI]
  | .TACK_PHASE_BEAT_LO => [.TACK_PHASE_BEAT_HI]
  | .RM_DECODE_LO => [.RM_DECODE_HI]
  | .RST_CHUNKS_LO => [.RST_CHUNKS_HI]
  | _ => []

/-- Whether a read returns what an earlier read latched. -/
def readsLatch : RegName → Bool
  | .BEAT_NOW_HI | .REGION_STRETCH_HI | .WAIT_TARGET_HI | .WAIT_START_HI | .PORT_FLITS_HI | .LOFT_READ_BYTES_HI | .LOFT_WRITE_BYTES_HI
  | .TRC_UTIL_HI | .SLOT_ENTRY1 | .SLOT_ENTRY2 | .SLOT_ENTRY3 | .HBM_ECC_CORR_HI | .HBM_ECC_LAST_HI | .HBM_READ_BYTES_HI
  | .HBM_WRITE_BYTES_HI | .LANE_LOCKLOSS_HI | .YLINK_FLITS_HI | .PEER_HB_HI | .PORT_RESET_BEAT_HI | .HOT_ADDR_HI | .ETH_RX_FRAMES_HI
  | .ETH_TX_FRAMES_HI | .RAIL_ENERGY_HI | .CAL_APPLY_HI | .TACK_IMAGE_SEQ_HI | .TACK_PHASE_BEAT_HI | .RM_DECODE_HI | .RST_CHUNKS_HI => true
  | _ => false

/-- What a read of a register returns. -/
def Dev.regRead (d : Dev) (r : Reg) : W32 :=
  if readsLatch r.name then d.latch.get (fun _ => 0) r.addr else readWord r.name.fields (d.regWord r)

/-- What a read of a register leaves behind: words latched, read-and-clear fields at the additions of the same cycle (R12);
SLOT_STATUS.HIGH starts again from SLOTS. -/
def Dev.regReadDone (d : Dev) (r : Reg) (adds : W32) : Dev :=
  let d := (latchedBy r.name).foldl (fun d n =>
    let h : Reg := { r with name := n }
    { d with latch := d.latch.set (fun _ => 0) h.addr (readWord n.fields (d.regWord h)) }) d
  if r.name = .SLOT_STATUS then d.setF r Fld.SLOT_STATUS_HIGH (d.tile r.i r.j).slotCount
  else if hasRc r.name.fields then d.wr r (clearWord r.name.fields (d.rd r) adds)
  else d

/-- A flash word: as written where the device wrote a field record there since the start; else open. -/
def Dev.flashRead (d : Dev) (a : Nat) : W32 × Dev :=
  let o := (a - 0x20000000) % 0x8000000
  let slot := (o - 0x7F00000) / 4096
  if 0x7F00000 ≤ o ∧ slot < d.cal.recordSlots ∧ d.cal.recordFirst.any (fun f => decide (f ≤ slot)) = true then
    (BitVec.ofNat 32 (d.readNat (a / 4 * 4) 4), d)
  else (Config.flashWord d.fresh a, { d with fresh := d.fresh + 1 })

/-- A read that the bus carries out: the word it returns, and the device after it. -/
def Dev.takeWord (d : Dev) (a : Nat) (adds : W32) : W32 × Dev :=
  if !busMaps a then (0, d.decodeError a false)
  else if inRom a then (Config.romWord a, d)
  else if inFlash a then d.flashRead a
  else if inSram a then (BitVec.ofNat 32 (d.readNat (a / 4 * 4) 4), d)
  else
    match d.aperture a with
    | some p => (BitVec.ofNat 32 (d.readNat p 4), d)
    | none =>
      match Reg.ofAddr a with
      | some r => (d.regRead r, d.regReadDone r adds)
      | none => (0, d)

/-! ## Accesses -/

def BusAccess.addr : BusAccess → Nat
  | .write a _ => a
  | .read a => a

/-- An access by the Ringmaster that holds ACTIVE, carried out by f where nothing holds it. The bus carries one access at a time: behind
a held access others wait (R71), and during a pause none is made (R421). In a fenced window a read returns 0 and a write does nothing (R30). -/
def Dev.onBus (d : Dev) (c : BusAccess) (f : Dev → Dev) : Dev :=
  if !d.hasMaster then d
  else if !d.busHeld.isEmpty || d.rmPaused then { d with busHeld := d.busHeld ++ [c] }
  else if d.fenced c.addr then (match c with | .write _ _ => d | .read _ => { d with busData := 0 })
  else if d.stopped c.addr then { d with busHeld := [c] }
  else f d

/-- Whether an access to an address is carried out at once. -/
def Dev.reaches (d : Dev) (a : Nat) : Bool := d.hasMaster && d.busHeld.isEmpty && !d.rmPaused && !d.fenced a && !d.stopped a

def Dev.busWriteWith (d : Dev) (a : Nat) (v same : W32) : Dev := d.onBus (.write a v) fun d => d.putWord a v same

def Dev.busWrite (d : Dev) (a : Nat) (v : W32) : Dev := d.busWriteWith a v 0

/-- A write to a register that is named, with what else the same cycle brings. -/
def Dev.busPutWith (d : Dev) (r : Reg) (v same : W32) : Dev :=
  d.onBus (.write r.addr v) fun d => d.writeReg r v same

/-- A write to a register that is named. -/
def Dev.busPut (d : Dev) (r : Reg) (v : W32) : Dev := d.busPutWith r v 0

/-- A read; the word is in busData. -/
def Dev.busReadWith (d : Dev) (a : Nat) (adds : W32) : Dev :=
  d.onBus (.read a) fun d =>
    let (w, d) := d.takeWord a adds
    { d with busData := w }

def Dev.busRead (d : Dev) (a : Nat) : Dev := d.busReadWith a 0

/-- A read of a register that is named. -/
def Dev.busGet (d : Dev) (r : Reg) : Dev := d.onBus (.read r.addr) fun d => { d.regReadDone r 0 with busData := d.regRead r }

/-- The accesses held go on in order until one is still stopped. -/
def Dev.resumeHeld : List BusAccess → Dev → Dev
  | [], d => { d with busHeld := [] }
  | h :: t, d =>
    if d.rmPaused || d.stopped h.addr && !d.fenced h.addr then { d with busHeld := h :: t }
    else
      let d : Dev := { d with busHeld := [] }
      Dev.resumeHeld t (match h with | .write a v => d.busWrite a v | .read a => d.busRead a)

/-- A held access completes once its region runs again. -/
def execStoppedAccessResume (s : State) : Out := onUnit true s fun d => Dev.resumeHeld d.busHeld d

/-- Management requests that waited are answered. -/
def Dev.answerWaiting (d : Dev) : Dev :=
  let l := d.rm.waiting
  l.foldl (fun d m => d.manage m.1 m.2) (d.updRmSt fun r => { r with waiting := [] })

/-- A Ringmaster held in reset rejoins (R421): the holder pauses; at the command's repetition it has copied its state, both go on in step,
and what waited for them is done. -/
def execRejoin (s : State) : Out :=
  onUnit true s fun d =>
    if d.rmPaused then
      let d := d.endRejoin
      (Dev.resumeHeld d.busHeld d).answerWaiting
    else d.when (d.hasMaster && !d.updating && d.rm.swap.isNone && d.rmState (otherRm d.active) == 2) Dev.beginRejoin

/-! ## Rows of the bus itself -/

/-- Addresses of the bus are 40 bits wide. -/
def okAddr (a : Nat) : Bool := decide (a < 2 ^ 40)

/-- A write of a register, with the W1C bits that hardware sets, or what it adds to a counter, in the same cycle (R11, R12). -/
def execRegisterWrite (addr : Nat) (v sets : W32) (s : State) : Out :=
  onUnit (okAddr addr) s fun d => d.busWriteWith addr v sets
def execLoRead (addr : Nat) (s : State) : Out := onUnit (okAddr addr) s fun d => d.busReadWith addr 0
def execRcRead (addr : Nat) (adds : W32) (s : State) : Out := onUnit (okAddr addr) s fun d => d.busReadWith addr adds

end Sys2Proof.Machine
end

