-- ==== Sys2Proof/Machine/CfgRows.lean ====
section
/-! DEFINITION. The configuration records that phase 2 applies one by one (R403-R406). -/

namespace Sys2Proof.Machine

/-- The record under way. -/
def Dev.cfgRecord (d : Dev) : CfgRecord := nth d.records d.recordAt { kind := 0 }

/-- Phase 2 applies a record of a kind: it has begun, nothing has failed, and the record at hand is of that kind. -/
def Dev.cfgTurn (d : Dev) (kind : Nat) : Bool :=
  d.phase == 2 && d.start.begun && !d.flag (r0 .TACK_CONFIG) Fld.TACK_CONFIG_CONFIG_FAIL &&
  decide (d.recordAt < d.records.length) && d.cfgRecord.kind == kind

/-- A record is complete; after the last, the level is S1. -/
def Dev.cfgNext (d : Dev) : Dev :=
  let k := d.recordAt + 1
  let d := (d.setF (r0 .TACK_CONFIG) Fld.TACK_CONFIG_RECORDS_APPLIED k).updStart fun t => { t with recordSince := none }
  if k = d.records.length then d.setLevel 1 else d

/-- The application stops at this record (R405). -/
def Dev.cfgFail (d : Dev) : Dev :=
  (d.setF (r0 .TACK_CONFIG) Fld.TACK_CONFIG_CONFIG_FAIL 1).setLevel 1

/-- Whether a word read meets a record. -/
def cfgMatches (c : CfgRecord) (w : W32) : Bool := Nat.land w.toNat c.mask == Nat.land c.value c.mask

def execCfgWrite (s : State) : Out :=
  onUnit true s fun d =>
    d.when (d.cfgTurn 1) fun d => (d.busWrite d.cfgRecord.addr (BitVec.ofNat 32 d.cfgRecord.value)).cfgNext

def execCfgWriteCheck (s : State) : Out :=
  onUnit true s fun d =>
    d.when (d.cfgTurn 2) fun d =>
      let c := d.cfgRecord
      let d := (d.busWrite c.addr (BitVec.ofNat 32 c.value)).busRead c.addr
      if cfgMatches c d.busData then d.cfgNext else d.cfgFail

/-- A WAIT begins when first commanded, and is complete once TIMEOUT beats have passed. -/
def execCfgWait (s : State) : Out :=
  onUnit true s fun d =>
    d.when (d.cfgTurn 3) fun d =>
      let since := d.start.recordSince.getD d.beat
      if since + d.cfgRecord.timeout ≤ d.beat then d.cfgNext else d.updStart fun t => { t with recordSince := some since }

/-- A POLL reads; it fails once TIMEOUT beats have passed since its first read without a match. -/
def execCfgPoll (s : State) : Out :=
  onUnit true s fun d =>
    d.when (d.cfgTurn 4) fun d =>
      let c := d.cfgRecord
      let since := d.start.recordSince.getD d.beat
      let d := d.busRead c.addr
      if cfgMatches c d.busData then d.cfgNext
      else if since + c.timeout ≤ d.beat then d.cfgFail
      else d.updStart fun t => { t with recordSince := some since }

end Sys2Proof.Machine
end

