-- ==== Sys2Proof/Machine/Matrix.lean ====
section
/-! DEFINITION. The matrix engine (R96-R99, R134, R135, R146-R148, R487): MMA, MMA_SPARSE, the accumulator operations and the
stream channels. -/

namespace Sys2Proof.Machine

/-! ## Fields of Table 03-7 -/

def mAcc (c : W128) : Nat := fieldOf c 11 9
def mBSrc (c : W128) : Bool := fieldOf c 12 12 == 1
def mChan (c : W128) : Nat := fieldOf c 14 13
def mRnd (c : W128) : Bool := fieldOf c 15 15 == 1
def mFmtA (c : W128) : Nat := fieldOf c 19 16
def mFmtB (c : W128) : Nat := fieldOf c 23 20
def mM (c : W128) : Nat := fieldOf c 28 24
def mK (c : W128) : Nat := fieldOf c 44 29
def mAAddr (c : W128) : Nat := fieldOf c 65 45
def mBAddr (c : W128) : Nat := fieldOf c 86 66
def mAStride (c : W128) : Nat := fieldOf c 102 87
def mBStride (c : W128) : Nat := fieldOf c 118 103

/-- The bytes of one packed B column. -/
def mColBytes (c : W128) : Nat := if opOf c = 2 then packedSparse (mFmtB c) (mK c) else packedSize (mFmtB c) (mK c)

/-- A field that must be a multiple of 64. -/
def mis64 (c : W128) (hi lo : Nat) : List Fail := failIf (fieldOf c hi lo % 64 != 0) stMalformed lo

/-- Whether n rows of len bytes, stride apart from a, end at or below 0x20_0000; no row ends anywhere. -/
def rowsFit (a n stride len : Nat) : Bool := n == 0 || decide (a + (n - 1) * stride + len ≤ tileSram)

/-- Whether a code is one of a list. -/
def badCode (c : Nat) (l : List Nat) : Bool := !l.contains c

def codes (lo hi : Nat) : List Nat := (List.range (hi + 1)).filter (lo ≤ ·)

/-- The checks of MMA and MMA_SPARSE (R92, R93, R98, R135). -/
def mmaChecks (_ : Dev) (c : W128) : List Fail :=
  let fa := mFmtA c
  let fb := mFmtB c
  let badA := badCode fa (codes 1 14)
  let badB := badCode fb (codes 1 14)
  let blockOk := mK c % fmtBlock fa == 0 && mK c % fmtBlock fb == 0 && (opOf c != 2 || mK c % 4 == 0)
  nonZeroFields c [(15, 15), (119, 127)] ++
  (if mBSrc c then nonZeroFields c [(66, 86), (103, 118)] else nonZeroFields c [(13, 14)]) ++
  failIf badA stMalformed 16 ++ failIf badB stMalformed 20 ++
  failIf (!badA && !badB && fmtIsInt fa != fmtIsInt fb) stMalformed 20 ++
  mis64 c 65 45 ++ mis64 c 86 66 ++ mis64 c 102 87 ++ mis64 c 118 103 ++
  failIf (!blockOk) stMalformed 29 ++
  failIf (decide (16 < mM c)) stBounds 24 ++
  failIf (!rowsFit (mAAddr c) (mM c) (mAStride c) (packedSize fa (mK c))) stBounds 29 ++
  failIf (!mBSrc c && !rowsFit (mBAddr c) 32 (mBStride c) (mColBytes c)) stBounds 29

/-- ACC_ZERO uses ACC only. -/
def accZeroChecks (_ : Dev) (c : W128) : List Fail := nonZeroFields c ((restFields 0).drop 1)

/-- ACC_LOAD uses ACC, M, A_ADDR and A_STRIDE; a row is 128 bytes. -/
def accLoadChecks (_ : Dev) (c : W128) : List Fail :=
  nonZeroFields c [(12, 12), (13, 14), (15, 15), (16, 19), (20, 23), (29, 44), (66, 86), (103, 118), (119, 127)] ++
  mis64 c 65 45 ++ mis64 c 102 87 ++ failIf (decide (16 < mM c)) stBounds 24 ++
  failIf (!rowsFit (mAAddr c) (mM c) (mAStride c) 128) stBounds 24

/-- ACC_STORE uses RND and FMT_A as well; MSF4 is not accepted (R135). -/
def accStoreChecks (_ : Dev) (c : W128) : List Fail :=
  nonZeroFields c [(12, 12), (13, 14), (20, 23), (29, 44), (66, 86), (103, 118), (119, 127)] ++
  failIf (badCode (mFmtA c) (codes 0 13)) stMalformed 16 ++
  mis64 c 65 45 ++ mis64 c 102 87 ++ failIf (decide (16 < mM c)) stBounds 24 ++
  failIf (!rowsFit (mAAddr c) (mM c) (mAStride c) (packedSize (mFmtA c) 32)) stBounds 24

/-! ## Accumulators -/

/-- Element (row, column) of an accumulator tile. -/
def Tile.accElem (t : Tile) (a row col : Nat) : W32 := t.acc.get (fun _ => 0) (512 * a + 32 * row + col)
def Tile.setAccElem (t : Tile) (a row col : Nat) (v : W32) : Tile :=
  { t with acc := t.acc.set (fun _ => 0) (512 * a + 32 * row + col) v }

/-- The cells of the first m rows of an accumulator tile, row by row. -/
def accCells (m : Nat) : List (Nat × Nat) := (List.range (32 * m)).map fun i => (i / 32, i % 32)

/-- The first m rows of an accumulator tile, each element replaced. -/
def Tile.mapAcc (t : Tile) (a m : Nat) (f : Nat → Nat → W32) : Tile :=
  (accCells m).foldl (fun t p => t.setAccElem a p.1 p.2 (f p.1 p.2)) t

/-- After a poisoned operand the accumulator tile's contents are undefined: 512 free values (R487). -/
def Dev.poisonAcc (d : Dev) (b x a : Nat) : Dev :=
  let n := d.fresh
  let d := d.updTile b x fun t => t.mapAcc a 16 fun i j => Config.freeWord (n + 32 * i + j)
  { d with fresh := n + 512 }

/-! ## Stream channels (R99) -/

/-- Bytes in a channel. -/
def unitBytes (l : List ChanUnit) : Nat := sumNat (l.map fun u => u.data.length)

/-- Takes n bytes from the front of a channel. -/
def takeUnits : List ChanUnit → Nat → List ChanUnit × List ChanUnit
  | [], _ => ([], [])
  | u :: t, n =>
    if n = 0 then ([], u :: t)
    else if u.data.length ≤ n then
      let r := takeUnits t (n - u.data.length)
      (u :: r.1, r.2)
    else ([{ u with data := u.data.take n }], { u with data := u.data.drop n } :: t)

def Tile.channel (t : Tile) (ch : Nat) : List ChanUnit := t.chan.get (fun _ => []) ch
def Tile.setChannel (t : Tile) (ch : Nat) (l : List ChanUnit) : Tile := { t with chan := t.chan.set (fun _ => []) ch l }

/-! ## MMA (R97, R147, R148) -/

/-- The rows of A as they lie in SRAM. -/
def Dev.mmaRows (d : Dev) (b x : Nat) (c : W128) : List (List Num) :=
  (List.range (mM c)).map fun i =>
    decodeRow (mFmtA c) (mK c) (d.readBytes (localBase b x + mAAddr c + i * mAStride c) (packedSize (mFmtA c) (mK c)))

/-- Whether either format is BF16 or FP16 (R147). -/
def wideGroups (c : W128) : Bool := mFmtA c == 1 || mFmtA c == 2 || mFmtB c == 1 || mFmtB c == 2

/-- One accumulator element after the products of a row and a packed column. -/
def mmaElem (c : W128) (old : W32) (row : List Num) (col : List Byte) : W32 :=
  let groups := if opOf c = 2 then sparseGroups (mK c) row (decodeSparse (mFmtB c) (mK c) col)
    else denseGroups (mK c) row (decodeRow (mFmtB c) (mK c) col)
  BitVec.ofNat 32 (accumulate (wideGroups c) old.toNat groups)

/-- The accumulator tile after an MMA on 32 packed columns; at K = 0 or M = 0 it is unchanged. -/
def Dev.mmaApply (d : Dev) (b x : Nat) (c : W128) (cols : List (List Byte)) : Dev :=
  if mK c = 0 then d else
    let rows := d.mmaRows b x c
    let old := d.tile b x
    d.updTile b x fun t => t.mapAcc (mAcc c) (mM c) fun i j =>
      mmaElem c (old.accElem (mAcc c) i j) (nth rows i []) (nth cols j [])

/-- Whether a row of A that the command reads lies in a poisoned word. -/
def Dev.mmaRowsPoisoned (d : Dev) (b x : Nat) (c : W128) : Bool :=
  (List.range (mM c)).any fun i =>
    d.poisoned (localBase b x + mAAddr c + i * mAStride c) (packedSize (mFmtA c) (mK c))

/-- Ends an MMA on its 32 packed columns; marked: one of them was poisoned (R487). -/
def Dev.mmaFinish (d : Dev) (b x : Nat) (e : QEntry) (cols : List (List Byte)) (marked : Bool) : Dev :=
  if marked || d.mmaRowsPoisoned b x e.cmd then (d.poisonAcc b x (mAcc e.cmd)).endCmd b x 0 e.idx stPoison
  else (d.mmaApply b x e.cmd cols).endCmd b x 0 e.idx stOk

/-- The bytes of taken units cut into 32 columns. -/
def unitCols (c : W128) (us : List ChanUnit) : List (List Byte) :=
  let bs := us.flatMap fun u => u.data
  (List.range 32).map fun j => bytesAt bs (j * mColBytes c) (mColBytes c)

/-- The oldest running MMA that waits on a channel takes what it still needs; with all of it the MMA ends, and the next one
takes: as often as the queue is deep. -/
def Dev.feedChannel (d : Dev) (b x ch : Nat) : Nat → Dev
  | 0 => d
  | fuel + 1 =>
    let t := d.tile b x
    match (t.queue 0).find? (fun e => e.phase == .running && mBSrc e.cmd && mChan e.cmd == ch) with
    | none => d
    | some e =>
      let need := 32 * mColBytes e.cmd - unitBytes e.taken
      let (got, rest) := takeUnits (t.channel ch) need
      let e' := { e with taken := e.taken ++ got }
      let d := d.setTile b x ((t.setChannel ch rest).updEntry 0 e.idx fun _ => e')
      if unitBytes e'.taken = 32 * mColBytes e.cmd then
        (d.mmaFinish b x e' (unitCols e.cmd e'.taken) (e'.taken.any fun u => u.mark)).feedChannel b x ch fuel
      else d

/-- The work of an MMA: B from SRAM at once, or from a stream channel as it arrives (R99). -/
def Dev.mmaRun (b x : Nat) (d : Dev) (e : QEntry) : Dev :=
  let c := e.cmd
  if mBSrc c && mK c != 0 then d.feedChannel b x (mChan c) 16
  else
    let cols := (List.range 32).map fun j =>
      d.readBytes (localBase b x + mBAddr c + j * mBStride c) (mColBytes c)
    let marked := mM c != 0 && (List.range 32).any fun j =>
      d.poisoned (localBase b x + mBAddr c + j * mBStride c) (mColBytes c)
    d.mmaFinish b x e cols marked

/-- Undefined OPs of the matrix queue are rejected here. -/
def mmaMine (op : Nat) : Bool := op == 1 || decide (6 ≤ op)

/-- MMA (R97). -/
def execMma (b x : Nat) (s : State) : Out :=
  onUnit (okSite b x) s fun d =>
    d.startCmd b x 0 mmaMine (fun d c => undefinedOp (opOf c) 5 ++ (if opOf c = 1 then mmaChecks d c else [])) (Dev.mmaRun b x)

/-- MMA_SPARSE (R97, R144). -/
def execMmaSparse (b x : Nat) (s : State) : Out :=
  onUnit (okSite b x) s fun d => d.startCmd b x 0 (· == 2) mmaChecks (Dev.mmaRun b x)

/-- ACC_ZERO (R97). -/
def execAccZero (b x : Nat) (s : State) : Out :=
  onUnit (okSite b x) s fun d => d.startCmd b x 0 (· == 3) accZeroChecks fun d e =>
    (d.updTile b x fun t => t.mapAcc (mAcc e.cmd) 16 fun _ _ => 0).endCmd b x 0 e.idx stOk

/-- ACC_LOAD. -/
def Dev.accLoadRun (b x : Nat) (d : Dev) (e : QEntry) : Dev :=
  let c := e.cmd
  let row (i : Nat) := localBase b x + mAAddr c + i * mAStride c
  if (List.range (mM c)).any fun i => d.poisoned (row i) 128 then
    (d.poisonAcc b x (mAcc c)).endCmd b x 0 e.idx stPoison
  else
    (d.updTile b x fun t => t.mapAcc (mAcc c) (mM c) fun i j =>
      BitVec.ofNat 32 (d.readNat (row i + 4 * j) 4)).endCmd b x 0 e.idx stOk

/-- ACC_LOAD (R97): M rows of 32 FP32 values, A_STRIDE apart. -/
def execAccLoad (b x : Nat) (s : State) : Out :=
  onUnit (okSite b x) s fun d => d.startCmd b x 0 (· == 4) accLoadChecks (Dev.accLoadRun b x)

/-- The draws that a final conversion of n elements takes (R159). -/
def drawsOf (rnd : Bool) (fmt n : Nat) : Nat := if rnd && fmt != 0 then n else 0

/-- ACC_STORE. -/
def Dev.accStoreRun (b x : Nat) (d : Dev) (e : QEntry) : Dev :=
  let c := e.cmd
  let t := d.tile b x
  let d := (List.range (mM c)).foldl (fun d i =>
    let vals := (List.range 32).map fun j => fp32.decode (t.accElem (mAcc c) i j).toNat
    let rnd (j : Nat) := rndAt (mRnd c && mFmtA c != 0) t.rngSeed t.rngCount (32 * i + j)
    d.write (localBase b x + mAAddr c + i * mAStride c) (encodeRow (mFmtA c) rnd vals)) d
  (d.updTile b x fun t => { t with rngCount := t.rngCount + BitVec.ofNat 64 (drawsOf (mRnd c) (mFmtA c) (32 * mM c)) }).endCmd
    b x 0 e.idx stOk

/-- ACC_STORE (R97, R157, R159): M rows converted to FMT_A under RND, A_STRIDE apart. -/
def execAccStore (b x : Nat) (s : State) : Out :=
  onUnit (okSite b x) s fun d => d.startCmd b x 0 (· == 5) accStoreChecks (Dev.accStoreRun b x)

/-- The units that stream towards a channel. -/
def Tile.streamOf (t : Tile) (ch : Nat) : List (Nat × ChanUnit) := t.streaming.get (fun _ => []) ch

/-- The next unit of a stream stands in its channel, and the channel feeds what waits on it. -/
def Dev.streamUnit (d : Dev) (b x ch idx : Nat) (u : ChanUnit) (rest : List (Nat × ChanUnit)) : Dev :=
  let t := d.tile b x
  let t := { t with streaming := t.streaming.set (fun _ => []) ch rest }
  let d := (d.setTile b x (t.setChannel ch (t.channel ch ++ [u]))).endPart b x 4 idx (if u.mark then stPoison else stOk)
  d.feedChannel b x ch 16

/-- Loft data arrives in a channel of 4 KiB that has room, and an MMA that waits on the channel takes it (R99). A poisoned
unit ends its STREAM with POISON (R487). -/
def execStreamUnitArrival (b x ch : Nat) (s : State) : Out :=
  onUnit (okSite b x && decide (ch < 4)) s fun d =>
    let t := d.tile b x
    match t.streamOf ch with
    | [] => d
    | (idx, u) :: rest =>
      d.when (d.enginesRun b x && decide (unitBytes (t.channel ch) + u.data.length ≤ 4096)) fun d => d.streamUnit b x ch idx u rest

end Sys2Proof.Machine
end

