-- ==== Sys2Proof/Machine/Placed.lean ====
section
/-! DEFINITION. Events placed at a beat (R45): those that take no measurement occur by themselves at the first beat edge that reaches their
beat, in the order of their beats, whether the edge is the next one or the one at which a forward correction ends. -/

namespace Sys2Proof.Machine

/-- An event placed at a beat: a step of a half's change (Table 02-2), a window mask (R226), the corrections of a retrace (R381), a core
that waits by WAITB (R116). -/
inductive Placed where
  | vcore (h : Nat)
  | lock (h : Nat)
  | locked (h : Nat)
  | switch (h : Nat)
  | lower (h : Nat)
  | window
  | calibration
  | wake (b x : Nat)
  deriving DecidableEq, Repr

/-- What a placed event does, if it is due. -/
def Dev.perform (d : Dev) (p : Placed) : Dev :=
  match p with
  | .vcore h => d.raiseVcore h
  | .lock h => d.lockStandby h
  | .locked h => d.standbyLocked h
  | .switch h => d.switchAt h
  | .lower h => d.lowerVcore h
  | .window => d.winDue
  | .calibration => d.calDue
  | .wake b x => d.wakeBeat b x

/-- The placed events of a half's change. -/
def Dev.placedHalf (d : Dev) (h : Nat) : List (Nat × Placed) :=
  match (d.half h).change with
  | some c => [(c.c - 3000, .vcore h), (c.c - 2000, .lock h), (c.c - 500, .locked h), (c.c, .switch h), (c.c + 1, .lower h)]
  | none => []

/-- The WAITB of a site's core, if one waits. -/
def placedWait (e : Nat × Tile) : Option (Nat × Placed) :=
  match e.2.wait with
  | some w => if w.kind = 3 then some (w.target.toNat, .wake (e.1 / 768) (e.1 % 768)) else none
  | none => none

/-- Every placed event with its beat. -/
def Dev.placed (d : Dev) : List (Nat × Placed) :=
  (List.range 16).flatMap d.placedHalf ++ d.tiles.filterMap placedWait ++
  (match d.winNext with | some (_, c) => [(c, .window)] | none => []) ++
  (if d.calState = 6 then [(d.calBeat, .calibration)] else [])

/-- A beat edge: the placed events that are due, in the order of their beats (R45). -/
def Dev.atEdge (d : Dev) : Dev :=
  (sortBy (fun p q => decide (p.1 ≤ q.1)) (d.placed.filter fun p => decide (p.1 ≤ d.beat))).foldl (fun d p => d.perform p.2) d

/-- A sampled BEAT_SYNC pulse (R47, R48, R53); a step forward completes at this edge (R45). -/
def execBeatSyncPulse (s : State) : Out := onUnit true s fun d => d.when d.syncOn fun d => (d.syncPulse).atEdge

/-- YREF is declared lost, and the counter takes up the periods since the last edge (R45, R50). -/
def execYrefLoss (periods : Nat) (s : State) : Out :=
  onUnit true s fun d => d.when d.counting fun d => (d.enterHoldover periods).atEdge

end Sys2Proof.Machine
end

