-- ==== Sys2Proof/Machine/RegRows.lean ====
section
/-! DEFINITION. The register writes that have a row of their own, each a write over the bus to that register (R10). -/

namespace Sys2Proof.Machine

/-- LOAD_ARM (R47), HOLDOVER_FORCE (R50): writes of BEAT_CTRL. -/
def execLoadArm (v : W32) (s : State) : Out := onUnit true s fun d => d.busPut (r0 .BEAT_CTRL) v

def execHoldoverForce (v : W32) (s : State) : Out := onUnit true s fun d => d.busPut (r0 .BEAT_CTRL) v

/-- A write of HALF_OPP (R57). -/
def execHalfCommit (h : Nat) (v : W32) (s : State) : Out :=
  onUnit (decide (h < 16)) s fun d => d.busPut (r1 .HALF_OPP h) v

/-- GATE and its release (R74): writes of REGION_CLK_CTRL. -/
def execGate (r : Nat) (v : W32) (s : State) : Out :=
  onUnit (decide (r < 64)) s fun d => d.busPut (r1 .REGION_CLK_CTRL r) v

def execGateRelease (r : Nat) (v : W32) (s : State) : Out :=
  onUnit (decide (r < 64)) s fun d => d.busPut (r1 .REGION_CLK_CTRL r) v

/-- Tile events (R121). -/
def execEventPost (b x : Nat) (v : W32) (s : State) : Out :=
  onUnit (okSite b x) s fun d => d.busPut (r2 .EVENT_POST b x) v

/-- RESET, RUN and REMAP_POST (R122, R127, R130): writes of TILE_CTRL. -/
def execTileReset (b x : Nat) (v : W32) (s : State) : Out :=
  onUnit (okSite b x) s fun d => d.busPut (r2 .TILE_CTRL b x) v

def execTileRun (b x : Nat) (v : W32) (s : State) : Out :=
  onUnit (okSite b x) s fun d => d.busPut (r2 .TILE_CTRL b x) v

def execTileHalt (b x : Nat) (v : W32) (s : State) : Out :=
  onUnit (okSite b x) s fun d => d.busPut (r2 .TILE_CTRL b x) v

def execRemapPost (b x : Nat) (v : W32) (s : State) : Out :=
  onUnit (okSite b x) s fun d => d.busPut (r2 .TILE_CTRL b x) v

/-- A counter of the tile, applied before the additions of the same cycle (R115). -/
def execCounterWrite (b x : Nat) (cc : Bool) (i : Nat) (v adds : W32) (s : State) : Out :=
  onUnit (okSite b x && decide (i < if cc then 16 else 32)) s fun d =>
    d.busPutWith (if cc then r3 .CC b x i else r3 .AC b x i) v adds

/-- A half of a general register (R133). -/
def execGregWrite (b x n : Nat) (hi : Bool) (v : W32) (s : State) : Out :=
  onUnit (okSite b x && decide (n < 32)) s fun d => d.busPut (if hi then r3 .GREG_HI b x n else r3 .GREG_LO b x n) v

/-- The schedule is switched (R185). -/
def execSchedEn (b x : Nat) (v : W32) (s : State) : Out :=
  onUnit (okSite b x) s fun d => d.busPut (r2 .RTR_CTRL b x) v

/-- A flow or a sink is switched. -/
def execFlowEnable (b x f : Nat) (v : W32) (s : State) : Out :=
  onUnit (okSite b x && decide (f < 32)) s fun d => d.busPut (r3 .FLOW_AC b x f) v

def execSinkEnable (b x k : Nat) (v : W32) (s : State) : Out :=
  onUnit (okSite b x && decide (k < 32)) s fun d => d.busPut (r3 .SINK_CTR b x k) v

/-- The route loader (R176). -/
def execRtParentWrite (b x : Nat) (v : W32) (s : State) : Out :=
  onUnit (okSite b x) s fun d => d.busPut (r2 .RT_PARENT b x) v

def execRtMapWrite (b t : Nat) (v : W32) (s : State) : Out :=
  onUnit (decide (b < 8) && decide (t < 704)) s fun d => d.busPut (r2 .RT_MAP b t) v

def execRouteLoad (b : Nat) (v : W32) (s : State) : Out :=
  onUnit (decide (b < 8)) s fun d => d.busPut (r1 .RT_CTRL b) v

/-- LOFT_CTRL, or a word of the cache range (R204), by number: CTRL, BASE_LO, BASE_HI, LEN_LO, LEN_HI. -/
def loftReg (b x which : Nat) : Reg :=
  r2 (nth [RegName.LOFT_CTRL, .LOFT_CACHE_BASE_LO, .LOFT_CACHE_BASE_HI, .LOFT_CACHE_LEN_LO, .LOFT_CACHE_LEN_HI] which .LOFT_CTRL) b x

def execLoftCtrlWrite (b x which : Nat) (v : W32) (s : State) : Out :=
  onUnit (okSite b x && decide (which < 5)) s fun d => d.busPut (loftReg b x which) v

/-- An invalidation of a slice's cache lines (R204). -/
def execLoftInv (b x : Nat) (v : W32) (s : State) : Out :=
  onUnit (okSite b x) s fun d => d.busPut (r2 .LOFT_INV b x) v

/-- A stack's interface stops (R228). -/
def execHbmRetire (n : Nat) (v : W32) (s : State) : Out :=
  onUnit (decide (n < 20)) s fun d => d.busPut (r1 .HBM_CTRL n) v

/-- A window commit (R226). -/
def execWinCommit (v : W32) (s : State) : Out := onUnit true s fun d => d.busPut (r0 .WIN_CTRL) v

/-- A module is released (R255). -/
def execModRelease (k : Nat) (v : W32) (s : State) : Out :=
  onUnit (decide (k < 8)) s fun d => d.busPut (r1 .MOD_CTRL k) v

/-- A transfer on the lantern bus (R254). -/
def execI2cTransfer (v : W32) (s : State) : Out := onUnit true s fun d => d.busPut (r0 .LANT_I2C) v

/-- The package leaves its yard (R271). -/
def execYardLeave (v : W32) (s : State) : Out := onUnit true s fun d => d.busPut (r0 .YARD_CTRL) v

/-- A multicast group (R277). -/
def execMcastGroupWrite (g : Nat) (v : W32) (s : State) : Out :=
  onUnit (decide (g < 256)) s fun d => d.busPut (r1 .MCAST_GROUP g) v

/-- A port router resets (R284). -/
def execPortReset (p : Nat) (v : W32) (s : State) : Out :=
  onUnit (decide (p < 32)) s fun d => d.busPut (r1 .PORT_CTRL p) v

/-- A yard link retrains (R263). -/
def execYlinkRetrain (l : Nat) (v : W32) (s : State) : Out :=
  onUnit (decide (l < 32)) s fun d => d.busPut (r1 .YLINK_CTRL l) v

/-- An Ethernet port is switched (R331). -/
def execEthEnable (p : Nat) (v : W32) (s : State) : Out :=
  onUnit (decide (p < 4)) s fun d => d.busPut (r1 .ETH_CTRL p) v

/-- CAL_CTRL (R378, R381); START comes with the voltage then measured at CALREF. -/
def execCalStart (v : W32) (calref : Nat) (s : State) : Out :=
  onUnit true s fun d => (d.noteCalref calref).busPut (r0 .CAL_CTRL) v

def execCalAbort (v : W32) (s : State) : Out := onUnit true s fun d => d.busPut (r0 .CAL_CTRL) v

def execCalCommit (v : W32) (s : State) : Out := onUnit true s fun d => d.busPut (r0 .CAL_CTRL) v

/-- The Tack room zeroises (R414) and signs (R411). -/
def execZeroise (v : W32) (s : State) : Out := onUnit true s fun d => d.busPut (r0 .TACK_CTRL) v

def execSignGo (v : W32) (s : State) : Out := onUnit true s fun d => d.busPut (r0 .TACK_CTRL) v

/-- The watchdog's kick (R420). -/
def execRmKick (v : W32) (s : State) : Out := onUnit true s fun d => d.busPut (r0 .RM_KICK) v

/-- A swap is asked for, and its check (R422). -/
def execSwapNow (v : W32) (s : State) : Out := onUnit true s fun d => d.busPut (r0 .RM_CTRL) v

def execRmSwapCheck (v : W32) (s : State) : Out := onUnit true s fun d => d.busPut (r0 .RM_SWAP_CHECK) v

/-- RM_UPDATE (R424); GO comes with the image that the holder has written into the slot that did not boot (step 1). -/
def execUpdateGo (v : W32) (image : SlotImage) (s : State) : Out :=
  onUnit true s fun d =>
    (if d.updating then d else d.updRmSt fun r => { r with staged := some image }).busPut (r0 .RM_UPDATE) v

def execUpdateAbort (v : W32) (s : State) : Out := onUnit true s fun d => d.busPut (r0 .RM_UPDATE) v

/-- A trace mode (R449). -/
def execTrcModeWrite (b x : Nat) (v : W32) (s : State) : Out :=
  onUnit (okSite b x) s fun d => d.busPut (r2 .TRC_TILE_CTRL b x) v

/-- The Barker (R456-R458). -/
def execBrkClaim (v : W32) (s : State) : Out := onUnit true s fun d => d.busPut (r0 .BRK_CLAIM) v

def execBrkComplete (v : W32) (s : State) : Out := onUnit true s fun d => d.busPut (r0 .BRK_COMPLETE) v

def execBrkSet (w : Nat) (v : W32) (s : State) : Out :=
  onUnit (decide (w < 16)) s fun d => d.busPut (r1 .BRK_SET w) v

/-- A 1 clears a pending bit without a claim (R457); a raise of the same cycle stays pending (R11). -/
def execBrkPendingClear (w : Nat) (v sets : W32) (s : State) : Out :=
  onUnit (decide (w < 16)) s fun d => d.busPutWith (r1 .BRK_PENDING w) v sets

/-- A read of a remote slot's first word, which latches the others (R461). -/
def execSlotEntryRead (b x i : Nat) (s : State) : Out :=
  onUnit (okSite b x && decide (i < 64)) s fun d => d.busGet (r3 .SLOT_ENTRY0 b x i)

end Sys2Proof.Machine
end

