-- ==== Sys2Proof/Machine/Vector.lean ====
section
/-! DEFINITION. The vector engine (R100, R101, R149-R159, R487). -/

namespace Sys2Proof.Machine

/-! ## Fields of Table 03-8 -/

def vIn (c : W128) : Nat := fieldOf c 12 9
def vRnd (c : W128) : Bool := fieldOf c 13 13 == 1
def vOut (c : W128) : Nat := fieldOf c 19 16
def vLen (c : W128) : Nat := fieldOf c 39 20
def vA (c : W128) : Nat := fieldOf c 60 40
def vB (c : W128) : Nat := fieldOf c 81 61
def vDst (c : W128) : Nat := fieldOf c 102 82

/-- The alignment of an element: its size, or one byte for a format narrower than a byte or block-scaled (R100, R154). -/
def fmtAlign (f : Nat) : Nat := if f = 0 then 4 else if f = 1 ∨ f = 2 then 2 else 1

/-- How an operation uses its fields: whether it reads SRC_A and SRC_B, and how many elements of b; the format codes accepted;
the bytes that it writes. -/
structure VecShape where
  readsA : Bool := true
  bElems : Nat → Option Nat := fun _ => none
  ins : List Nat
  outs : List Nat
  dstBytes : Nat → Nat → Nat := packedSize
  dstAlign : Nat → Nat := fmtAlign

/-- The checks of a vector command (R92, R93, R100, R135, R154). -/
def vecChecks (v : VecShape) (_ : Dev) (c : W128) : List Fail :=
  let fi := vIn c
  let fo := vOut c
  let n := vLen c
  let okCodes := v.ins.contains fi && v.outs.contains fo
  let range (a bytes : Nat) : List Fail := failIf (okCodes && decide (tileSram < a + bytes)) stBounds 20
  nonZeroFields c ([(14, 15), (103, 127)] ++ (if v.readsA then [] else [(40, 60)]) ++
    (if (v.bElems n).isSome then [] else [(61, 81)])) ++
  failIf (badCode fi v.ins) stMalformed 9 ++ failIf (badCode fo v.outs) stMalformed 16 ++
  failIf (n % fmtBlock fi != 0 || n % fmtBlock fo != 0) stMalformed 20 ++
  failIf (v.readsA && vA c % fmtAlign fi != 0) stMalformed 40 ++
  failIf ((v.bElems n).isSome && vB c % fmtAlign fi != 0) stMalformed 61 ++
  failIf (vDst c % v.dstAlign fo != 0) stMalformed 82 ++
  (if v.readsA then range (vA c) (packedSize fi n) else []) ++
  (match v.bElems n with | some k => range (vB c) (packedSize fi k) | none => []) ++
  range (vDst c) (v.dstBytes fo n)

/-- The values of n elements of a format at a tile SRAM address. -/
def Dev.vecRead (d : Dev) (b x f a n : Nat) : List Num := decodeRow f n (d.readBytes (localBase b x + a) (packedSize f n))

/-- Whether n elements of a format lie in a poisoned word. -/
def Dev.vecPoisoned (d : Dev) (b x f a n : Nat) : Bool := d.poisoned (localBase b x + a) (packedSize f n)

/-- The rounding of element i: RND, except into FP32 (R149). -/
def Dev.vecRnd (d : Dev) (b x : Nat) (c : W128) (i : Nat) : Rnd :=
  let t := d.tile b x
  rndAt (vRnd c && vOut c != 0) t.rngSeed t.rngCount i

/-- Advances the tile's random generator by n draws (R158). -/
def Dev.advanceRng (d : Dev) (b x n : Nat) : Dev :=
  d.updTile b x fun t => { t with rngCount := t.rngCount + BitVec.ofNat 64 n }

/-- A vector command that reads a poisoned operand writes its whole destination range, of free contents, with the mark, and
completes with POISON (R487). -/
def Dev.vecPoison (d : Dev) (b x : Nat) (e : QEntry) (bytes : Nat) : Dev :=
  let (bs, d) := d.freeBytes bytes
  (d.writeMarked (localBase b x + vDst e.cmd) bs (List.replicate bytes true)).endCmd b x 1 e.idx stPoison

/-- Writes results converted to FMT_OUT under RND, takes the draws (R159) and ends. The draws of one command follow one another: where a
matrix command draws in the same period the rule leaves the interleaving open (DESIGN CHOICE, log 130). -/
def Dev.vecWrite (d : Dev) (b x : Nat) (e : QEntry) (vals : List Num) : Dev :=
  let c := e.cmd
  let row := encodeRow (vOut c) (d.vecRnd b x c) vals
  ((d.write (localBase b x + vDst c) row).advanceRng b x (drawsOf (vRnd c) (vOut c) (vLen c))).endCmd b x 1 e.idx stOk

/-- An elementwise operation: f gives each result from a[i], b[i] (b[0] for SCALE) and dst[i]. -/
def Dev.vecMap (b x : Nat) (bElems : Nat → Option Nat) (readsDst : Bool) (f : Num → Num → Num → Num) (d : Dev) (e : QEntry) : Dev :=
  let c := e.cmd
  let n := vLen c
  let nb := (bElems n).getD 0
  let bad := d.vecPoisoned b x (vIn c) (vA c) n || d.vecPoisoned b x (vIn c) (vB c) nb ||
    (readsDst && d.vecPoisoned b x (vOut c) (vDst c) n)
  if bad then d.vecPoison b x e (packedSize (vOut c) n)
  else
    let as := d.vecRead b x (vIn c) (vA c) n
    let bs := d.vecRead b x (vIn c) (vB c) nb
    let ds := if readsDst then d.vecRead b x (vOut c) (vDst c) n else []
    d.vecWrite b x e ((List.range n).map fun i =>
      f (nth as i .nan) (nth bs (if nb = n then i else 0) .nan) (nth ds i .nan))

def vecIns : List Nat := codes 0 2
def vecOuts : List Nat := codes 0 4
def twoSources : VecShape := { bElems := some, ins := vecIns, outs := vecOuts }
def oneSource : VecShape := { ins := vecIns, outs := vecOuts }

/-- dst[i] := a[i] + b[i]. Undefined OPs of the vector queue are rejected here. -/
def execVecAdd (b x : Nat) (s : State) : Out :=
  onUnit (okSite b x) s fun d =>
    d.startCmd b x 1 (fun op => op == 1 || decide (14 ≤ op))
      (fun d c => undefinedOp (opOf c) 13 ++ (if opOf c = 1 then vecChecks twoSources d c else []))
      (Dev.vecMap b x some false fun u v _ => u.add v)

/-- dst[i] := a[i] * b[i]. -/
def execVecMul (b x : Nat) (s : State) : Out :=
  onUnit (okSite b x) s fun d =>
    d.startCmd b x 1 (· == 2) (vecChecks twoSources) (Dev.vecMap b x some false fun u v _ => u.mul v)

/-- dst[i] := a[i] * b[i] + dst[i]; dst is read in FMT_OUT (R149). -/
def execVecFma (b x : Nat) (s : State) : Out :=
  onUnit (okSite b x) s fun d =>
    d.startCmd b x 1 (· == 3) (vecChecks twoSources) (Dev.vecMap b x some true fun u v w => (u.mul v).add w)

/-- dst[i] := max(a[i], b[i]) (R151). -/
def execVecMax (b x : Nat) (s : State) : Out :=
  onUnit (okSite b x) s fun d =>
    d.startCmd b x 1 (· == 4) (vecChecks twoSources) (Dev.vecMap b x some false fun u v _ => u.maxOf v)

/-- dst[i] := min(a[i], b[i]) (R151). -/
def execVecMin (b x : Nat) (s : State) : Out :=
  onUnit (okSite b x) s fun d =>
    d.startCmd b x 1 (· == 5) (vecChecks twoSources) (Dev.vecMap b x some false fun u v _ => u.minOf v)

/-- dst[i] := a[i] * b[0]; b[0] is read in FMT_IN (R149). -/
def execScale (b x : Nat) (s : State) : Out :=
  onUnit (okSite b x) s fun d =>
    d.startCmd b x 1 (· == 6) (vecChecks { twoSources with bElems := fun n => some (min n 1) })
      (Dev.vecMap b x (fun n => some (min n 1)) false fun u v _ => u.mul v)

/-- dst[i] := e^a[i] (R150). -/
def execExp (b x : Nat) (s : State) : Out :=
  onUnit (okSite b x) s fun d =>
    d.startCmd b x 1 (· == 7) (vecChecks oneSource)
      (Dev.vecMap b x (fun _ => none) false fun u _ _ => fp32.decode (fnExp u))

/-- dst[i] := 1 / a[i] (R150). -/
def execRecip (b x : Nat) (s : State) : Out :=
  onUnit (okSite b x) s fun d =>
    d.startCmd b x 1 (· == 8) (vecChecks oneSource)
      (Dev.vecMap b x (fun _ => none) false fun u _ _ => fp32.decode (fnRecip u))

/-- dst[i] := 1 / sqrt a[i] (R150). -/
def execRsqrt (b x : Nat) (s : State) : Out :=
  onUnit (okSite b x) s fun d =>
    d.startCmd b x 1 (· == 9) (vecChecks oneSource)
      (Dev.vecMap b x (fun _ => none) false fun u _ _ => fp32.decode (fnRsqrt u))

/-- dst[i] := a[i] converted, from and to any format code (R149, R154). -/
def execCvt (b x : Nat) (s : State) : Out :=
  onUnit (okSite b x) s fun d =>
    d.startCmd b x 1 (· == 10) (vecChecks { ins := codes 0 14, outs := codes 0 14 })
      (Dev.vecMap b x (fun _ => none) false fun u _ _ => u)

/-- SUM. -/
def Dev.sumRun (b x : Nat) (d : Dev) (e : QEntry) : Dev :=
  let c := e.cmd
  let n := vLen c
  if n = 0 then d.endCmd b x 1 e.idx stOk
  else if d.vecPoisoned b x (vIn c) (vA c) n then d.vecPoison b x e 4
  else
    let v := fnSum (Config.sumPick d.fresh) (d.vecRead b x (vIn c) (vA c) n)
    ({ d with fresh := d.fresh + 1 }.write (localBase b x + vDst c) (bytesLE v 4)).endCmd b x 1 e.idx stOk

/-- dst[0] := the sum of a[i] in FP32, in a free order (R101, R152). -/
def execSum (b x : Nat) (s : State) : Out :=
  onUnit (okSite b x) s fun d =>
    d.startCmd b x 1 (· == 11) (vecChecks { ins := vecIns, outs := [0], dstBytes := fun _ n => 4 * min n 1 }) (Dev.sumRun b x)

/-- The maximum by R151, NaN larger than every number. -/
def maxNum : List Num → Num
  | [] => .nan
  | [x] => x
  | x :: t => x.maxOf (maxNum t)

/-- The lowest index at the maximum m. -/
def maxIndex (m : Num) (l : List Num) : Nat :=
  (findIdxFrom (fun x => if m = .nan then x == .nan else !x.lt m) l 0).getD 0

/-- RMAX. -/
def Dev.rmaxRun (b x : Nat) (d : Dev) (e : QEntry) : Dev :=
  let c := e.cmd
  let n := vLen c
  if n = 0 then d.endCmd b x 1 e.idx stOk
  else if d.vecPoisoned b x (vIn c) (vA c) n then d.vecPoison b x e 8
  else
    let l := d.vecRead b x (vIn c) (vA c) n
    let m := maxNum l
    (d.write (localBase b x + vDst c)
      (bytesLE (fp32.encode true .nearest m) 4 ++ bytesLE (maxIndex m l) 4)).endCmd b x 1 e.idx stOk

/-- dst[0] := the maximum as FP32; dst[1] := the lowest index at it, as a 32-bit integer (R151). -/
def execRmax (b x : Nat) (s : State) : Out :=
  onUnit (okSite b x) s fun d =>
    d.startCmd b x 1 (· == 12) (vecChecks { ins := vecIns, outs := [0], dstBytes := fun _ n => 8 * min n 1 }) (Dev.rmaxRun b x)

/-- RNG. -/
def Dev.rngRun (b x : Nat) (d : Dev) (e : QEntry) : Dev :=
  let c := e.cmd
  let t := d.tile b x
  let vals := (List.range (vLen c)).map fun i =>
    Num.fin false (rngDraw t.rngSeed (t.rngCount + BitVec.ofNat 64 i) >>> 40).toNat (-24)
  ((d.write (localBase b x + vDst c) (encodeRow (vOut c) (fun _ => .nearest) vals)).advanceRng b x (vLen c)).endCmd
    b x 1 e.idx stOk

/-- dst[i] := uniform in [0, 1): one draw per element, to nearest even (R153). -/
def execRng (b x : Nat) (s : State) : Out :=
  onUnit (okSite b x) s fun d =>
    d.startCmd b x 1 (· == 13) (vecChecks { readsA := false, ins := [0], outs := codes 0 2 }) (Dev.rngRun b x)

end Sys2Proof.Machine
end

