-- ==== Sys2Proof/Machine/Dispatch.lean ====
section
/-! DEFINITION. One arm per command: a direct call of its meaning. -/

namespace Sys2Proof.Machine

def exec (i : Instr) (s : State) : Host.Outcome State Fault Refusal :=
  match i with
  | .registerWrite addr v sets => Sys2Proof.Machine.execRegisterWrite addr v sets s
  | .loRead addr => Sys2Proof.Machine.execLoRead addr s
  | .rcRead addr adds => Sys2Proof.Machine.execRcRead addr adds s
  | .yrefQualify qualified => Sys2Proof.Machine.execYrefQualify qualified s
  | .beatSyncPulse => Sys2Proof.Machine.execBeatSyncPulse s
  | .syncPulseMissing => Sys2Proof.Machine.execSyncPulseMissing s
  | .loadArm v => Sys2Proof.Machine.execLoadArm v s
  | .holdoverForce v => Sys2Proof.Machine.execHoldoverForce v s
  | .holdEnd => Sys2Proof.Machine.execHoldEnd s
  | .yrefLoss periods => Sys2Proof.Machine.execYrefLoss periods s
  | .yrefReturn => Sys2Proof.Machine.execYrefReturn s
  | .halfCommit h v => Sys2Proof.Machine.execHalfCommit h v s
  | .changeVcoreStart h => Sys2Proof.Machine.execChangeVcoreStart h s
  | .standbyLockStart h => Sys2Proof.Machine.execStandbyLockStart h s
  | .readinessCheck h locked settled => Sys2Proof.Machine.execReadinessCheck h locked settled s
  | .halfSwitch h => Sys2Proof.Machine.execHalfSwitch h s
  | .loweringVcoreStart h => Sys2Proof.Machine.execLoweringVcoreStart h s
  | .changeBusyClear h => Sys2Proof.Machine.execChangeBusyClear h s
  | .pllLoss h => Sys2Proof.Machine.execPllLoss h s
  | .pllLockResume h pll => Sys2Proof.Machine.execPllLockResume h pll s
  | .pllRelockAttempt h pll locked => Sys2Proof.Machine.execPllRelockAttempt h pll locked s
  | .stretch r depth => Sys2Proof.Machine.execStretch r depth s
  | .replicaTrim r => Sys2Proof.Machine.execReplicaTrim r s
  | .gate r v => Sys2Proof.Machine.execGate r v s
  | .gateRelease r v => Sys2Proof.Machine.execGateRelease r v s
  | .stoppedAccessResume => Sys2Proof.Machine.execStoppedAccessResume s
  | .alu b x extra op narrow a rb c => Sys2Proof.Machine.execAlu b x extra op narrow a rb c s
  | .aluImm b x extra op narrow a rb imm => Sys2Proof.Machine.execAluImm b x extra op narrow a rb imm s
  | .lui b x a imm => Sys2Proof.Machine.execLui b x a imm s
  | .load b x size sgn a rb imm => Sys2Proof.Machine.execLoad b x size sgn a rb imm s
  | .store b x size a rb imm => Sys2Proof.Machine.execStore b x size a rb imm s
  | .branch b x cond a rb imm => Sys2Proof.Machine.execBranch b x cond a rb imm s
  | .jal b x a imm => Sys2Proof.Machine.execJal b x a imm s
  | .jalr b x a rb imm => Sys2Proof.Machine.execJalr b x a rb imm s
  | .push b x extra rb c => Sys2Proof.Machine.execPush b x extra rb c s
  | .pushUnstall b x => Sys2Proof.Machine.execPushUnstall b x s
  | .pusht b x extra a rb c => Sys2Proof.Machine.execPusht b x extra a rb c s
  | .waita b x extra a rb c => Sys2Proof.Machine.execWaita b x extra a rb c s
  | .waitc b x extra a rb c => Sys2Proof.Machine.execWaitc b x extra a rb c s
  | .waitb b x extra a rb => Sys2Proof.Machine.execWaitb b x extra a rb s
  | .waitSatisfied b x => Sys2Proof.Machine.execWaitSatisfied b x s
  | .waitTimeout b x => Sys2Proof.Machine.execWaitTimeout b x s
  | .acrd b x extra a c => Sys2Proof.Machine.execAcrd b x extra a c s
  | .acwr b x extra rb c adds => Sys2Proof.Machine.execAcwr b x extra rb c adds s
  | .acadd b x extra rb c => Sys2Proof.Machine.execAcadd b x extra rb c s
  | .ccrd b x extra a c => Sys2Proof.Machine.execCcrd b x extra a c s
  | .ccwr b x extra rb c adds => Sys2Proof.Machine.execCcwr b x extra rb c adds s
  | .csrr b x extra a num => Sys2Proof.Machine.execCsrr b x extra a num s
  | .csrw b x extra rb num sets => Sys2Proof.Machine.execCsrw b x extra rb num sets s
  | .yield b x extra => Sys2Proof.Machine.execYield b x extra s
  | .iflush b x extra => Sys2Proof.Machine.execIflush b x extra s
  | .trap b x extra => Sys2Proof.Machine.execTrap b x extra s
  | .eret b x extra => Sys2Proof.Machine.execEret b x extra s
  | .halt b x extra => Sys2Proof.Machine.execHalt b x extra s
  | .nop b x extra => Sys2Proof.Machine.execNop b x extra s
  | .engineNop b x q => Sys2Proof.Machine.execEngineNop b x q s
  | .commandCompletion b x q => Sys2Proof.Machine.execCommandCompletion b x q s
  | .mma b x => Sys2Proof.Machine.execMma b x s
  | .mmaSparse b x => Sys2Proof.Machine.execMmaSparse b x s
  | .accZero b x => Sys2Proof.Machine.execAccZero b x s
  | .accLoad b x => Sys2Proof.Machine.execAccLoad b x s
  | .accStore b x => Sys2Proof.Machine.execAccStore b x s
  | .streamUnitArrival b x ch => Sys2Proof.Machine.execStreamUnitArrival b x ch s
  | .vecAdd b x => Sys2Proof.Machine.execVecAdd b x s
  | .vecMul b x => Sys2Proof.Machine.execVecMul b x s
  | .vecFma b x => Sys2Proof.Machine.execVecFma b x s
  | .vecMax b x => Sys2Proof.Machine.execVecMax b x s
  | .vecMin b x => Sys2Proof.Machine.execVecMin b x s
  | .scale b x => Sys2Proof.Machine.execScale b x s
  | .exp b x => Sys2Proof.Machine.execExp b x s
  | .recip b x => Sys2Proof.Machine.execRecip b x s
  | .rsqrt b x => Sys2Proof.Machine.execRsqrt b x s
  | .cvt b x => Sys2Proof.Machine.execCvt b x s
  | .sum b x => Sys2Proof.Machine.execSum b x s
  | .rmax b x => Sys2Proof.Machine.execRmax b x s
  | .rng b x => Sys2Proof.Machine.execRng b x s
  | .copy b x found => Sys2Proof.Machine.execCopy b x found s
  | .copyd b x found => Sys2Proof.Machine.execCopyd b x found s
  | .heldPacketIssue b x => Sys2Proof.Machine.execHeldPacketIssue b x s
  | .msgLoad b x => Sys2Proof.Machine.execMsgLoad b x s
  | .msgStore b x => Sys2Proof.Machine.execMsgStore b x s
  | .atomic b x => Sys2Proof.Machine.execAtomic b x s
  | .reduce b x => Sys2Proof.Machine.execReduce b x s
  | .reduceAck b x => Sys2Proof.Machine.execReduceAck b x s
  | .mcast b x => Sys2Proof.Machine.execMcast b x s
  | .signal b x => Sys2Proof.Machine.execSignal b x s
  | .event b x => Sys2Proof.Machine.execEvent b x s
  | .loftRead b x found => Sys2Proof.Machine.execLoftRead b x found s
  | .loftWrite b x found => Sys2Proof.Machine.execLoftWrite b x found s
  | .loftStream b x found => Sys2Proof.Machine.execLoftStream b x found s
  | .score b x found => Sys2Proof.Machine.execScore b x found s
  | .targetTileArrival b x pkt found => Sys2Proof.Machine.execTargetTileArrival b x pkt found s
  | .replyArrival b x pkt => Sys2Proof.Machine.execReplyArrival b x pkt s
  | .slotTimeout b x n => Sys2Proof.Machine.execSlotTimeout b x n s
  | .eventPost b x v => Sys2Proof.Machine.execEventPost b x v s
  | .tileReset b x v => Sys2Proof.Machine.execTileReset b x v s
  | .tileResetRelease b x => Sys2Proof.Machine.execTileResetRelease b x s
  | .tileRun b x v => Sys2Proof.Machine.execTileRun b x v s
  | .tileHalt b x v => Sys2Proof.Machine.execTileHalt b x v s
  | .remapPost b x v => Sys2Proof.Machine.execRemapPost b x v s
  | .counterWrite b x cc n v adds => Sys2Proof.Machine.execCounterWrite b x cc n v adds s
  | .gregWrite b x n hi v => Sys2Proof.Machine.execGregWrite b x n hi v s
  | .routerIngress b x port pkt head body => Sys2Proof.Machine.execRouterIngress b x port pkt head body s
  | .schedStart b x => Sys2Proof.Machine.execSchedStart b x s
  | .schedSlot b x => Sys2Proof.Machine.execSchedSlot b x s
  | .frameBoundary b x => Sys2Proof.Machine.execFrameBoundary b x s
  | .addStageResume b x out => Sys2Proof.Machine.execAddStageResume b x out s
  | .schedEn b x v => Sys2Proof.Machine.execSchedEn b x v s
  | .flowEnable b x f v => Sys2Proof.Machine.execFlowEnable b x f v s
  | .sinkEnable b x k v => Sys2Proof.Machine.execSinkEnable b x k v s
  | .rtParentWrite b x v => Sys2Proof.Machine.execRtParentWrite b x v s
  | .rtMapWrite b t v => Sys2Proof.Machine.execRtMapWrite b t v s
  | .routeLoad b v => Sys2Proof.Machine.execRouteLoad b v s
  | .routeLoadDone b => Sys2Proof.Machine.execRouteLoadDone b s
  | .routeRewrite b x => Sys2Proof.Machine.execRouteRewrite b x s
  | .tapCrcError b x bundle => Sys2Proof.Machine.execTapCrcError b x bundle s
  | .tapBundleRetire b x bundle => Sys2Proof.Machine.execTapBundleRetire b x bundle s
  | .coilCrcError b x die => Sys2Proof.Machine.execCoilCrcError b x die s
  | .coilRetire b x die => Sys2Proof.Machine.execCoilRetire b x die s
  | .loftScrub b x off ecc => Sys2Proof.Machine.execLoftScrub b x off ecc s
  | .loftCtrlWrite b x which v => Sys2Proof.Machine.execLoftCtrlWrite b x which v s
  | .loftInv b x v => Sys2Proof.Machine.execLoftInv b x v s
  | .loftInvDone b x => Sys2Proof.Machine.execLoftInvDone b x s
  | .powerInterval meas => Sys2Proof.Machine.execPowerInterval meas s
  | .faultTermEnd h => Sys2Proof.Machine.execFaultTermEnd h s
  | .oppLower b => Sys2Proof.Machine.execOppLower b s
  | .railFault r uv => Sys2Proof.Machine.execRailFault r uv s
  | .coolantRead ack raw => Sys2Proof.Machine.execCoolantRead ack raw s
  | .diodeRead d t => Sys2Proof.Machine.execDiodeRead d t s
  | .trip unit => Sys2Proof.Machine.execTrip unit s
  | .hbmTraining n passed => Sys2Proof.Machine.execHbmTraining n passed s
  | .hbmTracking n => Sys2Proof.Machine.execHbmTracking n s
  | .hbmThermalUpdate n => Sys2Proof.Machine.execHbmThermalUpdate n s
  | .hbmReadout n t => Sys2Proof.Machine.execHbmReadout n t s
  | .hbmScrub n addr ecc sev => Sys2Proof.Machine.execHbmScrub n addr ecc sev s
  | .hbmRequest n pkt found sev => Sys2Proof.Machine.execHbmRequest n pkt found sev s
  | .prefetchFill n line found sev => Sys2Proof.Machine.execPrefetchFill n line found sev s
  | .lineExpire n line => Sys2Proof.Machine.execLineExpire n line s
  | .trackerIdle n k => Sys2Proof.Machine.execTrackerIdle n k s
  | .hbmRetire n v => Sys2Proof.Machine.execHbmRetire n v s
  | .stackRetire n => Sys2Proof.Machine.execStackRetire n s
  | .stackRetireDrained n => Sys2Proof.Machine.execStackRetireDrained n s
  | .winCommit v => Sys2Proof.Machine.execWinCommit v s
  | .winApply => Sys2Proof.Machine.execWinApply s
  | .shapeGeneration => Sys2Proof.Machine.execShapeGeneration s
  | .portRouterPacket p inp pkt => Sys2Proof.Machine.execPortRouterPacket p inp pkt s
  | .tagFree p tag => Sys2Proof.Machine.execTagFree p tag s
  | .creditReturnRelease b x member target n => Sys2Proof.Machine.execCreditReturnRelease b x member target n s
  | .opticalFlitReceive wg dir seq words flit => Sys2Proof.Machine.execOpticalFlitReceive wg dir seq words flit s
  | .ack wg dir msg => Sys2Proof.Machine.execAck wg dir msg s
  | .nack wg dir msg => Sys2Proof.Machine.execNack wg dir msg s
  | .credit wg dir msg => Sys2Proof.Machine.execCredit wg dir msg s
  | .laneMap wg dir msg => Sys2Proof.Machine.execLaneMap wg dir msg s
  | .laneMapAck wg dir msg => Sys2Proof.Machine.execLaneMapAck wg dir msg s
  | .laneReq wg dir msg => Sys2Proof.Machine.execLaneReq wg dir msg s
  | .pairFail wg dir => Sys2Proof.Machine.execPairFail wg dir s
  | .pairReturn wg => Sys2Proof.Machine.execPairReturn wg s
  | .ringTune wg dir tx n err => Sys2Proof.Machine.execRingTune wg dir tx n err s
  | .ringFeedforward wg dir tx n => Sys2Proof.Machine.execRingFeedforward wg dir tx n s
  | .ringLockLoss wg dir tx n => Sys2Proof.Machine.execRingLockLoss wg dir tx n s
  | .ringRelock wg dir tx n off => Sys2Proof.Machine.execRingRelock wg dir tx n off s
  | .rehop wg dir tx up => Sys2Proof.Machine.execRehop wg dir tx up s
  | .patternCheckDone wg dir lane errors => Sys2Proof.Machine.execPatternCheckDone wg dir lane errors s
  | .patternRetry wg dir lane => Sys2Proof.Machine.execPatternRetry wg dir lane s
  | .linkTraining wg dir sweepTx sweepRx errors => Sys2Proof.Machine.execLinkTraining wg dir sweepTx sweepRx errors s
  | .marginReport wg dir lane margin => Sys2Proof.Machine.execMarginReport wg dir lane margin s
  | .apcUpdate k j yard => Sys2Proof.Machine.execApcUpdate k j yard s
  | .laserFail k j => Sys2Proof.Machine.execLaserFail k j s
  | .spareSwitchIn k j => Sys2Proof.Machine.execSpareSwitchIn k j s
  | .spareLocked k j locked => Sys2Proof.Machine.execSpareLocked k j locked s
  | .switchInComplete k j => Sys2Proof.Machine.execSwitchInComplete k j s
  | .moduleInsert k => Sys2Proof.Machine.execModuleInsert k s
  | .moduleResetRelease k code => Sys2Proof.Machine.execModuleResetRelease k code s
  | .moduleReady k biasMax => Sys2Proof.Machine.execModuleReady k biasMax s
  | .moduleReleaseReq k low => Sys2Proof.Machine.execModuleReleaseReq k low s
  | .modRelease k v => Sys2Proof.Machine.execModRelease k v s
  | .moduleDark k => Sys2Proof.Machine.execModuleDark k s
  | .moduleReleaseTimeout k => Sys2Proof.Machine.execModuleReleaseTimeout k s
  | .unplannedRemoval k => Sys2Proof.Machine.execUnplannedRemoval k s
  | .i2cTransfer v => Sys2Proof.Machine.execI2cTransfer v s
  | .i2cDone ack data => Sys2Proof.Machine.execI2cDone ack data s
  | .codewordReceive l k levels flits => Sys2Proof.Machine.execCodewordReceive l k levels flits s
  | .yardAck l msg => Sys2Proof.Machine.execYardAck l msg s
  | .yardNack l msg => Sys2Proof.Machine.execYardNack l msg s
  | .yardCredit l msg => Sys2Proof.Machine.execYardCredit l msg s
  | .chMap l msg => Sys2Proof.Machine.execChMap l msg s
  | .chMapAck l msg => Sys2Proof.Machine.execChMapAck l msg s
  | .chReq l msg => Sys2Proof.Machine.execChReq l msg s
  | .ident l msg => Sys2Proof.Machine.execIdent l msg s
  | .heartbeat l msg => Sys2Proof.Machine.execHeartbeat l msg s
  | .join l msg => Sys2Proof.Machine.execJoin l msg s
  | .leave l msg => Sys2Proof.Machine.execLeave l msg s
  | .resetNotice p l msg => Sys2Proof.Machine.execResetNotice p l msg s
  | .drainReq l msg => Sys2Proof.Machine.execDrainReq l msg s
  | .drained l msg => Sys2Proof.Machine.execDrained l msg s
  | .identSend => Sys2Proof.Machine.execIdentSend s
  | .heartbeatSend => Sys2Proof.Machine.execHeartbeatSend s
  | .channelTrain l k found errors => Sys2Proof.Machine.execChannelTrain l k found errors s
  | .channelDrop l k dark => Sys2Proof.Machine.execChannelDrop l k dark s
  | .channelRetry l k => Sys2Proof.Machine.execChannelRetry l k s
  | .ylinkFail l => Sys2Proof.Machine.execYlinkFail l s
  | .joinWaitExpire => Sys2Proof.Machine.execJoinWaitExpire s
  | .joinBeat m => Sys2Proof.Machine.execJoinBeat m s
  | .memberLoss m => Sys2Proof.Machine.execMemberLoss m s
  | .yardLeave v => Sys2Proof.Machine.execYardLeave v s
  | .flowMove m => Sys2Proof.Machine.execFlowMove m s
  | .gateRequest l pkt => Sys2Proof.Machine.execGateRequest l pkt s
  | .ystreamSlot l slot => Sys2Proof.Machine.execYstreamSlot l slot s
  | .mcastGroupWrite g v => Sys2Proof.Machine.execMcastGroupWrite g v s
  | .ledgerExecute p pkt => Sys2Proof.Machine.execLedgerExecute p pkt s
  | .ledgerHoldRelease p => Sys2Proof.Machine.execLedgerHoldRelease p s
  | .portReset p v => Sys2Proof.Machine.execPortReset p v s
  | .portResetEnd p => Sys2Proof.Machine.execPortResetEnd p s
  | .portHang p => Sys2Proof.Machine.execPortHang p s
  | .lossReport p => Sys2Proof.Machine.execLossReport p s
  | .query qp msg => Sys2Proof.Machine.execQuery qp msg s
  | .loadAct qp msg => Sys2Proof.Machine.execLoadAct qp msg s
  | .startAct qp msg => Sys2Proof.Machine.execStartAct qp msg s
  | .stopAct qp msg => Sys2Proof.Machine.execStopAct qp msg s
  | .sessionOpen qp msg => Sys2Proof.Machine.execSessionOpen qp msg s
  | .sessionClose qp msg => Sys2Proof.Machine.execSessionClose qp msg s
  | .doorbell qp imm => Sys2Proof.Machine.execDoorbell qp imm s
  | .svcNop sess => Sys2Proof.Machine.execSvcNop sess s
  | .svcOpen sess => Sys2Proof.Machine.execSvcOpen sess s
  | .svcAppend sess => Sys2Proof.Machine.execSvcAppend sess s
  | .svcCancel sess => Sys2Proof.Machine.execSvcCancel sess s
  | .svcClose sess => Sys2Proof.Machine.execSvcClose sess s
  | .loadWeights sess far => Sys2Proof.Machine.execLoadWeights sess far s
  | .readStatus sess => Sys2Proof.Machine.execReadStatus sess s
  | .adopt sess => Sys2Proof.Machine.execAdopt sess s
  | .decodeRound outs fault beats => Sys2Proof.Machine.execDecodeRound outs fault beats s
  | .prefillChunk n => Sys2Proof.Machine.execPrefillChunk n s
  | .loftLossReload b x => Sys2Proof.Machine.execLoftLossReload b x s
  | .masterRecopy n => Sys2Proof.Machine.execMasterRecopy n s
  | .kvLoss n => Sys2Proof.Machine.execKvLoss n s
  | .relayout => Sys2Proof.Machine.execRelayout s
  | .leadMove => Sys2Proof.Machine.execLeadMove s
  | .sessionLost sess => Sys2Proof.Machine.execSessionLost sess s
  | .adoptHoldExpire n => Sys2Proof.Machine.execAdoptHoldExpire n s
  | .ethFrameRx p frame => Sys2Proof.Machine.execEthFrameRx p frame s
  | .ethLinkRetry p up => Sys2Proof.Machine.execEthLinkRetry p up s
  | .pfcFrame p pauses => Sys2Proof.Machine.execPfcFrame p pauses s
  | .pfcXoff p kb => Sys2Proof.Machine.execPfcXoff p kb s
  | .ceReceive p qp => Sys2Proof.Machine.execCeReceive p qp s
  | .cnpReceive qp => Sys2Proof.Machine.execCnpReceive qp s
  | .rateRecover qp => Sys2Proof.Machine.execRateRecover qp s
  | .send qp msg => Sys2Proof.Machine.execSend qp msg s
  | .rdmaWrite qp va key data imm => Sys2Proof.Machine.execRdmaWrite qp va key data imm s
  | .rdmaRead qp va key len => Sys2Proof.Machine.execRdmaRead qp va key len s
  | .cmReq p req => Sys2Proof.Machine.execCmReq p req s
  | .cmDreq qp => Sys2Proof.Machine.execCmDreq qp s
  | .ackTimeout qp => Sys2Proof.Machine.execAckTimeout qp s
  | .ethEnable p v => Sys2Proof.Machine.execEthEnable p v s
  | .calStart v calref => Sys2Proof.Machine.execCalStart v calref s
  | .calPassEnd results => Sys2Proof.Machine.execCalPassEnd results s
  | .calAbort v => Sys2Proof.Machine.execCalAbort v s
  | .calCommit v => Sys2Proof.Machine.execCalCommit v s
  | .calApply => Sys2Proof.Machine.execCalApply s
  | .fieldRecordWrite => Sys2Proof.Machine.execFieldRecordWrite s
  | .pkgResetRise => Sys2Proof.Machine.execPkgResetRise s
  | .pkgResetFall => Sys2Proof.Machine.execPkgResetFall s
  | .vauxLoss removed => Sys2Proof.Machine.execVauxLoss removed s
  | .secureBoot s0 s1 => Sys2Proof.Machine.execSecureBoot s0 s1 s
  | .configApply => Sys2Proof.Machine.execConfigApply s
  | .cfgWrite => Sys2Proof.Machine.execCfgWrite s
  | .cfgWriteCheck => Sys2Proof.Machine.execCfgWriteCheck s
  | .cfgWait => Sys2Proof.Machine.execCfgWait s
  | .cfgPoll => Sys2Proof.Machine.execCfgPoll s
  | .phase3Start => Sys2Proof.Machine.execPhase3Start s
  | .phase3Timeout => Sys2Proof.Machine.execPhase3Timeout s
  | .phase4End => Sys2Proof.Machine.execPhase4End s
  | .barnTest b => Sys2Proof.Machine.execBarnTest b s
  | .barnTestDone b res => Sys2Proof.Machine.execBarnTestDone b res s
  | .barnEntry b => Sys2Proof.Machine.execBarnEntry b s
  | .zeroise v => Sys2Proof.Machine.execZeroise v s
  | .signGo v => Sys2Proof.Machine.execSignGo v s
  | .signDone => Sys2Proof.Machine.execSignDone s
  | .extest => Sys2Proof.Machine.execExtest s
  | .clamp => Sys2Proof.Machine.execClamp s
  | .highz => Sys2Proof.Machine.execHighz s
  | .intscan => Sys2Proof.Machine.execIntscan s
  | .flashAccess => Sys2Proof.Machine.execFlashAccess s
  | .idcode => Sys2Proof.Machine.execIdcode s
  | .samplePreload => Sys2Proof.Machine.execSamplePreload s
  | .bypass => Sys2Proof.Machine.execBypass s
  | .divergence a b => Sys2Proof.Machine.execDivergence a b s
  | .rmKick v => Sys2Proof.Machine.execRmKick v s
  | .watchdog => Sys2Proof.Machine.execWatchdog s
  | .warmRestart => Sys2Proof.Machine.execWarmRestart s
  | .rejoin => Sys2Proof.Machine.execRejoin s
  | .carouselSwap nonce => Sys2Proof.Machine.execCarouselSwap nonce s
  | .swapNow v => Sys2Proof.Machine.execSwapNow v s
  | .rmSwapCheck v => Sys2Proof.Machine.execRmSwapCheck v s
  | .swapFail => Sys2Proof.Machine.execSwapFail s
  | .switchback nonce => Sys2Proof.Machine.execSwitchback nonce s
  | .updateGo v image => Sys2Proof.Machine.execUpdateGo v image s
  | .updateAbort v => Sys2Proof.Machine.execUpdateAbort v s
  | .updateHandover ok nonce => Sys2Proof.Machine.execUpdateHandover ok nonce s
  | .updateConfirmEnd => Sys2Proof.Machine.execUpdateConfirmEnd s
  | .noMaster => Sys2Proof.Machine.execNoMaster s
  | .noMasterEthDisable => Sys2Proof.Machine.execNoMasterEthDisable s
  | .farrierRegionTest r failed => Sys2Proof.Machine.execFarrierRegionTest r failed s
  | .remapForwardEnd b x => Sys2Proof.Machine.execRemapForwardEnd b x s
  | .scheduleReplace b half ok => Sys2Proof.Machine.execScheduleReplace b half ok s
  | .barnExit r => Sys2Proof.Machine.execBarnExit r s
  | .barnReentry b => Sys2Proof.Machine.execBarnReentry b s
  | .lostRecord b x => Sys2Proof.Machine.execLostRecord b x s
  | .trcModeWrite b x v => Sys2Proof.Machine.execTrcModeWrite b x v s
  | .chunkSend b x => Sys2Proof.Machine.execChunkSend b x s
  | .brkClaim v => Sys2Proof.Machine.execBrkClaim v s
  | .brkComplete v => Sys2Proof.Machine.execBrkComplete v s
  | .brkSet w v => Sys2Proof.Machine.execBrkSet w v s
  | .brkPendingClear w v sets => Sys2Proof.Machine.execBrkPendingClear w v sets s
  | .hangScan => Sys2Proof.Machine.execHangScan s
  | .hangSnapshot => Sys2Proof.Machine.execHangSnapshot s
  | .slotEntryRead b x n => Sys2Proof.Machine.execSlotEntryRead b x n s
  | .linkUpChange p up => Sys2Proof.Machine.execLinkUpChange p up s
  | .moduleFault k => Sys2Proof.Machine.execModuleFault k s
  | .hbmCommandTimeout n k => Sys2Proof.Machine.execHbmCommandTimeout n k s
  | .rdmaReadResponse qp ok data => Sys2Proof.Machine.execRdmaReadResponse qp ok data s
  | .portUncorrectableError p => Sys2Proof.Machine.execPortUncorrectableError p s
  | .ylinkRetrain l v => Sys2Proof.Machine.execYlinkRetrain l v s

end Sys2Proof.Machine
end

