-- ==== Sys2Proof/Machine/Tick.lean ====
section
/-! DEFINITION. What a beat does by itself: step takes it where no command waits (a choice of the model, in the assumption log). Time
passes on the state as it stands; then the beat edge applies what waits for it. -/

namespace Sys2Proof.Machine

/-! ## A beat passes -/

/-- Units of 1/6400 cycle by which a region's clock advances in a beat: FREQ_MHZ × (64 - SKIP) (R60, Table 14-1). -/
def Dev.unitRate (d : Dev) (r : Nat) : Nat :=
  if d.running r then
    let h := halfOfRegion r
    d.oppFreq h (d.oppCur h) * (64 - d.getF (r1 .HALF_THROTTLE h) Fld.HALF_THROTTLE_SKIP)
  else 0

/-- Whole cycles of a region that end in the beat. -/
def Dev.cyclesIn (d : Dev) (r : Nat) : Nat :=
  let u := (d.region r).units
  (u + d.unitRate r) / 6400 - u / 6400

/-- The utilisation counters of a site over a number of units (Table 14-1). -/
def Tile.passUnits (t : Tile) (u : Nat) : Tile :=
  let add (m : Sparse Nat) (k : Nat) (c : Bool) : Sparse Nat := if c then m.upd (fun _ => 0) k (· + u) else m
  let busy (q : Nat) : Bool := (t.queue q).any fun e => e.phase == .running
  { t with util := (List.range 6).foldl (fun m q => add m (3 + q) (busy q)) (add t.util 2 t.wait.isSome) }

def Dev.passTiles (d : Dev) : Dev :=
  d.tiles.foldl (fun acc e =>
    let r := regionOf (e.1 / 768) (e.1 % 768)
    acc.updTile (e.1 / 768) (e.1 % 768) fun t => t.passUnits (d.unitRate r)) d

/-- The regions' clocks over the beat; the copies of a stopped region keep their beat, those of a running one follow (R44). -/
def Dev.passRegions (d : Dev) : Dev :=
  (List.range 64).foldl (fun acc r =>
    acc.updRegion r fun g => { g with
      units := g.units + d.unitRate r, stretching := false
      stale := if d.running r || !g.started then none else some (d.copyBeat r) }) d

/-- Whether a flight is a bounded packet at the head of its buffer in a router. -/
def Dev.atHead (d : Dev) (f : Flight) : Bool :=
  match f.place with
  | .router _ _ _ => f.come && pClass f.pkt == 0 && d.isFront f.place f.pkt
  | _ => false

/-- Mesh outputs with a bounded head that waits: for the guard (R184), or for room in the next buffer. -/
def Dev.waitingOutputs (d : Dev) (guard : Bool) : List (Nat × Nat × Nat) :=
  ((d.net.filter d.atHead).filterMap fun f => match f.place with
    | .router b x _ =>
      let o := d.outputOf b x f.pkt
      let room := d.nextRoom b x f.pkt
      if (if guard then room && (d.linked b x o).isSome && d.guarded b x o else !room) then some (b, x, o) else none
    | _ => none).eraseDups

/-- Heads of router buffers wait the cycles of the beat (R183). -/
def Dev.passHeads (d : Dev) : Dev :=
  { d with net := d.net.map fun f => match f.place with
      | .router b x _ => if d.atHead f then { f with waited := f.waited + d.cyclesIn (regionOf b x) } else f
      | _ => f }

/-- The stall counters of routers, tiles and port routers over the beat. -/
def Dev.countStalls (d : Dev) : Dev :=
  let cycles (w : Nat × Nat × Nat) : Nat := d.cyclesIn (regionOf w.1 w.2.1)
  let e := (d.waitingOutputs false).foldl (fun acc w =>
    acc.addF (r3 .PORT_CREDIT_STALL w.1 w.2.1 w.2.2) Fld.PORT_CREDIT_STALL_CNT (cycles w)) d
  let e := (d.waitingOutputs true).foldl (fun acc w =>
    acc.addF (r3 .PORT_GUARD_WAIT w.1 w.2.1 w.2.2) Fld.PORT_GUARD_WAIT_CNT (cycles w)) e
  let e := d.tiles.foldl (fun acc t =>
    if d.slotStalled (t.1 / 768) (t.1 % 768) then
      acc.inc (r2 .TILE_SLOT_STALL (t.1 / 768) (t.1 % 768)) Fld.TILE_SLOT_STALL_STALL
    else acc) e
  let e := ((List.range 8).filter fun b => d.tiles.any fun t => t.1 / 768 == b && !t.2.held.isEmpty).foldl (fun acc b =>
    if d.creditStalled b then acc.inc (r1 .SRC_CREDIT_STALL b) Fld.SRC_CREDIT_STALL_CNT else acc) e
  let e := (d.ports.map (·.1)).foldl (fun acc p =>
    if d.tagStalled p then acc.inc (r1 .TAG_STALL p) Fld.TAG_STALL_CNT else acc) e
  (List.range 32).foldl (fun acc p =>
    if d.flag (r1 .PORT_STATUS p) Fld.PORT_STATUS_LEDGER_HOLD then acc.inc (r1 .LEDGER_HOLD_BEATS p) Fld.LEDGER_HOLD_BEATS_CNT
    else acc) e

/-! ## The beat edge -/

/-- Writes of GATE take effect (R74). -/
def Dev.edgeGates (d : Dev) : Dev :=
  (List.range 64).foldl (fun d r => match (d.region r).gatePend with
    | some on => d.updRegion r fun g => { g with gate := on, gatePend := none }
    | none => d) d

/-- Writes of TILE_CTRL.RESET take effect (R130). -/
def Dev.edgeResets (d : Dev) : Dev :=
  (d.tiles.filter fun e => e.2.resetPend).foldl (fun d e => d.enterReset (e.1 / 768) (e.1 % 768)) d

/-- VCORE enables that go low at their beat (R469). -/
def Dev.edgeRails (d : Dev) : Dev :=
  (List.range 16).foldl (fun d h => match (d.half h).offAt with
    | some t => if t ≤ d.beat then d.updHalf h fun v => { v with vcoreEn := false, offAt := none } else d
    | none => d) d

/-- Pauses that end (R334). -/
def Dev.edgePauses (d : Dev) : Dev :=
  (List.range 4).foldl (fun d p =>
    ((d.ethSt p).pauseEnd.filter fun e => decide (e.2 ≤ d.beat)).foldl (fun d e => d.ethResume p e.1) d) d

/-- Whether a stack's uncorrectable events of the last 2^32 beats exceed HBM_UE_LIMIT (R216). -/
def Dev.ueExceeded (d : Dev) (n : Nat) : Bool :=
  decide (d.getF (r1 .HBM_UE_LIMIT n) Fld.HBM_UE_LIMIT_LIMIT < ((d.hbm n).ueBeats.filter fun t => decide (d.beat < t + 2 ^ 32)).length)

/-- Stacks that R216 retires begin their retirement, one window change at a time; those in retirement go on with it (R228). -/
def Dev.edgeStacks (d : Dev) : Dev :=
  (List.range 20).foldl (fun d n =>
    let d := d.maskStack n
    let due := d.ueExceeded n || (d.hbm n).noRepair
    if d.hasMaster && d.stackIn n && (d.hbm n).retiring.isNone && d.winNext.isNone && due then d.retireStack n else d) d

/-- Lines that wait at a port router for the HBM controller go on. -/
def Dev.edgeLines (d : Dev) : Dev := (d.ports.filter fun e => !e.2.lines.isEmpty).foldl (fun d e => d.drainLines e.1) d

/-- What waits for firmware and for the service: an act's tiles whose half has come to its point, STOP_ACT answers, completion
records that found no room, CANCELs and CLOSEs while nothing is generated. -/
def Dev.edgeService (d : Dev) : Dev :=
  let d := ((d.startHeld).actStopped).edgeHeads.flushWaiting
  if d.underWay then d else d.settleAll

/-- What waits for the beat edge, after the placed events. -/
def Dev.edge (d : Dev) : Dev :=
  let d := ((((((d.atEdge).edgeReturn).edgeOscillator).edgeTest.edgeTrips.edgeGates).edgeResets).edgeRails).edgePauses
  d.edgeStacks.edgeMoves.edgeLines.edgeOptics.edgeOwed.edgeCredits.edgeYard.edgeHost.edgeService

/-- One beat. Before the counter starts, nothing passes. -/
def Dev.tick (d : Dev) : Dev :=
  d.when d.counting fun d => ((((d.countStalls).passHeads).passTiles).passRegions.passBeats 1).edge

end Sys2Proof.Machine
end

