-- ==== Sys2Proof/WellFormed.lean ====
section
/-! DEFINITION. The commands whose operands name units that the device has. The spec numbers every unit; a command on a number beyond
the last is no command of this device (the model stops at it with noSuchUnit). -/

namespace Sys2Proof

open Machine

/-- Every operand names a unit that the device has. -/
def Instr.wf : Instr → Bool
  | .registerWrite addr _ _ => okAddr addr
  | .loRead addr => okAddr addr
  | .rcRead addr _ => okAddr addr
  | .yrefQualify _ => true
  | .beatSyncPulse => true
  | .syncPulseMissing => true
  | .loadArm _ => true
  | .holdoverForce _ => true
  | .holdEnd => true
  | .yrefLoss _ => true
  | .yrefReturn => true
  | .halfCommit h _ => decide (h < 16)
  | .changeVcoreStart h => decide (h < 16)
  | .standbyLockStart h => decide (h < 16)
  | .readinessCheck h _ _ => decide (h < 16)
  | .halfSwitch h => decide (h < 16)
  | .loweringVcoreStart h => decide (h < 16)
  | .changeBusyClear h => decide (h < 16)
  | .pllLoss h => decide (h < 16)
  | .pllLockResume h _ => decide (h < 16)
  | .pllRelockAttempt h _ _ => decide (h < 16)
  | .stretch r _ => decide (r < 64)
  | .replicaTrim r => decide (r < 64)
  | .gate r _ => decide (r < 64)
  | .gateRelease r _ => decide (r < 64)
  | .stoppedAccessResume => true
  | .alu b x _ _ _ a rb c => okSite b x && decide (a < 32) && decide (rb < 32) && decide (c < 32)
  | .aluImm b x _ _ _ a rb _ => okSite b x && decide (a < 32) && decide (rb < 32)
  | .lui b x a _ => okSite b x && decide (a < 32)
  | .load b x _ _ a rb _ => okSite b x && decide (a < 32) && decide (rb < 32)
  | .store b x _ a rb _ => okSite b x && decide (a < 32) && decide (rb < 32)
  | .branch b x _ a rb _ => okSite b x && decide (a < 32) && decide (rb < 32)
  | .jal b x a _ => okSite b x && decide (a < 32)
  | .jalr b x a rb _ => okSite b x && decide (a < 32) && decide (rb < 32)
  | .push b x _ rb c => okSite b x && decide (rb < 32) && decide (c < 32)
  | .pushUnstall b x => okSite b x
  | .pusht b x _ a rb c => okSite b x && decide (a < 32) && decide (rb < 32) && decide (c < 32)
  | .waita b x _ a rb c => okSite b x && decide (a < 32) && decide (rb < 32) && decide (c < 32)
  | .waitc b x _ a rb c => okSite b x && decide (a < 32) && decide (rb < 32) && decide (c < 32)
  | .waitb b x _ a rb => okSite b x && decide (a < 32) && decide (rb < 32)
  | .waitSatisfied b x => okSite b x
  | .waitTimeout b x => okSite b x
  | .acrd b x _ a c => okSite b x && decide (a < 32) && decide (c < 32)
  | .acwr b x _ rb c _ => okSite b x && decide (rb < 32) && decide (c < 32)
  | .acadd b x _ rb c => okSite b x && decide (rb < 32) && decide (c < 32)
  | .ccrd b x _ a c => okSite b x && decide (a < 32) && decide (c < 32)
  | .ccwr b x _ rb c _ => okSite b x && decide (rb < 32) && decide (c < 32)
  | .csrr b x _ a _ => okSite b x && decide (a < 32)
  | .csrw b x _ rb _ _ => okSite b x && decide (rb < 32)
  | .yield b x _ => okSite b x
  | .iflush b x _ => okSite b x
  | .trap b x _ => okSite b x
  | .eret b x _ => okSite b x
  | .halt b x _ => okSite b x
  | .nop b x _ => okSite b x
  | .engineNop b x q => okSite b x && decide (q < 6)
  | .commandCompletion b x q => okSite b x && decide (q < 6)
  | .mma b x => okSite b x
  | .mmaSparse b x => okSite b x
  | .accZero b x => okSite b x
  | .accLoad b x => okSite b x
  | .accStore b x => okSite b x
  | .streamUnitArrival b x ch => okSite b x && decide (ch < 4)
  | .vecAdd b x => okSite b x
  | .vecMul b x => okSite b x
  | .vecFma b x => okSite b x
  | .vecMax b x => okSite b x
  | .vecMin b x => okSite b x
  | .scale b x => okSite b x
  | .exp b x => okSite b x
  | .recip b x => okSite b x
  | .rsqrt b x => okSite b x
  | .cvt b x => okSite b x
  | .sum b x => okSite b x
  | .rmax b x => okSite b x
  | .rng b x => okSite b x
  | .copy b x _ => okSite b x
  | .copyd b x _ => okSite b x
  | .heldPacketIssue b x => okSite b x
  | .msgLoad b x => okSite b x
  | .msgStore b x => okSite b x
  | .atomic b x => okSite b x
  | .reduce b x => okSite b x
  | .reduceAck b x => okSite b x
  | .mcast b x => okSite b x
  | .signal b x => okSite b x
  | .event b x => okSite b x
  | .loftRead b x _ => okSite b x
  | .loftWrite b x _ => okSite b x
  | .loftStream b x _ => okSite b x
  | .score b x _ => okSite b x
  | .targetTileArrival b x _ _ => okSite b x
  | .replyArrival b x _ => okSite b x
  | .slotTimeout b x i => okSite b x && decide (i < 64)
  | .eventPost b x _ => okSite b x
  | .tileReset b x _ => okSite b x
  | .tileResetRelease b x => okSite b x
  | .tileRun b x _ => okSite b x
  | .tileHalt b x _ => okSite b x
  | .remapPost b x _ => okSite b x
  | .counterWrite b x cc i _ _ => okSite b x && decide (i < if cc then 16 else 32)
  | .gregWrite b x n _ _ => okSite b x && decide (n < 32)
  | .routerIngress b x port _ _ _ => okSite b x && hasPort x port
  | .schedStart b x => okSite b x
  | .schedSlot b x => okSite b x
  | .frameBoundary b x => okSite b x
  | .addStageResume b x out => okSite b x && decide (out < 5)
  | .schedEn b x _ => okSite b x
  | .flowEnable b x f _ => okSite b x && decide (f < 32)
  | .sinkEnable b x k _ => okSite b x && decide (k < 32)
  | .rtParentWrite b x _ => okSite b x
  | .rtMapWrite b t _ => decide (b < 8) && decide (t < 704)
  | .routeLoad b _ => decide (b < 8)
  | .routeLoadDone b => decide (b < 8)
  | .routeRewrite b x => okSite b x
  | .tapCrcError b x bundle => okSite b x && isTap x && decide (bundle < 5)
  | .tapBundleRetire b x bundle => okSite b x && isTap x && decide (bundle < 5)
  | .coilCrcError b x die => okSite b x && decide (die < 4)
  | .coilRetire b x die => okSite b x && decide (die < 4)
  | .loftScrub b x off _ => okSite b x && decide (off < 2 ^ 24)
  | .loftCtrlWrite b x which _ => okSite b x && decide (which < 5)
  | .loftInv b x _ => okSite b x
  | .loftInvDone b x => okSite b x
  | .powerInterval _ => true
  | .faultTermEnd h => decide (h < 16)
  | .oppLower b => decide (b < 8)
  | .railFault r _ => decide (r < 45)
  | .coolantRead _ _ => true
  | .diodeRead i t => decide (i < 24) && decide (t < 4096)
  | .trip unit => decide (unit < 24)
  | .hbmTraining n _ => decide (n < 20)
  | .hbmTracking n => decide (n < 20)
  | .hbmThermalUpdate n => decide (n < 20)
  | .hbmReadout n t => decide (n < 20) && decide (t < 256)
  | .hbmScrub n addr _ _ => decide (n < 20) && decide (addr < stackBytes)
  | .hbmRequest n _ _ _ => decide (n < 20)
  | .prefetchFill n _ _ _ => decide (n < 20)
  | .lineExpire n _ => decide (n < 20)
  | .trackerIdle n _ => decide (n < 20)
  | .hbmRetire n _ => decide (n < 20)
  | .stackRetire n => decide (n < 20)
  | .stackRetireDrained n => decide (n < 20)
  | .winCommit _ => true
  | .winApply => true
  | .shapeGeneration => true
  | .portRouterPacket p inp _ => decide (p < 32) && decide (inp ≤ 40)
  | .tagFree p tag => decide (p < 8 || (28 ≤ p && p < 32)) && decide (tag < 8192)
  | .creditReturnRelease b x member target _ => okSite b x && decide (member < 16) && decide (target < 28)
  | .opticalFlitReceive wg dir seq _ _ => okWg wg dir && decide (seq < 4096)
  | .ack wg dir _ => okWg wg dir
  | .nack wg dir _ => okWg wg dir
  | .credit wg dir _ => okWg wg dir
  | .laneMap wg dir _ => okWg wg dir
  | .laneMapAck wg dir _ => okWg wg dir
  | .laneReq wg dir _ => okWg wg dir
  | .pairFail wg dir => okWg wg dir
  | .pairReturn wg => okWg wg 0
  | .ringTune wg dir _ n _ => okRing wg dir n
  | .ringFeedforward wg dir _ n => okRing wg dir n
  | .ringLockLoss wg dir _ n => okRing wg dir n
  | .ringRelock wg dir _ n off => okRing wg dir n && decide (-50000 ≤ off) && decide (off ≤ 50000)
  | .rehop wg dir _ _ => okWg wg dir
  | .patternCheckDone wg dir lane _ => okRing wg dir lane
  | .patternRetry wg dir lane => okRing wg dir lane
  | .linkTraining wg dir _ _ _ => okWg wg dir
  | .marginReport wg dir lane _ => okRing wg dir lane
  | .apcUpdate k j _ => okLaser k j
  | .laserFail k j => okLaser k j
  | .spareSwitchIn k j => okLaser k j
  | .spareLocked k j _ => okLaser k j && decide (j < 56)
  | .switchInComplete k j => okLaser k j && decide (j < 56)
  | .moduleInsert k => decide (k < 8)
  | .moduleResetRelease k _ => decide (k < 8)
  | .moduleReady k _ => decide (k < 8)
  | .moduleReleaseReq k _ => decide (k < 8)
  | .modRelease k _ => decide (k < 8)
  | .moduleDark k => decide (k < 8)
  | .moduleReleaseTimeout k => decide (k < 8)
  | .unplannedRemoval k => decide (k < 8)
  | .i2cTransfer _ => true
  | .i2cDone _ _ => true
  | .codewordReceive l k _ _ => okChannel l k
  | .yardAck l _ => decide (l < 32)
  | .yardNack l _ => decide (l < 32)
  | .yardCredit l _ => decide (l < 32)
  | .chMap l _ => decide (l < 32)
  | .chMapAck l _ => decide (l < 32)
  | .chReq l _ => decide (l < 32)
  | .ident l _ => decide (l < 32)
  | .heartbeat l _ => decide (l < 32)
  | .join l _ => decide (l < 32)
  | .leave l _ => decide (l < 32)
  | .resetNotice p l _ => decide (p < 32) && decide (l ≤ 32)
  | .drainReq l _ => decide (l < 32)
  | .drained l _ => decide (l < 32)
  | .identSend => true
  | .heartbeatSend => true
  | .channelTrain l k _ _ => okChannel l k
  | .channelDrop l k _ => okChannel l k
  | .channelRetry l k => okChannel l k
  | .ylinkFail l => decide (l < 32)
  | .joinWaitExpire => true
  | .joinBeat m => decide (m < 16)
  | .memberLoss m => decide (m < 16)
  | .yardLeave _ => true
  | .flowMove m => decide (m < 16)
  | .gateRequest l _ => decide (l < 32)
  | .ystreamSlot l slot => decide (l < 32) && decide (slot < 64)
  | .mcastGroupWrite g _ => decide (g < 256)
  | .ledgerExecute p _ => decide (p < 28)
  | .ledgerHoldRelease p => decide (p < 28)
  | .portReset p _ => decide (p < 32)
  | .portResetEnd p => decide (p < 32)
  | .portHang p => decide (p < 32)
  | .lossReport p => decide (p < 32)
  | .query qp msg => decide (qp < 4096) && isRequest 1 msg
  | .loadAct qp msg => decide (qp < 4096) && isRequest 2 msg
  | .startAct qp msg => decide (qp < 4096) && isRequest 3 msg
  | .stopAct qp msg => decide (qp < 4096) && isRequest 4 msg
  | .sessionOpen qp msg => decide (qp < 4096) && isRequest 5 msg
  | .sessionClose qp msg => decide (qp < 4096) && isRequest 6 msg
  | .doorbell qp _ => decide (qp < 4096)
  | .svcNop sess => decide (sess < 16)
  | .svcOpen sess => decide (sess < 16)
  | .svcAppend sess => decide (sess < 16)
  | .svcCancel sess => decide (sess < 16)
  | .svcClose sess => decide (sess < 16)
  | .loadWeights sess _ => decide (sess < 16)
  | .readStatus sess => decide (sess < 16)
  | .adopt sess => decide (sess < 16)
  | .decodeRound _ _ _ => true
  | .prefillChunk i => decide (i < 256)
  | .loftLossReload b x => okSite b x
  | .masterRecopy n => decide (n < 20)
  | .kvLoss n => decide (n < 20)
  | .relayout => true
  | .leadMove => true
  | .sessionLost sess => decide (sess < 16)
  | .adoptHoldExpire i => decide (i < 256)
  | .ethFrameRx p _ => decide (p < 4)
  | .ethLinkRetry p _ => decide (p < 4)
  | .pfcFrame p pauses => decide (p < 4) && pauses.all fun e => decide (e.1 < 8) && decide (e.2 < 65536)
  | .pfcXoff p kb => decide (p < 4) && decide (kb ≤ 2048)
  | .ceReceive p qp => decide (p < 4) && decide (qp < 4096)
  | .cnpReceive qp => decide (qp < 4096)
  | .rateRecover qp => decide (qp < 4096)
  | .send qp _ => decide (qp < 4096)
  | .rdmaWrite qp _ _ _ _ => decide (qp < 4096)
  | .rdmaRead qp _ _ _ => decide (qp < 4096)
  | .cmReq p _ => decide (p < 4)
  | .cmDreq qp => decide (qp < 4096)
  | .ackTimeout qp => decide (qp < 4096)
  | .ethEnable p _ => decide (p < 4)
  | .calStart _ _ => true
  | .calPassEnd _ => true
  | .calAbort _ => true
  | .calCommit _ => true
  | .calApply => true
  | .fieldRecordWrite => true
  | .pkgResetRise => true
  | .pkgResetFall => true
  | .vauxLoss _ => true
  | .secureBoot _ _ => true
  | .configApply => true
  | .cfgWrite => true
  | .cfgWriteCheck => true
  | .cfgWait => true
  | .cfgPoll => true
  | .phase3Start => true
  | .phase3Timeout => true
  | .phase4End => true
  | .barnTest b => decide (b < 8)
  | .barnTestDone b _ => decide (b < 8)
  | .barnEntry b => decide (b < 8)
  | .zeroise _ => true
  | .signGo _ => true
  | .signDone => true
  | .extest => true
  | .clamp => true
  | .highz => true
  | .intscan => true
  | .flashAccess => true
  | .idcode => true
  | .samplePreload => true
  | .bypass => true
  | .divergence _ _ => true
  | .rmKick _ => true
  | .watchdog => true
  | .warmRestart => true
  | .rejoin => true
  | .carouselSwap _ => true
  | .swapNow _ => true
  | .rmSwapCheck _ => true
  | .swapFail => true
  | .switchback _ => true
  | .updateGo _ _ => true
  | .updateAbort _ => true
  | .updateHandover _ _ => true
  | .updateConfirmEnd => true
  | .noMaster => true
  | .noMasterEthDisable => true
  | .farrierRegionTest r failed => decide (r < 64) && failed.all fun x => decide (x < 768) && regionOf (r / 8) x == r
  | .remapForwardEnd b x => okSite b x
  | .scheduleReplace b half _ => decide (b < 8) && decide (half < 2)
  | .barnExit r => decide (r < 45)
  | .barnReentry b => decide (b < 8)
  | .lostRecord b x => okSite b x
  | .trcModeWrite b x _ => okSite b x
  | .chunkSend b x => okSite b x
  | .brkClaim _ => true
  | .brkComplete _ => true
  | .brkSet w _ => decide (w < 16)
  | .brkPendingClear w _ _ => decide (w < 16)
  | .hangScan => true
  | .hangSnapshot => true
  | .slotEntryRead b x i => okSite b x && decide (i < 64)
  | .linkUpChange p _ => decide (p < 4)
  | .moduleFault k => decide (k < 8)
  | .hbmCommandTimeout n _ => decide (n < 20)
  | .rdmaReadResponse qp _ _ => decide (qp < 4096)
  | .portUncorrectableError p => decide (p < 32)
  | .ylinkRetrain l _ => decide (l < 32)

end Sys2Proof
end

