-- ==== Sys2Proof/Safety.lean ====
section
/-! DEFINITION. What a safe run is: every command that waits names units that the device has, and each step answers a next state. -/

namespace Sys2Proof.Machine

/-- Every command that waits is well formed. -/
def State.queueWf (s : State) : Prop := ∀ c ∈ s.pending, c.wf = true

/-- The step answers a next state: no fault, no refusal. -/
def State.steps (s : State) : Prop := ∃ t, step s = .next t

/-- On a device d, with any queue, the command answers a next state: its device is d', its queue the same. -/
abbrev Completes (c : Sys2Proof.Instr) (d d' : Dev) : Prop := ∀ q, exec c ⟨d, q⟩ = .next ⟨d', q⟩

/-- The memory of a device is in canonical form: addresses strictly rising, no byte listed at its default. -/
abbrev Memory.wf (m : List Host.Cell) : Prop := Sparse.wf memDefault m = true

end Sys2Proof.Machine
end

