-- ==== Sys2Proof/Certificates/Slice0/Obligations.lean ====
section
/-! DEFINITION. The statements for the provers. Every hypothesis is on the state and the operands alone. A statement named
…Complete has one clause for each of its commands: where the hypotheses hold, the command answers a next state, and the
statement gives the device of that state; what it does not name there is as before. -/

open Sys2Proof Sys2Proof.Machine

/-! ## The queue and the whole machine -/

/-- A step with a command at the front of the queue is that command on the device, with the queue's rest. -/
def Obligations.StepTakesFrontCommand : Prop :=
  ∀ (c : Instr) (rest : List Instr) (d : Dev), step ⟨d, c :: rest⟩ = exec c ⟨d, rest⟩

/-- On an empty queue a beat passes (the model's choice, log entry 2): before the counter starts nothing changes; during a hold
the counter keeps its value while the hold lasts and goes on where it ends (R49); else it adds 1 modulo 2^64 (R43). What passes and what
waits for the edge is Dev.tick. -/
def Obligations.EmptyQueuePassesOneBeat : Prop :=
  (∀ d : Dev, step ⟨d, []⟩ = .next ⟨d.tick, []⟩) ∧
  (∀ d : Dev, d.counting = false → d.tick = d) ∧
  (∀ (d : Dev) (n : Nat), d.flag (r0 .BEAT_STATUS) Fld.BEAT_STATUS_HOLD_ACTIVE = true →
    (n ≤ d.holdLeft → (d.passBeats n).beat = d.beat ∧ (d.passBeats n).holdLeft = d.holdLeft - n) ∧
    (d.holdLeft < n → (d.passBeats n).beat = (d.beat + (n - d.holdLeft)) % 2 ^ 64 ∧
      (d.passBeats n).flag (r0 .BEAT_STATUS) Fld.BEAT_STATUS_HOLD_ACTIVE = false)) ∧
  (∀ (d : Dev) (n : Nat), d.flag (r0 .BEAT_STATUS) Fld.BEAT_STATUS_HOLD_ACTIVE = false →
    (d.passBeats n).beat = (d.beat + n) % 2 ^ 64)

/-- Every command on units that the device has answers a next state with the queue as it was; a command on any other unit stops
with noSuchUnit. Nothing else stops. -/
def Obligations.CommandsOnUnitsComplete : Prop :=
  (∀ (c : Instr) (d : Dev), c.wf = true → ∃ d', Completes c d d') ∧
  ∀ (c : Instr) (s : State), c.wf = false → exec c s = .fault .noSuchUnit

/-- From a state whose waiting commands are all well formed, a step answers a next state, and that state's waiting commands are
all well formed. -/
def Obligations.QueueStaysWellFormed : Prop :=
  ∀ s : State, s.queueWf → ∃ t : State, step s = .next t ∧ t.queueWf

/-- From any state whose waiting commands are all well formed, any number of steps runs without a stop, and the commands are
taken first in, first out. -/
def Obligations.RunNeverStops : Prop :=
  ∀ (n : Nat) (s : State), s.queueWf →
    ∃ t : State, Host.Core.run Sys2Proof.core n s = .next t ∧ t.pending = s.pending.drop n ∧ t.queueWf

/-- Right after reset: no command waits, the beat counter is zero (R43), every register word holds its reset value, and memory is
in canonical form (it lists nothing, the model's choice, log entry 3). -/
def Obligations.ResetState : Prop :=
  State.reset.queueWf ∧ State.reset.pending = [] ∧ State.reset.dev.beat = 0 ∧ Memory.wf State.reset.dev.mem ∧
  (∀ r : Reg, State.reset.dev.rd r = r.resetWord) ∧ (∀ h, State.reset.dev.getF (r2 .OPP_ENTRY h 0) Fld.OPP_ENTRY_FREQ_MHZ = 1800) ∧
  (∀ b x, State.reset.dev.getF (r2 .TILE_CTRL b x) Fld.TILE_CTRL_RESET = 1) ∧
  State.reset.dev.rd (r1 .BRK_ENABLE 0) = 0xFFFFFFFE

/-! ## Registers and the Ringmaster bus -/

/-- The register word that an address names lies at that address. -/
def Obligations.AddressNamesItsRegister : Prop := ∀ (a : Nat) (r : Reg), Reg.ofAddr a = some r → r.addr = a

/-- An accepted write by the access codes (R8, R10): every field of every register takes what its code says (RW: the value written,
W1C: the ones written cleared, W1S: the ones written set, else as it was), a bit of no field stays, and every other register and the
memory stay. -/
def Obligations.AcceptedWriteFollowsAccessCodes : Prop :=
  (∀ (d : Dev) (r : Reg) (v : W32) (f : Field), f ∈ r.name.fields →
    (d.store r v).getF r f =
      match f.access with
      | .rw => f.get v
      | .w1c => Nat.land (d.getF r f) (2 ^ f.width - 1 - f.get v)
      | .w1s => Nat.lor (d.getF r f) (f.get v)
      | _ => d.getF r f) ∧
  (∀ (d : Dev) (r : Reg) (v : W32) (n : Nat), (∀ f ∈ r.name.fields, n < f.lo ∨ f.lo + f.width ≤ n) →
    ((d.store r v).rd r).getLsbD n = (d.rd r).getLsbD n) ∧
  (∀ (d : Dev) (r q : Reg) (v : W32), r.addr ≠ q.addr → (d.store r v).rd q = d.rd q) ∧
  ∀ (d : Dev) (r : Reg) (v : W32), { d.store r v with regs := d.regs } = d

/-- R29: an access to an address that the map leaves out reads zero or is ignored, and so does a write to a read-only range; either
way the address and its kind are recorded, the error is counted and source 65 is raised. -/
def Obligations.UnmappedAccessIsRecorded : Prop :=
  (∀ (a : Nat) (d : Dev), okAddr a = true → d.reaches a = true → busMaps a = false →
    Completes (.loRead a) d { d.decodeError a false with busData := 0 }) ∧
  (∀ (a : Nat) (v sets : W32) (d : Dev), okAddr a = true → d.reaches a = true → busMaps a = false ∨ inRom a = true ∨ inFlash a = true →
    Completes (.registerWrite a v sets) d (d.decodeError a true)) ∧
  ∀ (a : Nat) (w : Bool) (d : Dev), a < 2 ^ 40 →
    let e := d.decodeError a w
    joinHalves (e.rd (r0 .RM_DECODE_LO)) ((e.rd (r0 .RM_DECODE_HI)) &&& 0xFF) = a ∧
    e.getF (r0 .RM_DECODE_HI) Fld.RM_DECODE_HI_WRITE = boolNat w ∧
    e.getF (r0 .RM_DECODE_CNT) Fld.RM_DECODE_CNT_COUNT = (d.getF (r0 .RM_DECODE_CNT) Fld.RM_DECODE_CNT_COUNT + 1) % 2 ^ 32 ∧
    e.pendingBit 65 = true ∧ { e with regs := d.regs } = d

/-- R30: the bridge fences the window of a retired site: a read of it returns zero and a write to it does nothing. -/
def Obligations.FencedWindow : Prop :=
  ∀ (a b x : Nat) (v sets : W32) (d : Dev), okAddr a = true → siteOfAddr a = some (b, x) → 2 ≤ d.siteState b x →
    d.hasMaster = true → d.rmPaused = false → d.busHeld = [] →
    Completes (.loRead a) d { d with busData := 0 } ∧ Completes (.registerWrite a v sets) d d

/-- R71 for the Ringmaster: an access to a tile window of a region whose clock has stopped is kept and nothing else changes; once the
region runs again the access completes as it would have at once. Bits that hardware sets in the cycle of the write belong to the cycle in
which it is carried out, not to that in which it is kept. -/
def Obligations.StoppedRegionHoldsAccess : Prop :=
  (∀ (a b x : Nat) (v sets : W32) (d : Dev), okAddr a = true → siteOfAddr a = some (b, x) → d.siteState b x < 2 →
    d.siteRuns b x = false → d.hasMaster = true → d.rmPaused = false → d.busHeld = [] →
    Completes (.loRead a) d { d with busHeld := [.read a] } ∧ Completes (.registerWrite a v sets) d { d with busHeld := [.write a v] }) ∧
  ∀ (a b x : Nat) (v : W32) (d : Dev), siteOfAddr a = some (b, x) → d.siteState b x < 2 → d.siteRuns b x = true →
    d.hasMaster = true → d.rmPaused = false → d.busHeld = [.write a v] →
    Completes .stoppedAccessResume d { Dev.putWord { d with busHeld := [] } a v 0 with busHeld := [] }

/-- R9: a read of the low half of a counter pair returns it and latches the high half as it is then; a read of the high half
returns what was latched last, whatever the counter has become. -/
def Obligations.LowReadLatchesHigh : Prop :=
  (∀ (r : Reg) (h : RegName) (d : Dev), Reg.ofAddr r.addr = some r → okAddr r.addr = true → isRegister r.addr = true →
    d.reaches r.addr = true → d.aperture r.addr = none → latchedBy r.name = [h] → readsLatch r.name = false →
    ∃ d', Completes (.loRead r.addr) d d' ∧ d'.busData = readWord r.name.fields (d.regWord r) ∧
      d'.latch.get (fun _ => 0) { r with name := h }.addr = readWord h.fields (d.regWord { r with name := h })) ∧
  ∀ (r : Reg) (d : Dev), Reg.ofAddr r.addr = some r → okAddr r.addr = true → isRegister r.addr = true →
    d.reaches r.addr = true → d.aperture r.addr = none → readsLatch r.name = true →
    ∃ d', Completes (.loRead r.addr) d d' ∧ d'.busData = d.latch.get (fun _ => 0) r.addr

/-- R12: of additions in the cycle of the read that clears a counter, the read returns the value from before them, and they remain
in the counter. SLOT_STATUS.HIGH, a maximum and no counter, starts again from the slots in use. -/
def Obligations.ReadAndClearKeepsAdditions : Prop :=
  (∀ (r : Reg) (f : Field) (adds : W32) (d : Dev), Reg.ofAddr r.addr = some r → okAddr r.addr = true → isRegister r.addr = true →
    d.reaches r.addr = true → d.aperture r.addr = none → latchedBy r.name = [] → readsLatch r.name = false → r.name ≠ .SLOT_STATUS →
    f ∈ r.name.fields → f.access = .rc →
    ∃ d', Completes (.rcRead r.addr adds) d d' ∧ f.get d'.busData = f.get (d.regWord r) ∧ d'.getF r f = f.get adds) ∧
  ∀ (b x : Nat) (d : Dev), okSite b x = true → d.reaches (r2 .SLOT_STATUS b x).addr = true →
    (d.regReadDone (r2 .SLOT_STATUS b x) 0).getF (r2 .SLOT_STATUS b x) Fld.SLOT_STATUS_HIGH =
      (d.tile b x).slotCount % 2 ^ Fld.SLOT_STATUS_HIGH.width

/-- R57, R485: a commit of a half while its sequencer is busy is rejected as busy, whatever else is wrong with it; with the sequencer
free, a point that is not valid or a beat nearer than 3,000 beats is out of bounds. Either way one error field counts it, and
nothing else changes. -/
def Obligations.RejectedChangeCountsOnce : Prop :=
  (∀ (h : Nat) (v : W32) (d : Dev), h < 16 → d.reaches (r1 .HALF_OPP h).addr = true → Fld.HALF_OPP_COMMIT.get v = 1 →
    d.halfIs h Fld.HALF_STATUS_BUSY = true →
    Completes (.halfCommit h v) d (d.inc (r0 .CLK_ERR) Fld.CLK_ERR_BUSY_REJ)) ∧
  ∀ (h : Nat) (v : W32) (d : Dev), h < 16 → d.reaches (r1 .HALF_OPP h).addr = true → Fld.HALF_OPP_COMMIT.get v = 1 →
    d.halfIs h Fld.HALF_STATUS_BUSY = false →
    d.oppValid h (Fld.HALF_OPP_NEXT.get v) = false ∨ d.changeBeat h < d.beat + 3000 →
    Completes (.halfCommit h v) d (d.inc (r0 .CLK_ERR) Fld.CLK_ERR_BOUNDS)

/-! ## The Barker -/

/-- R455: a raise of an assigned source sets its pending bit and adds 1 to its BRK_RAISED; a source that is not assigned is never
pending. Other sources and everything but registers stay. -/
def Obligations.RaiseSetsPendingAndCounts : Prop :=
  (∀ (d : Dev) (n : Nat), 1 ≤ n → n ≤ 321 →
    (d.raise n).pendingBit n = true ∧
    (d.raise n).getF (r1 .BRK_RAISED n) Fld.BRK_RAISED_RAISED =
      (d.getF (r1 .BRK_RAISED n) Fld.BRK_RAISED_RAISED + 1) % 2 ^ Fld.BRK_RAISED_RAISED.width ∧
    (∀ m, m ≠ n → m < 512 → (d.raise n).pendingBit m = d.pendingBit m)) ∧
  (∀ (d : Dev) (n : Nat), n = 0 ∨ 321 < n → d.raise n = d) ∧
  ∀ (d : Dev) (n : Nat), { d.raise n with regs := d.regs } = d

/-- R456: a claim takes the highest-numbered claimable source: pending cleared, in service set, its number in BRK_CLAIMED; with none
claimable BRK_CLAIMED becomes 0 and nothing else changes; a completion clears the in-service bit, and a source raised while in
service is claimable again then. -/
def Obligations.ClaimAndCompletion : Prop :=
  (∀ (v : W32) (n : Nat) (d : Dev), d.reaches (r0 .BRK_CLAIM).addr = true → 1 ≤ n → n < 512 → d.claimable n = true →
    (∀ m, n < m → m < 512 → d.claimable m = false) →
    ∃ d', Completes (.brkClaim v) d d' ∧ d'.getF (r0 .BRK_CLAIMED) Fld.BRK_CLAIMED_SOURCE = n ∧
      d'.sourceBit .BRK_PENDING n = false ∧ d'.sourceBit .BRK_INSERVICE n = true) ∧
  (∀ (v : W32) (d : Dev), d.reaches (r0 .BRK_CLAIM).addr = true → (∀ m, 1 ≤ m → m < 512 → d.claimable m = false) →
    Completes (.brkClaim v) d (d.setF (r0 .BRK_CLAIMED) Fld.BRK_CLAIMED_SOURCE 0)) ∧
  (∀ (v : W32) (d : Dev), d.reaches (r0 .BRK_COMPLETE).addr = true → 1 ≤ v.toNat → v.toNat < 512 →
    d.sourceBit .BRK_INSERVICE v.toNat = true →
    Completes (.brkComplete v) d (d.setSourceBit .BRK_INSERVICE v.toNat false)) ∧
  (∀ (d : Dev) (n : Nat), 1 ≤ n → n ≤ 321 → (d.raise n).sourceBit .BRK_PENDING n = true) ∧
  ∀ (d : Dev) (n : Nat), 1 ≤ n → n < 512 → d.sourceBit .BRK_PENDING n = true → d.sourceBit .BRK_ENABLE n = true →
    d.getF (r0 .BRK_CTRL) Fld.BRK_CTRL_THRESH < n → (d.setSourceBit .BRK_INSERVICE n false).claimable n = true

/-! ## The control core -/

/-- R115: of a counter write and additions in one cycle, the write is applied first and the additions follow: from the core and
through the window, for arrival and for completion counters. -/
def Obligations.CounterWriteThenAdditions : Prop :=
  (∀ (b x rb c : Nat) (adds : W32) (d : Dev), okSite b x = true → rb < 32 → c < 32 → d.issues b x ⟨7, none, some rb, .reg (some c)⟩ = true →
    ∃ d', Completes (.acwr b x false rb c adds) d d' ∧
      (d'.tile b x).acOf c = ((d.tile b x).reg rb).setWidth 32 + adds) ∧
  (∀ (b x rb c : Nat) (adds : W32) (d : Dev), okSite b x = true → rb < 32 → c < 16 → d.issues b x ⟨7, none, some rb, .reg (some c)⟩ = true →
    ∃ d', Completes (.ccwr b x false rb c adds) d d' ∧
      (d'.tile b x).ccOf c = ((d.tile b x).reg rb).setWidth 32 + adds) ∧
  (∀ (b x i : Nat) (v adds : W32) (d : Dev), okSite b x = true → i < 32 → d.reaches (r3 .AC b x i).addr = true →
    ∃ d', Completes (.counterWrite b x false i v adds) d d' ∧ (d'.tile b x).acOf i = v + adds) ∧
  ∀ (b x i : Nat) (v adds : W32) (d : Dev), okSite b x = true → i < 16 → d.reaches (r3 .CC b x i).addr = true →
    ∃ d', Completes (.counterWrite b x true i v adds) d d' ∧ (d'.tile b x).ccOf i = v + adds

/-- R133: a write of GREG is ignored and a read of it returns zero unless the core is halted; halted, the halves of the register are
written and read (g0 stays zero, R79). -/
def Obligations.GregNeedsHaltedCore : Prop :=
  (∀ (b x n : Nat) (hi : Bool) (v : W32) (d : Dev), okSite b x = true → n < 32 → d.reaches (r3 .GREG_LO b x n).addr = true →
    d.reaches (r3 .GREG_HI b x n).addr = true → (d.tile b x).halted = false →
    d.regRead (r3 .GREG_LO b x n) = 0 ∧ d.regRead (r3 .GREG_HI b x n) = 0 ∧
    ∃ d', Completes (.gregWrite b x n hi v) d d' ∧ d'.tile b x = d.tile b x ∧ { d' with tiles := d.tiles } = d) ∧
  ∀ (b x n : Nat) (hi : Bool) (v : W32) (d : Dev), okSite b x = true → n < 32 → d.reaches (r3 .GREG_LO b x n).addr = true →
    d.reaches (r3 .GREG_HI b x n).addr = true → (d.tile b x).halted = true →
    ∃ d', Completes (.gregWrite b x n hi v) d d' ∧
      d'.regRead (if hi then r3 .GREG_HI b x n else r3 .GREG_LO b x n) = (if n = 0 then 0 else v) ∧
      d'.regRead (if hi then r3 .GREG_LO b x n else r3 .GREG_HI b x n) =
        d.regRead (if hi then r3 .GREG_LO b x n else r3 .GREG_HI b x n)

/-- R85: a division by zero writes quotient 0 and the dividend as remainder, at either width, and takes no exception; the most
negative value divided by −1 gives that value and remainder 0. -/
def Obligations.DivisionCorners : Prop :=
  (∀ (b x a rb c : Nat) (op : AluOp) (d : Dev), okSite b x = true → a < 32 → rb < 32 → c < 32 →
    d.issues b x ⟨0, some a, some rb, .reg (some c)⟩ = true →
    (d.tile b x).reg c = 0 →
    (op = .div ∨ op = .divu → Completes (.alu b x false op false a rb c) d ((d.issued b x).updTile b x fun t => t.put a 0)) ∧
    (op = .rem ∨ op = .remu →
      Completes (.alu b x false op false a rb c) d ((d.issued b x).updTile b x fun t => t.put a (t.reg rb)))) ∧
  (∀ (op : AluOp) (old p q : W64), q.setWidth 32 = 0 →
    (op = .div ∨ op = .divu → (aluWrite op true old p q).setWidth 32 = 0) ∧
    (op = .rem ∨ op = .remu → (aluWrite op true old p q).setWidth 32 = p.setWidth 32)) ∧
  (∀ old : W64, aluResult .div 64 old (BitVec.intMin 64) (-1) = BitVec.intMin 64 ∧ aluResult .rem 64 old (BitVec.intMin 64) (-1) = 0) ∧
  ∀ old : W32, aluResult .div 32 old (BitVec.intMin 32) (-1) = BitVec.intMin 32 ∧ aluResult .rem 32 old (BitVec.intMin 32) (-1) = 0

/-- R81: a load or a store outside tile SRAM raises LOCAL_BOUNDS, misaligned or not; a misaligned one inside it raises MISALIGN.
The exception is all that the instruction does, and EVAL holds the address. -/
def Obligations.LoadStoreExceptions : Prop :=
  ∀ (b x a rb : Nat) (size : MemSize) (sgn : Bool) (imm : BitVec 14) (d : Dev), okSite b x = true → a < 32 → rb < 32 → size ≠ .unassigned →
    let t := (d.issued b x).tile b x
    let ea := t.reg rb + imm.signExtend 64
    let isLoad := d.issues b x ⟨2, some a, some rb, .imm14 imm⟩
    let isStore := d.issues b x ⟨3, some a, some rb, .imm14 imm⟩
    (0x200000 < ea.toNat + sizeBytes size →
      (isLoad = true → Completes (.load b x size sgn a rb imm) d ((d.issued b x).takeException b x excLocalBounds ea t.pc)) ∧
      (isStore = true → Completes (.store b x size a rb imm) d ((d.issued b x).takeException b x excLocalBounds ea t.pc))) ∧
    (ea.toNat + sizeBytes size ≤ 0x200000 → ea.toNat % sizeBytes size ≠ 0 →
      (isLoad = true → Completes (.load b x size sgn a rb imm) d ((d.issued b x).takeException b x excMisalign ea t.pc)) ∧
      (isStore = true → Completes (.store b x size a rb imm) d ((d.issued b x).takeException b x excMisalign ea t.pc)))

/-- A store of the core in bounds and aligned: its bytes, the least significant first, stand at the local address; every other byte
of memory, every register word and every other tile is as before; of its own tile only the PC and the count of instructions
change. -/
def Obligations.StoreFrame : Prop :=
  ∀ (b x a rb : Nat) (size : MemSize) (imm : BitVec 14) (d : Dev), okSite b x = true → a < 32 → rb < 32 →
    d.issues b x ⟨3, some a, some rb, .imm14 imm⟩ = true →
    size ≠ .unassigned →
    let t := d.tile b x
    let ea := t.reg rb + imm.signExtend 64
    let first := localBase b x + ea.toNat
    ea.toNat + sizeBytes size ≤ 0x200000 → ea.toNat % sizeBytes size = 0 →
    ∃ d', Completes (.store b x size a rb imm) d d' ∧
      (∀ i, i < sizeBytes size → d'.byte (first + i) = BitVec.ofNat 8 ((t.reg a).toNat / 256 ^ i)) ∧
      (∀ p, p < first ∨ first + sizeBytes size ≤ p → d'.byte p = d.byte p) ∧
      { d' with mem := d.mem, poison := d.poison, tiles := d.tiles } = d ∧
      (∀ b' x', okSite b' x' = true → (b', x') ≠ (b, x) → d'.tile b' x' = d.tile b' x') ∧
      { d'.tile b x with pc := t.pc, util := t.util } = t ∧ (d'.tile b x).pc = t.pc + 4

/-- The instructions that write one general register and fall through or jump: no byte of memory, no register word and no other
tile changes; of its own tile only the register named by A (g0 never, R79), the PC and the count of instructions change. -/
def Obligations.RegisterInstructionFrame : Prop :=
  ∀ (b x a rb c : Nat) (op : AluOp) (narrow : Bool) (imm : BitVec 14) (long : BitVec 19) (cond : Cond) (d : Dev),
    okSite b x = true → a < 32 → rb < 32 → c < 32 → aluAssigned op = true → aluUnary op = false →
    cond ≠ .unassigned →
    ∀ i ∈ ([(.alu b x false op narrow a rb c, ⟨0, some a, some rb, .reg (some c)⟩),
        (.aluImm b x false op narrow a rb imm, ⟨1, some a, some rb, .imm14 imm⟩), (.lui b x a long, ⟨1, some a, none, .imm19 long⟩),
        (.jal b x a long, ⟨5, some a, none, .imm19 long⟩), (.branch b x cond a rb imm, ⟨4, some a, some rb, .imm14 imm⟩)] :
        List (Instr × Form)), d.issues b x i.2 = true →
      ∃ d', Completes i.1 d d' ∧ { d' with tiles := d.tiles } = d ∧
        (∀ b' x', okSite b' x' = true → (b', x') ≠ (b, x) → d'.tile b' x' = d.tile b' x') ∧
        (∀ n, n ≠ a → (d'.tile b x).reg n = (d.tile b x).reg n) ∧ (d'.tile b x).reg 0 = 0 ∧
        (let t := d.tile b x
         { d'.tile b x with g := t.g, pc := t.pc, util := t.util } = t)

/-- R125: an exception outside an exception saves the PC of the instruction in EPC and records ECAUSE and EVAL, sets IN_EXC and
enters EVEC; no general register and no queue changes (the engines keep running). ERET clears IN_EXC and resumes at EPC. -/
def Obligations.ExceptionEntryAndReturn : Prop :=
  (∀ (b x cause : Nat) (eval epc : W64) (d : Dev), (d.tile b x).inExc = false →
    let t := d.tile b x
    let e := (d.takeException b x cause eval epc).tile b x
    e.epc = epc ∧ e.ecause = cause ∧ e.eval = eval ∧ e.inExc = true ∧ e.pc = t.evec ∧ e.g = t.g ∧ e.queues = t.queues ∧
      e.halted = t.halted) ∧
  (∀ (b x : Nat) (d : Dev), okSite b x = true → d.issues b x ⟨8, none, none, .reg none⟩ = true →
    Completes (.trap b x false) d
      ((d.issued b x).takeException b x excTrap ((d.issued b x).tile b x).fetchWord ((d.issued b x).tile b x).pc)) ∧
  ∀ (b x : Nat) (d : Dev), okSite b x = true → d.issues b x ⟨8, none, none, .reg none⟩ = true →
    ∃ d', Completes (.eret b x false) d d' ∧ (d'.tile b x).inExc = false ∧
      (d'.tile b x).pc = (d.tile b x).epc &&& ~~~3#64 ∧ (d'.tile b x).g = (d.tile b x).g ∧
      (d'.tile b x).queues = (d.tile b x).queues

/-- R126: an exception while IN_EXC is 1 halts the core with cause DOUBLE and raises the barn's source; EPC, ECAUSE and EVAL are
those of the second exception, IN_EXC stays 1, and the general registers and the PC stay. -/
def Obligations.SecondExceptionHalts : Prop :=
  ∀ (b x cause : Nat) (eval epc : W64) (d : Dev), b < 8 → (d.tile b x).inExc = true →
    let t := d.tile b x
    let d' := d.takeException b x cause eval epc
    let e := d'.tile b x
    e.halted = true ∧ e.haltCause = 3 ∧ e.epc = epc ∧ e.ecause = cause ∧ e.eval = eval ∧ e.inExc = true ∧ e.g = t.g ∧
      e.pc = t.pc ∧ d'.pendingBit (164 + b) = true

/-- R116, R117: a WAITA that is satisfied writes 0 to A and falls through; not satisfied, it ends at once with 1 where it times out
and WAIT_TIMEOUT is zero; else the core waits, its PC at the instruction. The comparison is signed, modulo 2^32. -/
def Obligations.WaitEndsOrHolds : Prop :=
  ∀ (b x a rb c : Nat) (d : Dev), okSite b x = true → a < 32 → rb < 32 → c < 32 → d.issues b x ⟨7, some a, some rb, .reg (some c)⟩ = true →
    let e := d.issued b x
    let t := e.tile b x
    let w : Wait := ⟨1, c, t.reg rb, d.siteBeat b x, a, 0⟩
    let reached := 0 ≤ (t.acOf c - (t.reg rb).setWidth 32).toInt
    (reached → Completes (.waita b x false a rb c) d (e.setTile b x (t.put a 0))) ∧
    (¬ reached → t.waitToEn = true → t.waitTimeout = 0 → Completes (.waita b x false a rb c) d (e.setTile b x (t.put a 1))) ∧
    (¬ reached → t.waitToEn = false ∨ t.waitTimeout ≠ 0 →
      ∃ d', Completes (.waita b x false a rb c) d d' ∧ (d'.tile b x).wait = some w ∧ (d'.tile b x).pc = t.pc ∧
        (d'.tile b x).g = t.g)

/-! ## Engines, memory, stacks and ledgers -/

/-- R114: a command that completes leaves its queue and adds 1 to its CCTR whatever its status; a status other than OK also sets the
counter's bit in CC_ERR; the other queues and completion counters stay. -/
def Obligations.CompletionAddsOne : Prop :=
  ∀ (b x q : Nat) (e : QEntry) (rest : List QEntry) (d : Dev), okSite b x = true → q < 6 → (d.tile b x).queue q = e :: rest →
    d.enginesRun b x = true → e.phase = .ended → d.copyUnderWay e = false →
    ∃ d', Completes (.commandCompletion b x q) d d' ∧
      (d'.tile b x).queue q = rest ∧ (∀ k, k ≠ q → (d'.tile b x).queue k = (d.tile b x).queue k) ∧
      (d'.tile b x).ccOf (cctrOf e.cmd) = (d.tile b x).ccOf (cctrOf e.cmd) + 1 ∧
      (∀ k, k ≠ cctrOf e.cmd → (d'.tile b x).ccOf k = (d.tile b x).ccOf k) ∧
      (d'.tile b x).ccErr = if e.status = stOk then (d.tile b x).ccErr else Nat.lor (d.tile b x).ccErr (2 ^ cctrOf e.cmd)

/-- Every operation on memory keeps its canonical form, and a write leaves the bytes written and no other. -/
def Obligations.MemoryOperationsKeepForm : Prop :=
  (∀ (d : Dev) (a : Nat) (l : List Byte) (marks : List Bool), Memory.wf d.mem → Memory.wf (d.writeMarked a l marks).mem) ∧
  (∀ (d : Dev) (a n : Nat), Memory.wf d.mem → Memory.wf (d.zero a n).mem) ∧
  (∀ (d : Dev) (src dst n : Nat), Memory.wf d.mem → Memory.wf (d.copyRange src dst n).mem) ∧
  (∀ (d : Dev) (a : Nat) (l : List Byte) (marks : List Bool) (i : Nat),
    (d.writeMarked a l marks).byte i = if a ≤ i ∧ i < a + l.length then (l[i - a]?).getD 0 else d.byte i) ∧
  ∀ (d : Dev) (a n i : Nat), (d.zero a n).byte i = if a ≤ i ∧ i < a + n then 0 else d.byte i

/-- R224: the window's offsets below its size go one to one to the stacks of the mask in force, inside each stack. -/
def Obligations.WindowMapIsOneToOne : Prop :=
  (∀ (d : Dev) (o : Nat), o < d.windowBytes → (d.windowMap o).1 ∈ d.windowStacks ∧ (d.windowMap o).2 < stackBytes) ∧
  (∀ (d : Dev) (o p : Nat), o < d.windowBytes → p < d.windowBytes → d.windowMap o = d.windowMap p → o = p) ∧
  ∀ (d : Dev) (n a : Nat), n ∈ d.windowStacks → a < stackBytes → ∃ o, o < d.windowBytes ∧ d.windowMap o = (n, a)

/-- R286: an atomic whose entry stands complete in the ledger is answered from the entry: it is not applied again, memory and the
ledger stay, the reply carries the status and the result of the first time, and LEDGER_HIT counts it. -/
def Obligations.RepeatedAtomicIsNotAppliedAgain : Prop :=
  ∀ (p : Nat) (pkt : Packet) (e : LedgerEntry) (d : Dev), p < 28 → ledgered pkt = true → d.inReset p = false →
    d.isFront (.ledger p) pkt = true → d.expired pkt = false →
    (d.port p).ledger.find? (fun e => sameKey e.req pkt) = some e → e.pending = false →
    ∃ d', Completes (.ledgerExecute p pkt) d d' ∧ d'.mem = d.mem ∧ (d'.port p).ledger = (d.port p).ledger ∧
      d'.net = (d.take (.ledger p) pkt).net ++ [{ place := .port p 32, pkt := mkReply pkt e.status e.result e.marks }] ∧
      d'.getF (r1 .LEDGER_HIT p) Fld.LEDGER_HIT_CNT = (d.getF (r1 .LEDGER_HIT p) Fld.LEDGER_HIT_CNT + 1) % 2 ^ Fld.LEDGER_HIT_CNT.width

/-- Register writes and reads over the management bus complete: a write, a read with latches and a read-and-clear of a register, of a
remote slot entry, and the release of held accesses. Each answers a next state, whose device is the one that its rule gives (R9, R10,
R12, R71, R461). -/
def Obligations.BusAccessesComplete : Prop :=
  (∀ (addr : Nat) (v sets : W32) (r : Reg) (d : Dev),
     okAddr addr = true → d.reaches addr = true → isRegister addr = true → d.aperture addr = none → Reg.ofAddr addr = some r →
     Completes (.registerWrite addr v sets) d (d.writeReg r v sets)) ∧
  (∀ (addr : Nat) (r : Reg) (d : Dev),
     okAddr addr = true → d.reaches addr = true → isRegister addr = true → d.aperture addr = none → Reg.ofAddr addr = some r →
     Completes (.loRead addr) d { d.regReadDone r 0 with busData := d.regRead r }) ∧
  (∀ (addr : Nat) (adds : W32) (r : Reg) (d : Dev),
     okAddr addr = true → d.reaches addr = true → isRegister addr = true → d.aperture addr = none → Reg.ofAddr addr = some r →
     Completes (.rcRead addr adds) d { d.regReadDone r adds with busData := d.regRead r }) ∧
  (∀ (b x i : Nat) (d : Dev),
     okSite b x = true → i < 64 →
     d.reaches (r3 .SLOT_ENTRY0 b x i).addr = true →
     Completes (.slotEntryRead b x i) d ({ d.regReadDone (r3 .SLOT_ENTRY0 b x i) 0 with busData := d.regRead (r3 .SLOT_ENTRY0 b x i) })) ∧
  (∀ (d : Dev),
     Completes (.stoppedAccessResume) d (Dev.resumeHeld d.busHeld d))

/-- The beat counter, its pulses, holds and reference changes complete: the start of the beat, the synchronisation pulse and its absence,
arming, forced and lost references, the end of a hold, the return to the reference. Each answers a next state, whose device is the one
that its rule gives (R47, R48, R49, R50, R53, R384). -/
def Obligations.BeatCommandsComplete : Prop :=
  (∀ (qualified : Bool) (d : Dev),
     d.start.out = true → d.counting = false →
     Completes (.yrefQualify qualified) d (d.beginBeat qualified)) ∧
  (∀ (d : Dev),
     d.syncOn = true →
     Completes (.beatSyncPulse) d (d.syncPulse).atEdge) ∧
  (∀ (d : Dev),
     d.syncOn = true → d.aligned = true →
     Completes (.syncPulseMissing) d (d.syncMismatch 0)) ∧
  (∀ (v : W32) (d : Dev),
     d.reaches (r0 .BEAT_CTRL).addr = true →
     Completes (.loadArm v) d (d.writeBeatCtrl v)) ∧
  (∀ (v : W32) (d : Dev),
     d.reaches (r0 .BEAT_CTRL).addr = true →
     Completes (.holdoverForce v) d (d.writeBeatCtrl v)) ∧
  (∀ (d : Dev),
     d.flag (r0 .BEAT_STATUS) Fld.BEAT_STATUS_HOLD_ACTIVE = true → d.holdLeft = 0 →
     Completes (.holdEnd) d (d.beatFlag Fld.BEAT_STATUS_HOLD_ACTIVE false)) ∧
  (∀ (periods : Nat) (d : Dev),
     d.counting = true →
     Completes (.yrefLoss periods) d (d.enterHoldover periods).atEdge) ∧
  (∀ (d : Dev),
     d.inHoldover = true → d.flag (r0 .BEAT_CTRL) Fld.BEAT_CTRL_HOLDOVER_FORCE = false →
     Completes (.yrefReturn) d (
       let d := d.beatFlag Fld.BEAT_STATUS_REF_OK true
       if d.syncOn then { d.beatFlag Fld.BEAT_STATUS_REF_QUAL true with returnPend := true } else d.backOnYref))

/-- Operating-point changes and PLL events complete: the commit, each stage of an accepted change, losses of lock and relocks. Each answers
a next state, whose device is the one that its rule gives (R57, R58, R59, R61, R441). -/
def Obligations.PointChangesComplete : Prop :=
  (∀ (h : Nat) (v : W32) (d : Dev),
     h < 16 →
     d.reaches (r1 .HALF_OPP h).addr = true →
     Completes (.halfCommit h v) d (d.writeHalfOpp h v)) ∧
  (∀ (h : Nat) (c : Change) (d : Dev),
     h < 16 → (d.half h).change = some c →
     (c.raise && !c.vcoreStarted && decide (c.c ≤ d.beat + 3000)) = true →
     Completes (.changeVcoreStart h) d ((d.driveVcore h c.next).setChange h (some { c with vcoreStarted := true }))) ∧
  (∀ (h : Nat) (c : Change) (d : Dev),
     h < 16 → (d.half h).change = some c →
     (!c.lockStarted && (!c.raise || c.vcoreStarted) && decide (c.c ≤ d.beat + 2000)) = true →
     Completes (.standbyLockStart h) d ((d.setLock h (!d.driving h) false).setChange h (some { c with lockStarted := true }))) ∧
  (∀ (h : Nat) (locked settled : Bool) (c : Change) (d : Dev),
     h < 16 → (d.half h).change = some c →
     (c.lockStarted && c.ready.isNone && decide (c.c ≤ d.beat + 1)) = true →
     Completes (.readinessCheck h locked settled) d (
       let ok := (locked || d.onePll h) && (!c.raise || settled)
       let d := (d.setLock h (!d.driving h) (locked && !d.onePll h)).setChange h (some { c with ready := some ok })
       if ok then d else (d.halfFlag h Fld.HALF_STATUS_LATE true).inc (r0 .CLK_ERR) Fld.CLK_ERR_LATE)) ∧
  (∀ (h : Nat) (c : Change) (d : Dev),
     h < 16 → (d.half h).change = some c →
     (!c.switched && decide (c.c ≤ d.beat) && (d.sameBeat c.c).all d.checked) = true →
     Completes (.halfSwitch h) d ((d.sameBeat c.c).foldl Dev.switchOne d)) ∧
  (∀ (h : Nat) (c : Change) (d : Dev),
     h < 16 → (d.half h).change = some c →
     (!c.raise && c.switched && c.ready == some true && !c.lowering && decide (c.c + 1 ≤ d.beat)) = true →
     Completes (.loweringVcoreStart h) d ((d.driveVcore h c.next).setChange h (some { c with lowering := true }))) ∧
  (∀ (h : Nat) (c : Change) (d : Dev),
     h < 16 → (d.half h).change = some c →
     d.changeOver c = true →
     Completes (.changeBusyClear h) d (
       let other := !d.driving h
       let d := (if d.onePll h || (d.half h).lost other then d else d.setLock h other true).halfFlag h Fld.HALF_STATUS_VOLT_OK true
       ((d.halfFlag h Fld.HALF_STATUS_BUSY false).setChange h none).actChangeEnded h (c.ready == some true))) ∧
  (∀ (h : Nat) (d : Dev),
     h < 16 →
     let p := d.driving h
     d.locked h p = true →
     Completes (.pllLoss h) d (
       let d := ((d.setLock h p false).inc (r0 .CLK_ERR) Fld.CLK_ERR_PLL_LOSS).raise (182 + h)
       let d := d.updHalf h fun v => (if p then { v with triesB := 0 } else { v with triesA := 0 }).setLost p true
       if d.locked h (!p) && !d.changing h then d.setDriving h (!p) else d.pllStopped h true)) ∧
  (∀ (h : Nat) (pll : Bool) (d : Dev),
     h < 16 →
     let target := d.changing h
     (d.half h).pllStop = true → (if pll then (d.half h).failedB else (d.half h).failedA) = false → (!target || pll != d.driving h) = true →
     Completes (.pllLockResume h pll) d (d.resumePll h pll)) ∧
  (∀ (h : Nat) (pll locked : Bool) (d : Dev),
     h < 16 →
     let v := d.half h
     d.hasMaster = true → d.locked h pll = false → v.failed pll = false → d.changing h = false →
     Completes (.pllRelockAttempt h pll locked) d (d.relockTry h pll locked))

/-- Stretches, trims and gates of region clocks complete: a stretch, a replica trim, a gate and its release. Each answers a next state,
whose device is the one that its rule gives (R64, R66, R74). -/
def Obligations.RegionClockCommandsComplete : Prop :=
  (∀ (r depth : Nat) (d : Dev),
     r < 64 → d.running r = true → depth ≠ 0 →
     Completes (.stretch r depth) d (d.stretchBy r depth)) ∧
  (∀ (r : Nat) (d : Dev),
     r < 64 → d.beat % 1000 = 0 →
     Completes (.replicaTrim r) d (d.updRegion r fun g => { g with
       trim := some (Config.replicaTrim (d.replicaCoefs r) (maxRat ((regionNodes r).map d.nodeT))) })) ∧
  (∀ (r : Nat) (v : W32) (d : Dev),
     r < 64 →
     d.reaches (r1 .REGION_CLK_CTRL r).addr = true →
     Completes (.gate r v) d (d.writeRegionCtrl r v)) ∧
  (∀ (r : Nat) (v : W32) (d : Dev),
     r < 64 →
     d.reaches (r1 .REGION_CLK_CTRL r).addr = true →
     Completes (.gateRelease r v) d (d.writeRegionCtrl r v))

/-- Arithmetic, control and system instructions of the tile core complete: every form without an exception: arithmetic, LUI, branches,
jumps, CSR accesses, YIELD, IFLUSH, TRAP, ERET, HALT, NOP. Each answers a next state, whose device is the one that its rule gives (R80,
R83, R86, R122, R124, R125, R127). -/
def Obligations.CoreComputeAndControlComplete : Prop :=
  (∀ (b x : Nat) (op : AluOp) (narrow : Bool) (a rb c : Nat) (d : Dev),
     okSite b x = true → a < 32 → rb < 32 → c < 32 → d.issues b x ⟨0, some a, some rb, .reg (some c)⟩ = true →
     (!aluAssigned op || (aluUnary op && c != 0)) = false →
     Completes (.alu b x false op narrow a rb c) d (
       let d := d.issued b x
       d.updTile b x fun t => t.put a (aluWrite op narrow (t.reg a) (t.reg rb) (t.reg c)))) ∧
  (∀ (b x : Nat) (op : AluOp) (narrow : Bool) (a rb : Nat) (imm : BitVec 14) (d : Dev),
     okSite b x = true → a < 32 → rb < 32 → d.issues b x ⟨1, some a, some rb, .imm14 imm⟩ = true →
     (!aluAssigned op || (aluUnary op && imm != 0)) = false →
     Completes (.aluImm b x false op narrow a rb imm) d (
       let d := d.issued b x
       d.updTile b x fun t => t.put a (aluWrite op narrow (t.reg a) (t.reg rb) (imm.signExtend 64)))) ∧
  (∀ (b x a : Nat) (imm : BitVec 19) (d : Dev),
     okSite b x = true → a < 32 → d.issues b x ⟨1, some a, none, .imm19 imm⟩ = true →
     Completes (.lui b x a imm) d (
       let d := d.issued b x
       d.updTile b x fun t => t.put a (imm.signExtend 64 <<< 13))) ∧
  (∀ (b x : Nat) (cond : Cond) (a rb : Nat) (imm : BitVec 14) (d : Dev),
     okSite b x = true → a < 32 → rb < 32 → d.issues b x ⟨4, some a, some rb, .imm14 imm⟩ = true →
     (cond == .unassigned) = false →
     Completes (.branch b x cond a rb imm) d (
       let d := d.issued b x
       d.updTile b x fun t =>
         if condHolds cond 64 (t.reg a) (t.reg rb) then { t with pc := t.pc + (imm.signExtend 64 <<< 2) } else t.next)) ∧
  (∀ (b x a : Nat) (imm : BitVec 19) (d : Dev),
     okSite b x = true → a < 32 → d.issues b x ⟨5, some a, none, .imm19 imm⟩ = true →
     Completes (.jal b x a imm) d (
       let d := d.issued b x
       d.updTile b x fun t =>
         { t.setReg a (t.pc + 4) with pc := t.pc + (imm.signExtend 64 <<< 2) })) ∧
  (∀ (b x a rb : Nat) (imm : BitVec 14) (d : Dev),
     okSite b x = true → a < 32 → rb < 32 → d.issues b x ⟨5, some a, some rb, .imm14 imm⟩ = true →
     let t := (d.issued b x).tile b x
     let target := t.reg rb + imm.signExtend 64
     target.toNat % 4 = 0 →
     Completes (.jalr b x a rb imm) d ((d.issued b x).setTile b x { t.setReg a (t.pc + 4) with pc := target })) ∧
  (∀ (b x : Nat) (a : Nat) (num : BitVec 14) (d : Dev) (v : W64) (t : Tile),
     okSite b x = true → a < 32 → d.issues b x ⟨8, some a, none, .imm14 num⟩ = true →
     (d.issued b x).csrRead b x num.toNat = some (v, t) →
     Completes (.csrr b x false a num) d ((d.issued b x).setTile b x (t.put a v))) ∧
  (∀ (b x : Nat) (rb : Nat) (num : BitVec 14) (sets : W32) (d : Dev) (t : Tile),
     okSite b x = true → rb < 32 → d.issues b x ⟨8, none, some rb, .imm14 num⟩ = true →
     ((d.issued b x).tile b x).csrWrite num.toNat (((d.issued b x).tile b x).reg rb) = some t →
     Completes (.csrw b x false rb num sets) d ((d.issued b x).setTile b x
       (if num = 0x070 then { t with ccErr := Nat.lor t.ccErr (sets.toNat % 2 ^ 16) } else t).next)) ∧
  ((∀ (b x : Nat) (d : Dev),
     okSite b x = true → d.issues b x ⟨8, none, none, .reg none⟩ = true →
     Completes (.yield b x false) d (
       let d := d.issued b x
       let d := (d.trace b x 5 7 0 0 (d.tile b x).evtPending).updTile b x fun t => { t with lastYield := d.beat }
       if d.flag (r2 .TILE_CTRL b x) Fld.TILE_CTRL_REMAP_POST && d.hasMaster then
         if (d.tile b x).quiescent then d.yieldMove b x else d.updTile b x fun t => { t with yieldWait := true }
       else d.yieldEvent b x)) ∧
   ∀ (b x : Nat) (extra : Bool) (d : Dev),
     okSite b x = true → (d.tile b x).yieldWait = true → d.canWake b x = true → (d.tile b x).quiescent = true →
     Completes (.yield b x extra) d (d.yieldMove b x)) ∧
  (∀ (b x : Nat) (d : Dev),
     okSite b x = true → d.issues b x ⟨8, none, none, .reg none⟩ = true →
     Completes (.iflush b x false) d (
       let d := d.issued b x
       (d.flushFetch b x).updTile b x Tile.next)) ∧
  (∀ (b x : Nat) (d : Dev),
     okSite b x = true → d.issues b x ⟨8, none, none, .reg none⟩ = true →
     Completes (.trap b x false) d (
       let d := d.issued b x
       d.takeException b x excTrap (d.tile b x).fetchWord (d.tile b x).pc)) ∧
  (∀ (b x : Nat) (d : Dev),
     okSite b x = true → d.issues b x ⟨8, none, none, .reg none⟩ = true →
     Completes (.eret b x false) d (
       let d := d.issued b x
       d.updTile b x Tile.returnFromException)) ∧
  (∀ (b x : Nat) (d : Dev),
     okSite b x = true → d.issues b x ⟨8, none, none, .reg none⟩ = true →
     Completes (.halt b x false) d (
       let d := d.issued b x
       (d.updTile b x Tile.next).haltCore b x 2)) ∧
  (∀ (b x : Nat) (d : Dev),
     okSite b x = true → d.issues b x ⟨8, none, none, .reg none⟩ = true →
     Completes (.nop b x false) d (
       let d := d.issued b x
       d.updTile b x Tile.next))

/-- Loads, stores, pushes, waits and counter instructions of the tile core complete: loads and stores without an exception, pushes into a
queue with room, waits and how they end, reads and writes of the counters. Each answers a next state, whose device is the one that its
rule gives (R81, R88, R113, R114, R115, R116, R117). -/
def Obligations.CoreMemoryAndQueuesComplete : Prop :=
  (∀ (b x : Nat) (size : MemSize) (sgn : Bool) (a rb : Nat) (imm : BitVec 14) (d : Dev),
     okSite b x = true → a < 32 → rb < 32 → d.issues b x ⟨2, some a, some rb, .imm14 imm⟩ = true →
     (size == .unassigned) = false →
     let t := (d.issued b x).tile b x
     let ea := t.reg rb + imm.signExtend 64
     accessException ea (sizeBytes size) = none →
     (d.issued b x).poisoned (localBase b x + ea.toNat) (sizeBytes size) = false →
     Completes (.load b x size sgn a rb imm) d (
       (d.issued b x).setTile b x (t.put a (extendLoad sgn (sizeBytes size)
         ((d.issued b x).readNat (localBase b x + ea.toNat) (sizeBytes size)))))) ∧
  (∀ (b x : Nat) (size : MemSize) (a rb : Nat) (imm : BitVec 14) (d : Dev),
     okSite b x = true → a < 32 → rb < 32 → d.issues b x ⟨3, some a, some rb, .imm14 imm⟩ = true →
     (size == .unassigned) = false →
     let t := (d.issued b x).tile b x
     let ea := t.reg rb + imm.signExtend 64
     accessException ea (sizeBytes size) = none →
     Completes (.store b x size a rb imm) d (((d.issued b x).write (localBase b x + ea.toNat) (bytesLE (t.reg a).toNat
       (sizeBytes size))).setTile b x t.next)) ∧
  (∀ (b x : Nat) (rb c : Nat) (d : Dev),
     okSite b x = true → rb < 32 → c < 32 → d.issues b x ⟨6, none, some rb, .reg (some c)⟩ = true →
     pushIllegal rb c = false →
     let t := (d.issued b x).tile b x
     (t.queue c).length < queueDepth c →
     Completes (.push b x false rb c) d ((d.issued b x).setTile b x (t.push c (t.pairOf rb)).next)) ∧
  (∀ (b x : Nat) (d : Dev),
     okSite b x = true →
     ∀ w, (d.tile b x).wait = some w →
     d.canWake b x = true → w.kind = 4 → d.waitMet b x w = true →
     Completes (.pushUnstall b x) d ((d.endWait b x w 0).updTile b x fun t => (t.push w.index w.cmd).next)) ∧
  (∀ (b x : Nat) (a rb c : Nat) (d : Dev),
     okSite b x = true → a < 32 → rb < 32 → c < 32 → d.issues b x ⟨6, some a, some rb, .reg (some c)⟩ = true →
     pushIllegal rb c = false →
     Completes (.pusht b x false a rb c) d (
       let d := d.issued b x
       d.updTile b x fun t =>
         if (t.queue c).length < queueDepth c then (t.push c (t.pairOf rb)).put a 1 else t.put a 0)) ∧
  (∀ (b x : Nat) (a rb c : Nat) (d : Dev),
     okSite b x = true → a < 32 → rb < 32 → c < 32 → d.issues b x ⟨7, some a, some rb, .reg (some c)⟩ = true →
     Completes (.waita b x false a rb c) d (
       let d := d.issued b x
       d.waitOrGo b x ⟨1, c, (d.tile b x).reg rb, d.siteBeat b x, a, 0⟩)) ∧
  (∀ (b x : Nat) (a rb c : Nat) (d : Dev),
     okSite b x = true → a < 32 → rb < 32 → c < 32 → d.issues b x ⟨7, some a, some rb, .reg (some c)⟩ = true →
     c < 16 →
     Completes (.waitc b x false a rb c) d (
       let d := d.issued b x
       d.waitOrGo b x ⟨2, c, (d.tile b x).reg rb, d.siteBeat b x, a, 0⟩)) ∧
  (∀ (b x : Nat) (a rb : Nat) (d : Dev),
     okSite b x = true → a < 32 → rb < 32 → d.issues b x ⟨7, some a, some rb, .reg none⟩ = true →
     Completes (.waitb b x false a rb) d (
       let d := d.issued b x
       d.waitOrGo b x ⟨3, 0, (d.tile b x).reg rb, d.siteBeat b x, a, 0⟩)) ∧
  (∀ (b x : Nat) (d : Dev),
     okSite b x = true →
     ∀ w, (d.tile b x).wait = some w →
     d.canWake b x = true → w.kind ≠ 4 → d.waitMet b x w = true →
     Completes (.waitSatisfied b x) d ((d.endWait b x w 0).updTile b x fun t => t.put w.dest 0)) ∧
  (∀ (b x : Nat) (d : Dev),
     okSite b x = true →
     let t := d.tile b x
     ∀ w, t.wait = some w →
     d.canWake b x = true → w.kind ≠ 4 → t.waitToEn = true → d.waitMet b x w = false → w.start + t.waitTimeout ≤ d.siteBeat b x →
     Completes (.waitTimeout b x) d ((d.endWait b x w 1).updTile b x fun t => t.put w.dest 1)) ∧
  (∀ (b x : Nat) (a c : Nat) (d : Dev),
     okSite b x = true → a < 32 → c < 32 → d.issues b x ⟨7, some a, none, .reg (some c)⟩ = true →
     Completes (.acrd b x false a c) d (
       let d := d.issued b x
       d.updTile b x fun t => t.put a ((t.acOf c).setWidth 64))) ∧
  (∀ (b x : Nat) (rb c : Nat) (adds : W32) (d : Dev),
     okSite b x = true → rb < 32 → c < 32 → d.issues b x ⟨7, none, some rb, .reg (some c)⟩ = true →
     Completes (.acwr b x false rb c adds) d (
       let d := d.issued b x
       d.updTile b x fun t => (t.setAc c ((t.reg rb).setWidth 32 + adds)).next)) ∧
  (∀ (b x : Nat) (rb c : Nat) (d : Dev),
     okSite b x = true → rb < 32 → c < 32 → d.issues b x ⟨7, none, some rb, .reg (some c)⟩ = true →
     Completes (.acadd b x false rb c) d (
       let d := d.issued b x
       d.updTile b x fun t => (t.addAc c ((t.reg rb).setWidth 32)).next)) ∧
  (∀ (b x : Nat) (a c : Nat) (d : Dev),
     okSite b x = true → a < 32 → c < 32 → d.issues b x ⟨7, some a, none, .reg (some c)⟩ = true →
     c < 16 →
     Completes (.ccrd b x false a c) d (
       let d := d.issued b x
       d.updTile b x fun t => t.put a ((t.ccOf c).setWidth 64))) ∧
  (∀ (b x : Nat) (rb c : Nat) (adds : W32) (d : Dev),
     okSite b x = true → rb < 32 → c < 32 → d.issues b x ⟨7, none, some rb, .reg (some c)⟩ = true →
     c < 16 →
     Completes (.ccwr b x false rb c adds) d (
       let d := d.issued b x
       d.updTile b x fun t =>
         (t.setCc c ((t.reg rb).setWidth 32 + adds)).next))

/-- Matrix engine commands, engine NOPs and completions take effect: commands that start with every check passed, the completion of a
command, the arrival of a streamed unit. Each answers a next state, whose device is the one that its rule gives (R91, R97, R99, R114). -/
def Obligations.MatrixCommandsComplete : Prop :=
  (∀ (b x q : Nat) (e : QEntry) (d : Dev),
     okSite b x = true → q < 6 → d.enginesRun b x = true → startable ((d.tile b x).queue q) = some e →
     opOf e.cmd = 0 → verdict (nonZeroFields e.cmd (restFields q)) = none →
     Completes (.engineNop b x q) d (
       let d := d.beginCmd b x q e
       d.endCmd b x q e.idx stOk)) ∧
  (∀ (b x q : Nat) (e : QEntry) (rest : List QEntry) (d : Dev),
     okSite b x = true → q < 6 → (d.tile b x).queue q = e :: rest → d.enginesRun b x = true → e.phase = .ended →
     d.copyUnderWay e = false →
     Completes (.commandCompletion b x q) d (d.completeCmd b x q e rest)) ∧
  (∀ (b x : Nat) (e : QEntry) (d : Dev),
     okSite b x = true → d.enginesRun b x = true → startable ((d.tile b x).queue 0) = some e →
     opOf e.cmd = 1 → verdict (mmaChecks d e.cmd) = none →
     Completes (.mma b x) d (Dev.mmaRun b x (d.beginCmd b x 0 e) e)) ∧
  (∀ (b x : Nat) (e : QEntry) (d : Dev),
     okSite b x = true → d.enginesRun b x = true → startable ((d.tile b x).queue 0) = some e →
     opOf e.cmd = 2 → verdict (mmaChecks d e.cmd) = none →
     Completes (.mmaSparse b x) d (Dev.mmaRun b x (d.beginCmd b x 0 e) e)) ∧
  (∀ (b x : Nat) (e : QEntry) (d : Dev),
     okSite b x = true → d.enginesRun b x = true → startable ((d.tile b x).queue 0) = some e →
     opOf e.cmd = 3 → verdict (accZeroChecks d e.cmd) = none →
     Completes (.accZero b x) d (
       let d := d.beginCmd b x 0 e
       (d.updTile b x fun t => t.mapAcc (mAcc e.cmd) 16 fun _ _ => 0).endCmd b x 0 e.idx stOk)) ∧
  (∀ (b x : Nat) (e : QEntry) (d : Dev),
     okSite b x = true → d.enginesRun b x = true → startable ((d.tile b x).queue 0) = some e →
     opOf e.cmd = 4 → verdict (accLoadChecks d e.cmd) = none →
     Completes (.accLoad b x) d (Dev.accLoadRun b x (d.beginCmd b x 0 e) e)) ∧
  (∀ (b x : Nat) (e : QEntry) (d : Dev),
     okSite b x = true → d.enginesRun b x = true → startable ((d.tile b x).queue 0) = some e →
     opOf e.cmd = 5 → verdict (accStoreChecks d e.cmd) = none →
     Completes (.accStore b x) d (Dev.accStoreRun b x (d.beginCmd b x 0 e) e)) ∧
  (∀ (b x ch idx : Nat) (u : ChanUnit) (rest : List (Nat × ChanUnit)) (d : Dev),
     okSite b x = true → ch < 4 → (d.tile b x).streamOf ch = (idx, u) :: rest → d.enginesRun b x = true →
     unitBytes ((d.tile b x).channel ch) + u.data.length ≤ 4096 →
     Completes (.streamUnitArrival b x ch) d (d.streamUnit b x ch idx u rest))

/-- Vector engine commands take effect: the thirteen vector commands, each started with every check passed. Each answers a next state,
whose device is the one that its rule gives (R101, R150, R151, R152, R153, R154). -/
def Obligations.VectorCommandsComplete : Prop :=
  (∀ (b x : Nat) (e : QEntry) (d : Dev),
     okSite b x = true → d.enginesRun b x = true → startable ((d.tile b x).queue 1) = some e →
     opOf e.cmd = 1 → verdict (vecChecks twoSources d e.cmd) = none →
     Completes (.vecAdd b x) d ((Dev.vecMap b x some false fun u v _ => u.add v) (d.beginCmd b x 1 e) e)) ∧
  (∀ (b x : Nat) (e : QEntry) (d : Dev),
     okSite b x = true → d.enginesRun b x = true → startable ((d.tile b x).queue 1) = some e →
     opOf e.cmd = 2 → verdict (vecChecks twoSources d e.cmd) = none →
     Completes (.vecMul b x) d ((Dev.vecMap b x some false fun u v _ => u.mul v) (d.beginCmd b x 1 e) e)) ∧
  (∀ (b x : Nat) (e : QEntry) (d : Dev),
     okSite b x = true → d.enginesRun b x = true → startable ((d.tile b x).queue 1) = some e →
     opOf e.cmd = 3 → verdict (vecChecks twoSources d e.cmd) = none →
     Completes (.vecFma b x) d ((Dev.vecMap b x some true fun u v w => (u.mul v).add w) (d.beginCmd b x 1 e) e)) ∧
  (∀ (b x : Nat) (e : QEntry) (d : Dev),
     okSite b x = true → d.enginesRun b x = true → startable ((d.tile b x).queue 1) = some e →
     opOf e.cmd = 4 → verdict (vecChecks twoSources d e.cmd) = none →
     Completes (.vecMax b x) d ((Dev.vecMap b x some false fun u v _ => u.maxOf v) (d.beginCmd b x 1 e) e)) ∧
  (∀ (b x : Nat) (e : QEntry) (d : Dev),
     okSite b x = true → d.enginesRun b x = true → startable ((d.tile b x).queue 1) = some e →
     opOf e.cmd = 5 → verdict (vecChecks twoSources d e.cmd) = none →
     Completes (.vecMin b x) d ((Dev.vecMap b x some false fun u v _ => u.minOf v) (d.beginCmd b x 1 e) e)) ∧
  (∀ (b x : Nat) (e : QEntry) (d : Dev),
     okSite b x = true → d.enginesRun b x = true → startable ((d.tile b x).queue 1) = some e →
     opOf e.cmd = 6 → verdict (vecChecks { twoSources with bElems := fun n => some (min n 1) } d e.cmd) = none →
     Completes (.scale b x) d ((Dev.vecMap b x (fun n => some (min n 1)) false fun u v _ => u.mul v) (d.beginCmd b x 1 e) e)) ∧
  (∀ (b x : Nat) (e : QEntry) (d : Dev),
     okSite b x = true → d.enginesRun b x = true → startable ((d.tile b x).queue 1) = some e →
     opOf e.cmd = 7 → verdict (vecChecks oneSource d e.cmd) = none →
     Completes (.exp b x) d ((Dev.vecMap b x (fun _ => none) false fun u _ _ => fp32.decode (fnExp u)) (d.beginCmd b x 1 e) e)) ∧
  (∀ (b x : Nat) (e : QEntry) (d : Dev),
     okSite b x = true → d.enginesRun b x = true → startable ((d.tile b x).queue 1) = some e →
     opOf e.cmd = 8 → verdict (vecChecks oneSource d e.cmd) = none →
     Completes (.recip b x) d ((Dev.vecMap b x (fun _ => none) false fun u _ _ => fp32.decode (fnRecip u)) (d.beginCmd b x 1 e) e)) ∧
  (∀ (b x : Nat) (e : QEntry) (d : Dev),
     okSite b x = true → d.enginesRun b x = true → startable ((d.tile b x).queue 1) = some e →
     opOf e.cmd = 9 → verdict (vecChecks oneSource d e.cmd) = none →
     Completes (.rsqrt b x) d ((Dev.vecMap b x (fun _ => none) false fun u _ _ => fp32.decode (fnRsqrt u)) (d.beginCmd b x 1 e) e)) ∧
  (∀ (b x : Nat) (e : QEntry) (d : Dev),
     okSite b x = true → d.enginesRun b x = true → startable ((d.tile b x).queue 1) = some e →
     opOf e.cmd = 10 → verdict (vecChecks { ins := codes 0 14, outs := codes 0 14 } d e.cmd) = none →
     Completes (.cvt b x) d ((Dev.vecMap b x (fun _ => none) false fun u _ _ => u) (d.beginCmd b x 1 e) e)) ∧
  (∀ (b x : Nat) (e : QEntry) (d : Dev),
     okSite b x = true → d.enginesRun b x = true → startable ((d.tile b x).queue 1) = some e →
     opOf e.cmd = 11 → verdict (vecChecks { ins := vecIns, outs := [0], dstBytes := fun _ n => 4 * min n 1 } d e.cmd) = none →
     Completes (.sum b x) d (Dev.sumRun b x (d.beginCmd b x 1 e) e)) ∧
  (∀ (b x : Nat) (e : QEntry) (d : Dev),
     okSite b x = true → d.enginesRun b x = true → startable ((d.tile b x).queue 1) = some e →
     opOf e.cmd = 12 → verdict (vecChecks { ins := vecIns, outs := [0], dstBytes := fun _ n => 8 * min n 1 } d e.cmd) = none →
     Completes (.rmax b x) d (Dev.rmaxRun b x (d.beginCmd b x 1 e) e)) ∧
  (∀ (b x : Nat) (e : QEntry) (d : Dev),
     okSite b x = true → d.enginesRun b x = true → startable ((d.tile b x).queue 1) = some e →
     opOf e.cmd = 13 → verdict (vecChecks { readsA := false, ins := [0], outs := codes 0 2 } d e.cmd) = none →
     Completes (.rng b x) d (Dev.rngRun b x (d.beginCmd b x 1 e) e))

/-- DMA, message, loft and score commands take effect: each started with every check passed, and the issue of a held packet. Each answers a
next state, whose device is the one that its rule gives (R102, R103, R107, R109, R112, R119, R277). -/
def Obligations.TransfersAndMessagesComplete : Prop :=
  (∀ (b x : Nat) (found : List (Nat × Ecc)) (e : QEntry) (dev : Dev),
     let d := dev.find b x found
     okSite b x = true → d.enginesRun b x = true → startable ((d.tile b x).queue 2) = some e →
     opOf e.cmd = 1 → verdict (copyChecks b x d e.cmd) = none →
     Completes (.copy b x found) dev (
       let d := d.beginCmd b x 2 e
       d.copyStart b x ⟨e.idx, cActEn e.cmd, cActr e.cmd⟩ (copyPieces b x d e.cmd))) ∧
  (∀ (b x : Nat) (found : List (Nat × Ecc)) (e : QEntry) (dev : Dev),
     let d := dev.find b x found
     okSite b x = true → d.enginesRun b x = true → startable ((d.tile b x).queue 2) = some e →
     opOf e.cmd = 2 → verdict (copydChecks b x d e.cmd) = none →
     Completes (.copyd b x found) dev (Dev.copydRun b x (d.beginCmd b x 2 e) e)) ∧
  (∀ (b x : Nat) (d : Dev),
     okSite b x = true → d.enginesRun b x = true →
     Completes (.heldPacketIssue b x) d (d.issueHeld b x)) ∧
  (∀ (b x : Nat) (e : QEntry) (d : Dev),
     okSite b x = true → d.enginesRun b x = true → startable ((d.tile b x).queue 3) = some e →
     opOf e.cmd = 1 → verdict (msgChecks b x d e.cmd) = none →
     Completes (.msgLoad b x) d (Dev.msgRun b x (d.beginCmd b x 3 e) e)) ∧
  (∀ (b x : Nat) (e : QEntry) (d : Dev),
     okSite b x = true → d.enginesRun b x = true → startable ((d.tile b x).queue 3) = some e →
     opOf e.cmd = 2 → verdict (msgChecks b x d e.cmd) = none →
     Completes (.msgStore b x) d (Dev.msgRun b x (d.beginCmd b x 3 e) e)) ∧
  (∀ (b x : Nat) (e : QEntry) (d : Dev),
     okSite b x = true → d.enginesRun b x = true → startable ((d.tile b x).queue 3) = some e →
     opOf e.cmd = 3 → verdict (msgChecks b x d e.cmd) = none →
     Completes (.atomic b x) d (Dev.msgRun b x (d.beginCmd b x 3 e) e)) ∧
  (∀ (b x : Nat) (e : QEntry) (d : Dev),
     okSite b x = true → d.enginesRun b x = true → startable ((d.tile b x).queue 3) = some e →
     opOf e.cmd = 4 → verdict (msgChecks b x d e.cmd) = none →
     Completes (.reduce b x) d (Dev.msgRun b x (d.beginCmd b x 3 e) e)) ∧
  (∀ (b x : Nat) (e : QEntry) (d : Dev),
     okSite b x = true → d.enginesRun b x = true → startable ((d.tile b x).queue 3) = some e →
     opOf e.cmd = 5 → verdict (msgChecks b x d e.cmd) = none →
     Completes (.reduceAck b x) d (Dev.msgRun b x (d.beginCmd b x 3 e) e)) ∧
  (∀ (b x : Nat) (e : QEntry) (d : Dev),
     okSite b x = true → d.enginesRun b x = true → startable ((d.tile b x).queue 3) = some e →
     opOf e.cmd = 6 → verdict (msgChecks b x d e.cmd) = none →
     Completes (.mcast b x) d (Dev.msgRun b x (d.beginCmd b x 3 e) e)) ∧
  (∀ (b x : Nat) (e : QEntry) (d : Dev),
     okSite b x = true → d.enginesRun b x = true → startable ((d.tile b x).queue 3) = some e →
     opOf e.cmd = 7 → verdict (msgChecks b x d e.cmd) = none →
     Completes (.signal b x) d (Dev.msgRun b x (d.beginCmd b x 3 e) e)) ∧
  (∀ (b x : Nat) (e : QEntry) (d : Dev),
     okSite b x = true → d.enginesRun b x = true → startable ((d.tile b x).queue 3) = some e →
     opOf e.cmd = 8 → verdict (msgChecks b x d e.cmd) = none →
     Completes (.event b x) d (Dev.msgRun b x (d.beginCmd b x 3 e) e)) ∧
  (∀ (b x : Nat) (found : List (Nat × Ecc)) (e : QEntry) (dev : Dev),
     let d := dev.find b x found
     okSite b x = true → d.enginesRun b x = true → startable ((d.tile b x).queue 4) = some e →
     opOf e.cmd = 1 → verdict (loftChecks b x d e.cmd) = none →
     Completes (.loftRead b x found) dev (Dev.loftMove b x true (d.beginCmd b x 4 e) e)) ∧
  (∀ (b x : Nat) (found : List (Nat × Ecc)) (e : QEntry) (dev : Dev),
     let d := dev.find b x found
     okSite b x = true → d.enginesRun b x = true → startable ((d.tile b x).queue 4) = some e →
     opOf e.cmd = 2 → verdict (loftChecks b x d e.cmd) = none →
     Completes (.loftWrite b x found) dev (Dev.loftMove b x false (d.beginCmd b x 4 e) e)) ∧
  (∀ (b x : Nat) (found : List (Nat × Ecc)) (e : QEntry) (dev : Dev),
     let d := dev.find b x found
     okSite b x = true → d.enginesRun b x = true → startable ((d.tile b x).queue 4) = some e →
     opOf e.cmd = 3 → verdict (loftChecks b x d e.cmd) = none →
     Completes (.loftStream b x found) dev (Dev.loftStreamRun b x (d.beginCmd b x 4 e) e)) ∧
  (∀ (b x : Nat) (found : List (Nat × Ecc)) (e : QEntry) (dev : Dev),
     let d := dev.find b x found
     okSite b x = true → d.enginesRun b x = true → startable ((d.tile b x).queue 5) = some e →
     opOf e.cmd = 1 → verdict (scoreChecks b x d e.cmd) = none →
     Completes (.score b x found) dev (Dev.scoreRun b x (d.beginCmd b x 5 e) e))

/-- Arrivals at a tile, slot timeouts and tile register writes complete: packets and replies at a tile, a slot past its time, events,
reset, run, halt, remap post, counters and general registers. Each answers a next state, whose device is the one that its rule gives
(R113, R115, R120, R121, R122, R127, R130, R133, R281). -/
def Obligations.TileArrivalsAndControlComplete : Prop :=
  (∀ (b x : Nat) (pkt : Packet) (found : List (Nat × Ecc)) (d : Dev),
     okSite b x = true → d.siteRuns b x = true → isReply pkt = false →
     Completes (.targetTileArrival b x pkt found) d ((d.find b x found).arriveTile b x pkt)) ∧
  (∀ (b x : Nat) (pkt : Packet) (d : Dev),
     okSite b x = true → d.siteRuns b x = true → isReply pkt = true →
     Completes (.replyArrival b x pkt) d ((d.take (.tile b x) pkt).arriveReply b x pkt)) ∧
  (∀ (b x i : Nat) (d : Dev),
     okSite b x = true → i < 64 →
     ∀ sl, (d.tile b x).slot i = some sl →
     d.siteRuns b x = true → sl.sent + d.getF (r0 .YARD_TIMING) Fld.YARD_TIMING_REMOTE_TO ≤ d.beat →
     Completes (.slotTimeout b x i) d (d.slotExpire b x i sl)) ∧
  (∀ (b x : Nat) (v : W32) (d : Dev),
     okSite b x = true →
     d.reaches (r2 .EVENT_POST b x).addr = true →
     Completes (.eventPost b x v) d (d.updTile b x fun t => { t with evtPending := Nat.lor t.evtPending (v.toNat % 16) })) ∧
  (∀ (b x : Nat) (v : W32) (d : Dev),
     okSite b x = true →
     d.reaches (r2 .TILE_CTRL b x).addr = true →
     Completes (.tileReset b x v) d (d.writeTileCtrl b x v)) ∧
  (∀ (b x : Nat) (d : Dev),
     okSite b x = true →
     let t := d.tile b x
     t.inReset = true → t.resetPend = false → d.flag (r2 .TILE_CTRL b x) Fld.TILE_CTRL_RESET = false → t.resetBeat < d.beat →
     Completes (.tileResetRelease b x) d (d.leaveReset b x)) ∧
  (∀ (b x : Nat) (v : W32) (d : Dev),
     okSite b x = true →
     d.reaches (r2 .TILE_CTRL b x).addr = true →
     Completes (.tileRun b x v) d (d.writeTileCtrl b x v)) ∧
  (∀ (b x : Nat) (v : W32) (d : Dev),
     okSite b x = true →
     d.reaches (r2 .TILE_CTRL b x).addr = true →
     Completes (.tileHalt b x v) d (d.writeTileCtrl b x v)) ∧
  (∀ (b x : Nat) (v : W32) (d : Dev),
     okSite b x = true →
     d.reaches (r2 .TILE_CTRL b x).addr = true →
     Completes (.remapPost b x v) d (d.writeTileCtrl b x v)) ∧
  (∀ (b x : Nat) (cc : Bool) (i : Nat) (v adds : W32) (d : Dev),
     okSite b x = true → i < (if cc then 16 else 32) →
     d.reaches (if cc then r3 .CC b x i else r3 .AC b x i).addr = true →
     Completes (.counterWrite b x cc i v adds) d (d.updTile b x fun t => if cc then t.setCc i (v + adds) else t.setAc i (v + adds))) ∧
  (∀ (b x n : Nat) (hi : Bool) (v : W32) (d : Dev),
     okSite b x = true → n < 32 →
     d.reaches (if hi then r3 .GREG_HI b x n else r3 .GREG_LO b x n).addr = true →
     Completes (.gregWrite b x n hi v) d (d.writeGreg b x n hi v))

/-- Router and schedule events complete: ingress, the start of the schedule, its slots and frames, the add stage, the switches of schedule,
flows and sinks. Each answers a next state, whose device is the one that its rule gives (R168, R185, R186, R188, R193, R194). -/
def Obligations.RouterAndScheduleComplete : Prop :=
  (∀ (b x port : Nat) (pkt : Packet) (head : Ecc) (body : List Ecc) (d : Dev),
     okSite b x = true → hasPort x port = true → d.siteRuns b x = true → d.hole b x = false →
     Completes (.routerIngress b x port pkt head body) d (d.ingress b x port pkt head body)) ∧
  (∀ (b x : Nat) (d : Dev),
     okSite b x = true →
     let st := r2 .RTR_STATUS b x
     let t := d.siteBeat b x
     d.siteRuns b x = true → d.flag (r2 .RTR_CTRL b x) Fld.RTR_CTRL_SCHED_EN = true → d.flag st Fld.RTR_STATUS_SCHED_ACTIVE = false →
     t % 128 = 0 → d.pair (r2 .SCHED_START_LO b x) (r2 .SCHED_START_HI b x) ≤ t →
     Completes (.schedStart b x) d (d.setF st Fld.RTR_STATUS_SCHED_ACTIVE 1)) ∧
  (∀ (b x : Nat) (d : Dev),
     let t := d.siteBeat b x
     okSite b x = true → d.siteRuns b x = true → d.hole b x = false → d.flag (r2 .RTR_STATUS b x) Fld.RTR_STATUS_SCHED_ACTIVE = true →
     t % 2 = 0 → (d.router b x).nextSlot ≤ t / 2 →
     Completes (.schedSlot b x) d (d.beginSlot b x (t / 2))) ∧
  (∀ (b x : Nat) (d : Dev),
     okSite b x = true → d.siteRuns b x = true → d.siteBeat b x % 128 = 0 →
     Completes (.frameBoundary b x) d (d.endFrame b x)) ∧
  (∀ (b x out : Nat) (d : Dev),
     okSite b x = true → out < 5 → d.siteRuns b x = true →
     Completes (.addStageResume b x out) d (d.pump pumpFuel b [x])) ∧
  (∀ (b x : Nat) (v : W32) (d : Dev),
     okSite b x = true →
     d.reaches (r2 .RTR_CTRL b x).addr = true →
     Completes (.schedEn b x v) d (d.writeRtrCtrl b x v)) ∧
  (∀ (b x f : Nat) (v : W32) (d : Dev),
     okSite b x = true → f < 32 →
     d.reaches (r3 .FLOW_AC b x f).addr = true →
     Completes (.flowEnable b x f v) d (d.writeFlowAc b x f v)) ∧
  (∀ (b x k : Nat) (v : W32) (d : Dev),
     okSite b x = true → k < 32 →
     d.reaches (r3 .SINK_CTR b x k).addr = true →
     Completes (.sinkEnable b x k v) d (d.writeSinkCtr b x k v))

/-- Route loading, route rewriting and tap events complete: the parent and map registers, the load and its end, a rewrite of routes, tap
CRC errors and retirements. Each answers a next state, whose device is the one that its rule gives (R175, R176, R181). -/
def Obligations.RoutesAndTapsComplete : Prop :=
  (∀ (b x : Nat) (v : W32) (d : Dev),
     okSite b x = true →
     d.reaches (r2 .RT_PARENT b x).addr = true →
     Fld.RT_PARENT_PARENT.get v < 768 →
     Completes (.rtParentWrite b x v) d (d.store (r2 .RT_PARENT b x) v)) ∧
  (∀ (b t : Nat) (v : W32) (d : Dev),
     b < 8 → t < 704 →
     d.reaches (r2 .RT_MAP b t).addr = true →
     Fld.RT_MAP_SITE.get v < 768 →
     Completes (.rtMapWrite b t v) d (d.store (r2 .RT_MAP b t) v)) ∧
  (∀ (b : Nat) (v : W32) (d : Dev),
     b < 8 →
     d.reaches (r1 .RT_CTRL b).addr = true →
     Fld.RT_CTRL_LOAD.get v = 1 → bitOf d.barnsIn b = false →
     Completes (.routeLoad b v) d (
       (((d.setF (r1 .RT_CTRL b) Fld.RT_CTRL_LOAD 1).setF (r1 .RT_STATUS b) Fld.RT_STATUS_BUSY 1).setF (r1 .RT_STATUS b)
                 Fld.RT_STATUS_DONE 0).setF (r1 .RT_STATUS b) Fld.RT_STATUS_NO_ROOT 0)) ∧
  (∀ (b : Nat) (d : Dev),
     b < 8 → d.flag (r1 .RT_STATUS b) Fld.RT_STATUS_BUSY = true →
     Completes (.routeLoadDone b) d (d.loadDone b)) ∧
  (∀ (b x : Nat) (d : Dev),
     okSite b x = true →
     let going := d.rewriting.get (fun _ => none) b == some x
     let begins := bitOf d.barnsIn b && parentIn (d.parentWord b x)
     d.hasMaster = true → (going || begins) = true →
     Completes (.routeRewrite b x) d (
       let d := if going then d else { d.barnLeaves b with rewriting := d.rewriting.set (fun _ => none) b (some x) }
       if d.buffersEmpty b then d.rewriteRoutes b x else d)) ∧
  (∀ (b x bundle : Nat) (d : Dev),
     okSite b x = true → isTap x = true → bundle < 5 → bitOf (d.getF (r2 .TAP_STATUS b x) Fld.TAP_STATUS_IN_SERVICE) bundle = true →
     Completes (.tapCrcError b x bundle) d (
       { (d.inc (r2 .TAP_CRC b x) Fld.TAP_CRC_CRC).inc (r2 .TAP_REPLAY b x) Fld.TAP_REPLAY_REPLAY with
         tapErrs := d.tapErrs.upd (fun _ => []) ((b * 768 + x) * 8 + bundle) fun l => recent l d.beat })) ∧
  (∀ (b x bundle : Nat) (d : Dev),
     okSite b x = true → isTap x = true → bundle < 5 →
     let r := r2 .TAP_STATUS b x
     let l := (d.tapErrs.get (fun _ => []) ((b * 768 + x) * 8 + bundle)).filter fun t => d.beat ≤ t + 100000
     16 ≤ l.length → bitOf (d.getF r Fld.TAP_STATUS_IN_SERVICE) bundle = true →
     Completes (.tapBundleRetire b x bundle) d (
       let d := d.setF r Fld.TAP_STATUS_IN_SERVICE (setBitNat (d.getF r Fld.TAP_STATUS_IN_SERVICE) bundle false)
       let d := (d.setF r Fld.TAP_STATUS_RETIRED_LIVE (setBitNat (d.getF r Fld.TAP_STATUS_RETIRED_LIVE) bundle true)).raise (140 + b)
       if d.tapUsable b x then d else d.retap b (x / 32) (x % 32)))

/-- Loft coil events, scrubbing and cache control complete: coil CRC errors and retirements, the scrub, the loft registers and
invalidations. Each answers a next state, whose device is the one that its rule gives (R197, R201, R204). -/
def Obligations.LoftControlComplete : Prop :=
  (∀ (b x die : Nat) (d : Dev),
     okSite b x = true → die < 4 → bitOf (d.lostDies b x) die = false →
     let crc := nth [Fld.LOFT_COIL_CRC_L0, Fld.LOFT_COIL_CRC_L1, Fld.LOFT_COIL_CRC_L2, Fld.LOFT_COIL_CRC_L3] die Fld.LOFT_COIL_CRC_L0
     Completes (.coilCrcError b x die) d (
       { (d.inc (r2 .LOFT_COIL_CRC b x) crc).inc (r2 .LOFT_COIL_REPLAY b x) Fld.LOFT_COIL_REPLAY_REPLAY with
         coilErrs := d.coilErrs.upd (fun _ => []) ((b * 768 + x) * 4 + die) fun l => recent l d.beat })) ∧
  (∀ (b x die : Nat) (d : Dev),
     okSite b x = true → die < 4 →
     let l := (d.coilErrs.get (fun _ => []) ((b * 768 + x) * 4 + die)).filter fun t => d.beat ≤ t + 100000
     16 ≤ l.length → bitOf (d.lostDies b x) die = false →
     Completes (.coilRetire b x die) d (d.retireCoil b x die)) ∧
  (∀ (b x off : Nat) (ecc : Ecc) (d : Dev),
     okSite b x = true → off < 2 ^ 24 → d.flag (r2 .LOFT_CTRL b x) Fld.LOFT_CTRL_SCRUB_EN = true →
       lostByte (d.lostDies b x) (loftBase + off) = false →
     Completes (.loftScrub b x off ecc) d (d.scrubLoft b x off ecc)) ∧
  (∀ (b x which : Nat) (v : W32) (d : Dev),
     okSite b x = true → which < 5 →
     d.reaches (loftReg b x which).addr = true →
     Completes (.loftCtrlWrite b x which v) d (d.writeLoft (loftReg b x which) v)) ∧
  (∀ (b x : Nat) (v : W32) (d : Dev),
     okSite b x = true →
     d.reaches (r2 .LOFT_INV b x).addr = true →
     Fld.LOFT_INV_INV.get v = 1 →
     Completes (.loftInv b x v) d (d.invalidate b x)) ∧
  (∀ (b x : Nat) (d : Dev),
     okSite b x = true →
     Completes (.loftInvDone b x) d (d.setF (r2 .LOFT_STATUS b x) Fld.LOFT_STATUS_INV_BUSY 0))

/-- Power, coolant, diode and trip events complete: the 1,000-beat interval, rail faults and the end of their term, lowered points, coolant
and diode readings, trips. Each answers a next state, whose device is the one that its rule gives (R357, R359, R363, R366, R368, R373,
R374). -/
def Obligations.PowerEventsComplete : Prop :=
  (∀ (meas : PowerSample) (d : Dev),
     d.counting = true → d.beat % 1000 = 0 → 1000 ≤ d.beat → d.pwr.closedAt ≠ some d.beat →
     Completes (.powerInterval meas) d (d.closeInterval meas)) ∧
  (∀ (h : Nat) (d : Dev),
     h < 16 → d.pwr.termLeft.get (fun _ => 0) h = 0 →
     Completes (.faultTermEnd h) d (d.setF (r1 .HALF_THERMAL1 h) Fld.HALF_THERMAL1_FAULT_TERM 0)) ∧
  (∀ (b : Nat) (d : Dev),
     b < 8 → d.hasMaster = true → 100 ≤ d.pwr.satRun.get (fun _ => 0) b →
     Completes (.oppLower b) d (
       let d := { d with pwr := { d.pwr with satRun := d.pwr.satRun.set (fun _ => 0) b 0 } }
       [2 * b, 2 * b + 1].foldl (fun d h => match d.slowerPoint h with | some p => d.requestPoint h p | none => d) d)) ∧
  (∀ (r uv : Nat) (d : Dev),
     r < 45 → d.outsideBounds r uv = true → d.vcoreMoves r = false →
     Completes (.railFault r uv) d (d.faultRail r)) ∧
  (∀ (ack : Bool) (raw : Nat) (d : Dev),
     d.flag (r0 .PWR_CTRL) Fld.PWR_CTRL_COOL_EN = true → d.dueEvery 100000 d.pwr.coolAt = true →
     Completes (.coolantRead ack raw) d (
       let d : Dev := { d with pwr := { d.pwr with coolAt := some d.beat } }
       (d.emit (.coolant (d.getF (r0 .PWR_COOL) Fld.PWR_COOL_ADDR) (d.getF (r0 .PWR_COOL) Fld.PWR_COOL_REG))).coolantReading ack raw)) ∧
  (∀ (i t : Nat) (d : Dev),
     i < 24 → t < 4096 → d.dueEvery 100000 (d.pwr.diodeAt.get (fun _ => none) i) = true →
     Completes (.diodeRead i t) d
       (Dev.diodeReading { d with pwr := { d.pwr with diodeAt := d.pwr.diodeAt.set (fun _ => none) i (some d.beat) } } i t)) ∧
  (∀ (unit : Nat) (d : Dev),
     unit < 24 →
     Completes (.trip unit) d (d.tripUnit unit))

/-- HBM stack events complete: training, tracking, temperatures, the scrub, requests, prefetch and trackers, the timeout of a command. Each
answers a next state, whose device is the one that its rule gives (R212, R213, R215, R217, R219, R221, R228). -/
def Obligations.StackEventsComplete : Prop :=
  (∀ (n : Nat) (passed : Bool) (d : Dev),
     n < 20 →
     let st := r1 .HBM_STATUS n
     d.phase = 3 → d.flag st Fld.HBM_STATUS_TRAINED = false → d.flag st Fld.HBM_STATUS_RETIRED = false →
     Completes (.hbmTraining n passed) d (if passed then d.setF st Fld.HBM_STATUS_TRAINED 1 else d.setF st Fld.HBM_STATUS_RETIRED 1)) ∧
  (∀ (n : Nat) (d : Dev),
     n < 20 → d.stackIn n = true → d.beat % 2 ^ 20 = 0 →
     Completes (.hbmTracking n) d (d.updHbm n fun h => { h with tracked := some d.beat })) ∧
  (∀ (n : Nat) (d : Dev),
     n < 20 → d.stackIn n = true → d.beat % 1000 = 0 →
     Completes (.hbmThermalUpdate n) d (d.hbmThermal n)) ∧
  (∀ (n t : Nat) (d : Dev),
     n < 20 → t < 256 → d.stackIn n = true → d.beat % 2 ^ 20 = 0 →
     Completes (.hbmReadout n t) d (
       let d := (d.updHbm n fun h => { h with readout := some t }).setF (r1 .HBM_TEMP n) Fld.HBM_TEMP_STACK t
       d.hbmAlarm n Fld.HBM_STATUS_DISAGREE (d.hbmDiffers n))) ∧
  (∀ (n addr : Nat) (ecc : Ecc) (sev : Nat) (d : Dev),
     n < 20 → addr < stackBytes → d.stackIn n = true → d.flag (r1 .HBM_CTRL n) Fld.HBM_CTRL_SCRUB_EN = true →
     Completes (.hbmScrub n addr ecc sev) d (d.scrubStack n addr ecc sev)) ∧
  (∀ (n : Nat) (pkt : Packet) (found : List (Nat × Ecc)) (sev : Nat) (d : Dev),
     n < 20 → isReply pkt = false → d.inTurn (.hbm n) pkt = true →
     Completes (.hbmRequest n pkt found sev) d ((d.take (.hbm n) pkt).hbmRequest n pkt found sev)) ∧
  (∀ (n line : Nat) (found : List (Nat × Ecc)) (sev : Nat) (d : Dev),
     n < 20 →
     ∀ f, ((d.hbm n).fetches.find? fun f => f.line == line) = some f →
     d.flag (r1 .HBM_STATUS n) Fld.HBM_STATUS_RETIRED = false →
     Completes (.prefetchFill n line found sev) d (d.fillBuffer n f found sev)) ∧
  (∀ (n line : Nat) (d : Dev),
     n < 20 →
     ∀ b, ((d.hbm n).lines.find? fun b => b.line == line) = some b →
     b.fill + d.getF (r1 .TRK_TIME n) Fld.TRK_TIME_LINE_TTL ≤ d.beat →
     Completes (.lineExpire n line) d (
       let d := d.updHbm n fun h => { h with lines := eraseFirst (fun c => c.line == line) h.lines }
       if b.used then d else d.inc (r1 .TRK_PF_UNUSED n) Fld.TRK_PF_UNUSED_UNUSED)) ∧
  (∀ (n i : Nat) (d : Dev),
     n < 20 →
     ∀ t, (d.hbm n).trackers[i]? = some t →
     t.last + d.getF (r1 .TRK_TIME n) Fld.TRK_TIME_IDLE ≤ d.beat →
     Completes (.trackerIdle n i) d (d.updHbm n fun h => { h with trackers := h.trackers.eraseIdx i })) ∧
  (∀ (n i : Nat) (d : Dev),
     n < 20 →
     let h := d.hbm n
     ∀ p, (h.fetches.flatMap Fetch.waits)[i]? = some p →
     ∀ c, h.closedAt = some c → d.flag (r1 .HBM_CTRL n) Fld.HBM_CTRL_ACCEPT = false → c + 1000 ≤ d.beat →
     let data := d.stackBytesAt (pAddr p) (hbmBase n + d.stackOffset (pAddr p)) (pLen p)
     let drop (f : Fetch) : Fetch := { f with waits := eraseFirst (· == p) f.waits }
     Completes (.hbmCommandTimeout n i) d (
       (d.setHbm n { h with fetches := updFirst (fun f => f.waits.contains p) drop h.fetches }).hbmReply n p stPoison data
         (List.replicate data.length true)))

/-- Stack retirement, window changes and shape generations complete: a stack leaves the window, the window is committed and applied, a
shape generation is published. Each answers a next state, whose device is the one that its rule gives (R32, R226, R228). -/
def Obligations.WindowAndShapeChangesComplete : Prop :=
  (∀ (n : Nat) (v : W32) (d : Dev),
     n < 20 →
     d.reaches (r1 .HBM_CTRL n).addr = true →
     Fld.HBM_CTRL_RETIRE.get v = 1 →
     Completes (.hbmRetire n v) d ((d.store (r1 .HBM_CTRL n) v).hbmRetire n)) ∧
  (∀ (n : Nat) (d : Dev),
     n < 20 → d.hasMaster = true → d.stackIn n = true → (d.hbm n).retiring.isNone = true → d.winNext.isNone = true →
     Completes (.stackRetire n) d (d.retireStack n)) ∧
  (∀ (n : Nat) (d : Dev),
     n < 20 →
     let h := d.hbm n
     d.hasMaster = true → h.retiring.isSome = true → d.flag (r1 .HBM_CTRL n) Fld.HBM_CTRL_ACCEPT = false → h.outstanding = 0 →
     Completes (.stackRetireDrained n) d (d.stackDrained n)) ∧
  (∀ (v : W32) (d : Dev),
     d.reaches (r0 .WIN_CTRL).addr = true →
     Fld.WIN_CTRL_COMMIT.get v = 1 →
     Completes (.winCommit v) d (d.winCommit)) ∧
  (∀ (d : Dev),
     ∀ mask c, d.winNext = some (mask, c) →
     c ≤ d.beat →
     Completes (.winApply) d (d.winDue)) ∧
  (∀ (d : Dev),
     Completes (.shapeGeneration) d (Dev.newShape d))

/-- Port router events, ledgers and port resets complete: packets at a port router, tags, credits, ledger executions, resets, hangs and
loss reports. Each answers a next state, whose device is the one that its rule gives (R232, R280, R284, R286, R287, R293, R435, R436). -/
def Obligations.PortRouterEventsComplete : Prop :=
  (∀ (p inp : Nat) (pkt : Packet) (d : Dev),
     p < 32 → inp ≤ 40 → d.inReset p = false →
     Completes (.portRouterPacket p inp pkt) d (d.portPacket p inp pkt)) ∧
  (∀ (p tag : Nat) (d : Dev),
     p < 8 || (28 ≤ p && p < 32) → tag < 8192 → d.inReset p = false →
     ∀ i k, (d.waitingAt p fun k => isReply k && pTag k == tag) = some (i, k) →
     Completes (.tagFree p tag) d (d.freeTag p i k)) ∧
  (∀ (b x member target n : Nat) (d : Dev),
     okSite b x = true → member < 16 → target < 28 →
     d.siteRuns b x = true →
     let here (f : Flight) : Bool := f.place == .tile b x && isCreditReturn member target n f.pkt
     Completes (.creditReturnRelease b x member target n) d
       (Dev.returnCredits { d with net := eraseFirst here d.net } b x member target n)) ∧
  (∀ (p : Nat) (pkt : Packet) (d : Dev),
     p < 28 → ledgered pkt = true → d.inReset p = false → d.isFront (.ledger p) pkt = true →
     Completes (.ledgerExecute p pkt) d (d.ledgerExecute p pkt)) ∧
  (∀ (p : Nat) (d : Dev),
     p < 28 → d.flag (r1 .PORT_STATUS p) Fld.PORT_STATUS_LEDGER_HOLD = true → d.ledgerFull p = false →
     Completes (.ledgerHoldRelease p) d (d.releaseHold p)) ∧
  (∀ (p : Nat) (v : W32) (d : Dev),
     p < 32 →
     d.reaches (r1 .PORT_CTRL p).addr = true →
     Completes (.portReset p v) d (d.writePortCtrl p v)) ∧
  (∀ (p : Nat) (d : Dev),
     p < 32 → d.inReset p = true →
     Completes (.portResetEnd p) d ((d.updPort p fun s => { s with resetAt := none }).setF (r1 .PORT_CTRL p) Fld.PORT_CTRL_RESET 0)) ∧
  (∀ (p : Nat) (d : Dev),
     p < 32 →
     let limit := d.getF (r0 .FAR_LIMITS) Fld.FAR_LIMITS_PORT_HANG_LIMIT
     let stuck := (List.range 41).any fun i =>
       d.net.any (fun f => f.place == .port p i) && decide ((d.port p).moved.get (fun _ => 0) i + limit ≤ d.beat)
     d.hasMaster = true → stuck = true → d.inReset p = false →
     Completes (.portHang p) d (d.portReset p)) ∧
  (∀ (p : Nat) (d : Dev),
     p < 32 →
     let valid := (List.range 16).filter fun i => d.flag (r2 .PORT_LOSS0 p i) Fld.PORT_LOSS0_VALID
     d.hasMaster = true → valid.isEmpty = false →
     Completes (.lossReport p) d (d.reportLosses p)) ∧
  (∀ (p : Nat) (d : Dev),
     p < 32 → d.hasMaster = true → d.inReset p = false →
     Completes (.portUncorrectableError p) d (d.portReset p))

/-- Optical link flits and control messages complete: flits, ACK, NACK, CREDIT, the lane maps and requests, the failure and return of a
pair. Each answers a next state, whose device is the one that its rule gives (R231, R234, R238, R239, R240, R437). -/
def Obligations.OpticalLinkMessagesComplete : Prop :=
  (∀ (wg dir seq : Nat) (words : List (BitVec 68)) (flit : Flit) (d : Dev),
     okWg wg dir = true → seq < 4096 → d.inReset (dirEnds (linkOf wg) dir).2 = false → wordsAre words flit = true →
     isControlFlit flit = true ∨ d.lanesFor (linkOf wg) dir seq ≠ [] →
     Completes (.opticalFlitReceive wg dir seq words flit) d (d.optFlit wg dir seq words flit)) ∧
  (∀ (wg dir : Nat) (msg : W128) (d : Dev),
     okWg wg dir = true → msgBits msg 7 0 = 1 →
     d.inReset (dirEnds (linkOf wg) dir).2 = false →
     Completes (.ack wg dir msg) d ((d.takeCtl (linkOf wg) dir msg).optAck (linkOf wg) dir msg)) ∧
  (∀ (wg dir : Nat) (msg : W128) (d : Dev),
     okWg wg dir = true → msgBits msg 7 0 = 2 →
     d.inReset (dirEnds (linkOf wg) dir).2 = false →
     Completes (.nack wg dir msg) d ((d.takeCtl (linkOf wg) dir msg).optNack wg dir msg)) ∧
  (∀ (wg dir : Nat) (msg : W128) (d : Dev),
     okWg wg dir = true → msgBits msg 7 0 = 3 →
     d.inReset (dirEnds (linkOf wg) dir).2 = false →
     Completes (.credit wg dir msg) d ((d.takeCtl (linkOf wg) dir msg).optCredit (linkOf wg) dir msg)) ∧
  (∀ (wg dir : Nat) (msg : W128) (d : Dev),
     okWg wg dir = true → msgBits msg 7 0 = 4 →
     d.inReset (dirEnds (linkOf wg) dir).2 = false →
     Completes (.laneMap wg dir msg) d ((d.takeCtl (linkOf wg) dir msg).laneMap (linkOf wg) dir msg)) ∧
  (∀ (wg dir : Nat) (msg : W128) (d : Dev),
     okWg wg dir = true → msgBits msg 7 0 = 5 →
     d.inReset (dirEnds (linkOf wg) dir).2 = false →
     Completes (.laneMapAck wg dir msg) d ((d.takeCtl (linkOf wg) dir msg).laneMapAck (linkOf wg) dir msg)) ∧
  (∀ (wg dir : Nat) (msg : W128) (d : Dev),
     okWg wg dir = true → msgBits msg 7 0 = 6 →
     d.inReset (dirEnds (linkOf wg) dir).2 = false →
     Completes (.laneReq wg dir msg) d ((d.takeCtl (linkOf wg) dir msg).laneReq (linkOf wg) dir msg)) ∧
  (∀ (wg dir : Nat) (d : Dev),
     okWg wg dir = true →
     let e := linkOf wg
     ∀ t, (d.olink e dir).zeroSince = some t →
     d.linkFailed e = false → t + (d.rd (r0 .LANE_LINKDOWN)).toNat ≤ d.beat →
     Completes (.pairFail wg dir) d ((((d.setFailed e true).raise 119).restartLink e 0 |>.restartLink e 1).relevel)) ∧
  (∀ (wg : Nat) (d : Dev),
     okWg wg 0 = true →
     let e := linkOf wg
     d.linkFailed e = true → d.hasLane e 0 = true → d.hasLane e 1 = true →
     Completes (.pairReturn wg) d ((d.setFailed e false).relevel))

/-- Ring tuning, lane checks and link training complete: tuning, feedforward, lock losses and relocks, rehops, pattern checks, training,
margins. Each answers a next state, whose device is the one that its rule gives (R243, R245, R246, R247, R250). -/
def Obligations.RingAndLaneEventsComplete : Prop :=
  (∀ (wg dir : Nat) (tx : Bool) (n : Nat) (err : Int) (d : Dev),
     okRing wg dir n = true →
     let key := d.ringOf wg dir tx n
     let k := d.ring key
     let e : Rat := (err : Rat) / 1000
     let ff := if d.flag (r0 .LANE_CTRL) Fld.LANE_CTRL_FF_EN then k.ff - k.ramp else k.ff
     let integ := k.integ + ringKi * e
     let want := ff + integ
     let win : Rat := d.getF (r0 .LANE_THRESH) Fld.LANE_THRESH_LOCK_WIN
     let loose := if win < (if e < 0 then -e else e) then k.loose + 1 else 0
     let heat := clampHeat want
     Completes (.ringTune wg dir tx n err) d (
       let d := d.updRing key fun k => { k with ff := ff, integ := integ, heat := heat, loose := loose }
       d.when (k.locked && !d.flag (r0 .LANE_CTRL) Fld.LANE_CTRL_REHOP_EN && want != heat) fun d => d.loseLock wg dir tx n)) ∧
  (∀ (wg dir : Nat) (tx : Bool) (n : Nat) (d : Dev),
     okRing wg dir n = true → d.beat % 1000 = 0 →
     let key := d.ringOf wg dir tx n
     let t := d.bankTemp (bankKey wg dir tx)
     let kt := match d.cal.block with | some c => f16Rat (nth c.rings key (0, 0)).1 | none => 0
     Completes (.ringFeedforward wg dir tx n) d
       (d.updRing key fun k => { k with ramp := kt * (t - k.temp.getD t) / 1000, temp := some t })) ∧
  (∀ (wg dir : Nat) (tx : Bool) (n : Nat) (d : Dev),
     okRing wg dir n = true →
     let k := d.ring (d.ringOf wg dir tx n)
     k.locked = true → 16 ≤ k.loose →
     Completes (.ringLockLoss wg dir tx n) d (d.loseLock wg dir tx n)) ∧
  (∀ (wg dir : Nat) (tx : Bool) (n : Nat) (off : Int) (d : Dev),
     okRing wg dir n = true → -50000 ≤ off → off ≤ 50000 →
     let key := d.ringOf wg dir tx n
     let o : Rat := (off : Rat) / 1000
     (d.ring key).locked = false → d.laneDark wg dir tx n = false →
     Completes (.ringRelock wg dir tx n off) d (
       let d := d.updRing key fun k => { k with heat := clampHeat (k.ff + o), integ := o, locked := true, loose := 0 }
       d.when (d.ringsLocked wg dir n) fun d => d.startCheck wg dir n)) ∧
  (∀ (wg dir : Nat) (tx up : Bool) (d : Dev),
     okWg wg dir = true →
     let bank := bankKey wg dir tx
     let t := d.bankTemp bank
     let far : Bool := match d.banks.get (fun _ => none) bank with
       | some t0 => decide (20 ≤ (if t < t0 then t0 - t else t - t0))
       | none => false
     d.flag (r0 .LANE_CTRL) Fld.LANE_CTRL_REHOP_EN = true → (d.rehops.get (fun _ => none) bank).isNone = true → far = true →
       d.heaterOut wg dir tx up = true →
     Completes (.rehop wg dir tx up) d (d.rehopBank wg dir tx up)) ∧
  (∀ (wg dir lane errors : Nat) (d : Dev),
     okRing wg dir lane = true →
     ∀ t, ((d.lane wg dir).checks.get (fun _ => none) lane) = some t →
     t + 4000 ≤ d.beat →
     Completes (.patternCheckDone wg dir lane errors) d (if errors ≤ 4 then d.passLane wg dir lane else d.failLane wg dir lane)) ∧
  (∀ (wg dir lane : Nat) (d : Dev),
     okRing wg dir lane = true →
     ∀ t, ((d.lane wg dir).retry.get (fun _ => none) lane) = some t →
     t + 100000 ≤ d.beat →
     Completes (.patternRetry wg dir lane) d ((d.inc (r1 .WG_EVT wg) Fld.WG_EVT_RETRAIN).startCheck wg dir lane)) ∧
  (∀ (wg dir : Nat) (sweepTx sweepRx errors : List Nat) (d : Dev),
     okWg wg dir = true →
     ∀ t, d.trainAt = some t →
     (d.lane wg dir).trained = false →
     Completes (.linkTraining wg dir sweepTx sweepRx errors) d (d.trainOn t wg dir sweepTx sweepRx errors)) ∧
  (∀ (wg dir lane margin : Nat) (d : Dev),
     okRing wg dir lane = true →
     Completes (.marginReport wg dir lane margin) d (d.setF (r3 .RING_RX wg dir lane) Fld.RING_RX_MARGIN (min margin 255)))

/-- Laser, module and lantern bus events complete: power control, failures and spare switches of lasers, the life of a module, lantern bus
transfers. Each answers a next state, whose device is the one that its rule gives (R250, R251, R252, R254, R255, R256, R454). -/
def Obligations.LaserAndModuleEventsComplete : Prop :=
  (∀ (k j yard : Nat) (d : Dev),
     okLaser k j = true →
     let st := d.feed k j Fld.FEED_STATE
     d.beat % 10000 = 0 → d.flag (r0 .LANT_CTRL) Fld.LANT_CTRL_APC_EN = true → (st == 1 || st == 2) = true →
     ∀ m, (if 56 ≤ j then some yard else (d.laserGroup k j).bind fun g => d.feedMargin (laserWave k j) g) = some m →
     Completes (.apcUpdate k j yard) d (d.powerStep k j m)) ∧
  (∀ (k j : Nat) (d : Dev),
     okLaser k j = true → d.feed k j Fld.FEED_STATE ≠ 5 → d.feed k j Fld.FEED_STATE ≠ 6 →
     Completes (.laserFail k j) d (d.failLaser k j)) ∧
  (∀ (k j : Nat) (d : Dev),
     okLaser k j = true → (d.atReplace k j && d.feed k j Fld.FEED_STATE != 0 || d.feed k j Fld.FEED_STATE == 5) = true →
     Completes (.spareSwitchIn k j) d (d.startSwitch k j)) ∧
  (∀ (k j : Nat) (locked : Bool) (d : Dev),
     okLaser k j = true → j < 56 →
     ∀ g w, d.switchOf k j = some (g, w) →
     w.step = 1 →
     Completes (.spareLocked k j locked) d (d.lockSpare k j locked g w)) ∧
  (∀ (k j : Nat) (d : Dev),
     okLaser k j = true → j < 56 →
     ∀ g w, d.switchOf k j = some (g, w) →
     w.step = 4 → d.groupChecked (laserWave k j) g = true →
     Completes (.switchInComplete k j) d (d.endSwitch k j g)) ∧
  (∀ (k : Nat) (d : Dev),
     k < 8 → d.modIs k Fld.MOD_STATUS_PRESENT = false →
     let beat := d.beat
     Completes (.moduleInsert k) d (
       let d := (d.wr (r1 .MOD_STATUS k) 0).modFlag k Fld.MOD_STATUS_PRESENT true
       (d.setF (r1 .MOD_CTRL k) Fld.MOD_CTRL_RELEASE 0).updMod k fun _ => { insertedAt := some beat })) ∧
  (∀ (k : Nat) (code : Option Nat) (d : Dev),
     k < 8 →
     ∀ t, (d.modSt k).insertedAt = some t →
     t + 10000000 ≤ d.beat → (d.modSt k).resetHigh = false →
     Completes (.moduleResetRelease k code) d (
       let d := (d.updMod k fun m => { m with resetHigh := true }).emit (.i2c k 0x01 true [])
       match code with
       | some c => d.startModule k c
       | none => d.inc (r0 .LANT_ERR) Fld.LANT_ERR_I2C_NACK)) ∧
  (∀ (k : Nat) (biasMax : List Nat) (d : Dev),
     k < 8 → (d.modSt k).lasersOn = true → d.modIs k Fld.MOD_STATUS_READY = false →
     Completes (.moduleReady k biasMax) d ((d.updMod k fun m => { m with biasMax := biasMax }).useModule k)) ∧
  (∀ (k : Nat) (low : Bool) (d : Dev),
     k < 8 →
     let since := if low then some ((d.modSt k).reqSince.getD d.beat) else none
     Completes (.moduleReleaseReq k low) d
       (((d.modFlag k Fld.MOD_STATUS_REQ low).updMod k fun m => { m with reqSince := since }).heldRequest k)) ∧
  (∀ (k : Nat) (v : W32) (d : Dev),
     k < 8 →
     d.reaches (r1 .MOD_CTRL k).addr = true →
     Fld.MOD_CTRL_RELEASE.get v = 1 →
     Completes (.modRelease k v) d (d.releaseModule k)) ∧
  (∀ (k : Nat) (d : Dev),
     k < 8 → (d.modSt k).releaseAt.isSome = true → (d.modSt k).lateLight = false →
     Completes (.moduleDark k) d (d.modFlag k Fld.MOD_STATUS_OK true)) ∧
  (∀ (k : Nat) (d : Dev),
     k < 8 →
     ∀ t, (d.modSt k).releaseAt = some t →
     t + 150000 ≤ d.beat → d.modIs k Fld.MOD_STATUS_OK = false → (d.modSt k).lateLight = false →
     Completes (.moduleReleaseTimeout k) d
       (((d.updMod k fun m => { m with lateLight := true }).modFlag k Fld.MOD_STATUS_FAULT true).raise (78 + k))) ∧
  (∀ (k : Nat) (d : Dev),
     k < 8 → d.modIs k Fld.MOD_STATUS_PRESENT = true →
     let ok := d.modIs k Fld.MOD_STATUS_OK
     Completes (.unplannedRemoval k) d (
       let d := if ok then d else (d.dropModule k).inc (r1 .MOD_EVT k) Fld.MOD_EVT_UNPLANNED
       (((d.modFlag k Fld.MOD_STATUS_PRESENT false).modFlag k Fld.MOD_STATUS_REQ false).modFlag k Fld.MOD_STATUS_OK false).updMod k
         fun _ => {})) ∧
  (∀ (v : W32) (d : Dev),
     d.reaches (r0 .LANT_I2C).addr = true →
     Completes (.i2cTransfer v) d (d.writeI2c v)) ∧
  (∀ (ack : Bool) (data : W32) (d : Dev),
     let r := r0 .LANT_I2C
     d.flag r Fld.LANT_I2C_GO = true →
     Completes (.i2cDone ack data) d (d.endI2c ack data)) ∧
  (∀ (k : Nat) (d : Dev),
     k < 8 → d.modIs k Fld.MOD_STATUS_PRESENT = true →
     Completes (.moduleFault k) d ((d.modFlag k Fld.MOD_STATUS_FAULT true).raise (78 + k)))

/-- Yard link codewords, channel messages and channel events complete: codewords, the control messages of a link, channel training and
drops, the failure of a link, its retraining. Each answers a next state, whose device is the one that its rule gives (R259, R261, R263,
R264). -/
def Obligations.YardLinkEventsComplete : Prop :=
  (∀ (l k : Nat) (levels : List Nat) (flits : List Flit) (d : Dev),
     okChannel l k = true → d.ylinkOn l = true → d.inReset (gateOf l) = false → bitOf (d.ylink l).good k = true →
     d.levelsAre l k levels flits = true →
     Completes (.codewordReceive l k levels flits) d (d.codeword l k levels flits)) ∧
  (∀ (l : Nat) (msg : W128) (d : Dev),
     l < 32 → msgBits msg 7 0 = 1 → d.ylinkOn l = true → d.inReset (gateOf l) = false →
     Completes (.yardAck l msg) d (d.yardMsg l msg)) ∧
  (∀ (l : Nat) (msg : W128) (d : Dev),
     l < 32 → msgBits msg 7 0 = 2 → d.ylinkOn l = true → d.inReset (gateOf l) = false →
     Completes (.yardNack l msg) d (d.yardMsg l msg)) ∧
  (∀ (l : Nat) (msg : W128) (d : Dev),
     l < 32 → msgBits msg 7 0 = 3 → d.ylinkOn l = true → d.inReset (gateOf l) = false →
     Completes (.yardCredit l msg) d (d.yardMsg l msg)) ∧
  (∀ (l : Nat) (msg : W128) (d : Dev),
     l < 32 → msgBits msg 7 0 = 4 → d.ylinkOn l = true → d.inReset (gateOf l) = false →
     Completes (.chMap l msg) d (d.yardMsg l msg)) ∧
  (∀ (l : Nat) (msg : W128) (d : Dev),
     l < 32 → msgBits msg 7 0 = 5 → d.ylinkOn l = true → d.inReset (gateOf l) = false →
     Completes (.chMapAck l msg) d (d.yardMsg l msg)) ∧
  (∀ (l : Nat) (msg : W128) (d : Dev),
     l < 32 → msgBits msg 7 0 = 6 → d.ylinkOn l = true → d.inReset (gateOf l) = false →
     Completes (.chReq l msg) d (d.yardMsg l msg)) ∧
  (∀ (l k : Nat) (found : Bool) (errors : Nat) (d : Dev),
     okChannel l k = true →
     ∀ t, (d.ylink l).training.get (fun _ => none) k = some t →
     t + 4000 ≤ d.beat →
     Completes (.channelTrain l k found errors) d (d.trainChannel l k (found && decide (errors ≤ 4)))) ∧
  (∀ (l k : Nat) (dark : Bool) (d : Dev),
     okChannel l k = true → bitOf (d.ylink l).good k = true → (dark || d.failsOften l k) = true →
     Completes (.channelDrop l k dark) d (d.dropChannel l k)) ∧
  (∀ (l k : Nat) (d : Dev),
     okChannel l k = true →
     ∀ t, ((d.ylink l).retry.get (fun _ => none) k) = some t →
     t + 100000 ≤ d.beat → d.ylinkOn l = true →
     Completes (.channelRetry l k) d ((d.updYlink l fun y => y.train (2 ^ k) d.beat).refreshYlink l)) ∧
  (∀ (l : Nat) (d : Dev),
     l < 32 →
     ∀ t, (d.ylink l).zeroSince = some t →
     t + (d.rd (r0 .LANE_LINKDOWN)).toNat ≤ d.beat → d.ylinkStatus l Fld.YLINK_STATUS_FAILED = 0 →
     Completes (.ylinkFail l) d (((d.setYlinkStatus l Fld.YLINK_STATUS_FAILED 1).refreshYlink l).raise (86 + l))) ∧
  (∀ (l : Nat) (v : W32) (d : Dev),
     l < 32 →
     d.reaches (r1 .YLINK_CTRL l).addr = true →
     d.yardBounds (r1 .YLINK_CTRL l) v = false →
     Completes (.ylinkRetrain l v) d (d.writeYlinkCtrl l v))

/-- Yard membership messages and events complete: identities, heartbeats, joins, leaves, resets and drains, and what the member sends and
decides. Each answers a next state, whose device is the one that its rule gives (R266, R268, R270, R271, R272, R276, R277, R278, R284). -/
def Obligations.YardMembershipComplete : Prop :=
  (∀ (l : Nat) (msg : W128) (d : Dev),
     l < 32 → msgBits msg 7 0 = 7 → d.ylinkOn l = true → d.inReset (gateOf l) = false →
     Completes (.ident l msg) d (d.yardMsg l msg)) ∧
  (∀ (l : Nat) (msg : W128) (d : Dev),
     l < 32 → msgBits msg 7 0 = 8 → d.ylinkOn l = true → d.inReset (gateOf l) = false →
     Completes (.heartbeat l msg) d (d.yardMsg l msg)) ∧
  (∀ (l : Nat) (msg : W128) (d : Dev),
     l < 32 → msgBits msg 7 0 = 9 → d.ylinkOn l = true → d.inReset (gateOf l) = false →
     Completes (.join l msg) d (d.yardMsg l msg)) ∧
  (∀ (l : Nat) (msg : W128) (d : Dev),
     l < 32 → msgBits msg 7 0 = 10 → d.ylinkOn l = true → d.inReset (gateOf l) = false →
     Completes (.leave l msg) d (d.yardMsg l msg)) ∧
  (∀ (p l : Nat) (msg : W128) (d : Dev),
     p < 32 → l ≤ 32 → msgBits msg 7 0 = 11 → d.inReset p = false →
     Completes (.resetNotice p l msg) d (
       if msgGood msg then (if l < 32 ∧ gateOf l = p then (if d.ylinkHeld l then d else d.yardNotice l msg) else d.resetNotice p msg)
       else if l < 32 then d.inc (r1 .YLINK_STATUS l) Fld.YLINK_STATUS_BAD_CTL else d)) ∧
  (∀ (l : Nat) (msg : W128) (d : Dev),
     l < 32 → msgBits msg 7 0 = 12 → d.ylinkOn l = true → d.inReset (gateOf l) = false →
     Completes (.drainReq l msg) d (d.yardMsg l msg)) ∧
  (∀ (l : Nat) (msg : W128) (d : Dev),
     l < 32 → msgBits msg 7 0 = 13 → d.ylinkOn l = true → d.inReset (gateOf l) = false →
     Completes (.drained l msg) d (d.yardMsg l msg)) ∧
  (∀ (d : Dev),
     1 ≤ d.yardState → lapsed d.yard.lastIdent 1000 d.beat = true →
     Completes (.identSend) d (d.sendIdents)) ∧
  (∀ (d : Dev),
     d.hasMaster = true → 2 ≤ d.yardState → lapsed d.yard.lastHeart (d.getF (r0 .YARD_HB) Fld.YARD_HB_HB_PERIOD) d.beat = true →
     Completes (.heartbeatSend) d (d.sendHeartbeats)) ∧
  (∀ (d : Dev),
     ∀ t, d.yard.since = some t →
     let first := d.peers.all fun p => p.state == 0 && decide (d.self < p.member)
     d.yardState = 1 → t + (d.rd (r0 .YARD_JOIN)).toNat ≤ d.beat → first = true →
     Completes (.joinWaitExpire) d (d.armLoad (d.nextSync * 2 ^ 20))) ∧
  ((∀ (jb : Nat) (d : Dev),
     d.self < 16 → d.yard.joins.get (fun _ => none) d.self = some jb → jb ≤ d.beat → d.yardState = 2 →
     Completes (.joinBeat d.self) d (d.joinSelf d.self)) ∧
   ∀ (m jb : Nat) (d : Dev),
     m < 16 → m ≠ d.self → d.yard.joins.get (fun _ => none) m = some jb → jb ≤ d.beat → d.yardState = 3 →
     Completes (.joinBeat m) d (d.joinOther m)) ∧
  (∀ (m : Nat) (d : Dev),
     m < 16 →
     let t := (d.yard.heard.get (fun _ => none) m).getD 0
     m ≠ d.self → bitOf d.members m = true → t + d.getF (r0 .YARD_HB) Fld.YARD_HB_HB_LOSS * 1000 ≤ d.beat →
     Completes (.memberLoss m) d (d.memberLeaves m)) ∧
  (∀ (v : W32) (d : Dev),
     d.reaches (r0 .YARD_CTRL).addr = true →
     d.yardBounds (r0 .YARD_CTRL) v = false →
     Completes (.yardLeave v) d (d.writeYardCtrl v)) ∧
  (∀ (m : Nat) (d : Dev),
     m < 16 → m ≠ d.self → (d.yard.moves.get (fun _ => none) m).isNone = true →
     Completes (.flowMove m) d (d.flowMove m)) ∧
  (∀ (l : Nat) (pkt : Packet) (d : Dev),
     l < 32 → isReply pkt = false → d.inReset (gateOf l) = false →
     Completes (.gateRequest l pkt) d (d.gateTake l pkt)) ∧
  (∀ (l slot : Nat) (d : Dev),
     l < 32 → slot < 64 → d.ysched = true → d.streamsRun l = true →
     d.beat % 128 = 2 * slot → d.slotStream l slot ≠ 0 → (d.ylink l).slotAt ≠ some d.beat →
     Completes (.ystreamSlot l slot) d (d.sendStream l (d.slotStream l slot))) ∧
  (∀ (g : Nat) (v : W32) (d : Dev),
     g < 256 →
     d.reaches (r1 .MCAST_GROUP g).addr = true →
     d.yardBounds (r1 .MCAST_GROUP g) v = false →
     Completes (.mcastGroupWrite g v) d (d.store (r1 .MCAST_GROUP g) v))

/-- Management requests and session commands of the generation service complete: the six management requests, doorbells, and each command
that a session posts. Each answers a next state, whose device is the one that its rule gives (R56, R300, R303, R309, R342, R344, R348,
R354, R412). -/
def Obligations.ManagementRequestsAndDoorbellsComplete : Prop :=
  (∀ (qp : Nat) (msg : List Byte) (d : Dev),
     qp < 4096 → isRequest 1 msg = true → d.qpUp qp = true →
     Completes (.query qp msg) d (d.received qp msg)) ∧
  (∀ (qp : Nat) (msg : List Byte) (d : Dev),
     qp < 4096 → isRequest 2 msg = true → d.qpUp qp = true →
     Completes (.loadAct qp msg) d (d.received qp msg)) ∧
  (∀ (qp : Nat) (msg : List Byte) (d : Dev),
     qp < 4096 → isRequest 3 msg = true → d.qpUp qp = true →
     Completes (.startAct qp msg) d (d.received qp msg)) ∧
  (∀ (qp : Nat) (msg : List Byte) (d : Dev),
     qp < 4096 → isRequest 4 msg = true → d.qpUp qp = true →
     Completes (.stopAct qp msg) d (d.received qp msg)) ∧
  (∀ (qp : Nat) (msg : List Byte) (d : Dev),
     qp < 4096 → isRequest 5 msg = true → d.qpUp qp = true →
     Completes (.sessionOpen qp msg) d (d.received qp msg)) ∧
  (∀ (qp : Nat) (msg : List Byte) (d : Dev),
     qp < 4096 → isRequest 6 msg = true → d.qpUp qp = true →
     Completes (.sessionClose qp msg) d (d.received qp msg)) ∧
  (∀ (qp : Nat) (imm : W32) (d : Dev),
     qp < 4096 → d.qpUp qp = true →
     ∀ v, d.svc = some v →
     Completes (.doorbell qp imm) d (d.startOp qp v.area 0 (some []) (some imm))) ∧
  (∀ (sess : Nat) (v : Svc) (k : Session) (d : Dev),
     sess < 16 → d.svc = some v → v.session sess = some k →
     let c := d.nextEntry v sess k
     v.busy = none → d.nextSession v = some sess →
     (cCode c = 1 ∨ 8 < cCode c ∨ cCode c = 0) →
     Completes (.svcNop sess) d (
       let d := d.consume sess k
       if d.entryOk c then d.finishCmd c stOk 0
       else if cCode c = 1 then d.finishCmd c stMalformed 0
       else
         let (bs, d) := d.freeBytes 8
         d.finishCmd c stMalformed (fieldLE bs 0 8))) ∧
  (∀ (sess : Nat) (v : Svc) (k : Session) (d : Dev),
     sess < 16 → d.svc = some v → v.session sess = some k →
     let c := d.nextEntry v sess k
     v.busy = none → d.nextSession v = some sess →
     cCode c = 2 → (d.consume sess k).entryOk c = true →
     Completes (.svcOpen sess) d (
       let d := d.consume sess k
       d.readTokens c Dev.openSeq)) ∧
  (∀ (sess : Nat) (v : Svc) (k : Session) (d : Dev),
     sess < 16 → d.svc = some v → v.session sess = some k →
     let c := d.nextEntry v sess k
     v.busy = none → d.nextSession v = some sess →
     cCode c = 3 → (d.consume sess k).entryOk c = true →
     Completes (.svcAppend sess) d (
       let d := d.consume sess k
       d.readTokens c Dev.appendSeq)) ∧
  (∀ (sess : Nat) (v : Svc) (k : Session) (d : Dev),
     sess < 16 → d.svc = some v → v.session sess = some k →
     let c := d.nextEntry v sess k
     v.busy = none → d.nextSession v = some sess →
     cCode c = 4 → (d.consume sess k).entryOk c = true →
     Completes (.svcCancel sess) d (
       let d := d.consume sess k
       d.cancelCmd c false)) ∧
  (∀ (sess : Nat) (v : Svc) (k : Session) (d : Dev),
     sess < 16 → d.svc = some v → v.session sess = some k →
     let c := d.nextEntry v sess k
     v.busy = none → d.nextSession v = some sess →
     cCode c = 5 → (d.consume sess k).entryOk c = true →
     Completes (.svcClose sess) d (
       let d := d.consume sess k
       d.cancelCmd c true)) ∧
  (∀ (sess : Nat) (far : List Byte) (v : Svc) (k : Session) (d : Dev),
     sess < 16 → d.svc = some v → v.session sess = some k →
     let c := d.nextEntry v sess k
     v.busy = none → d.nextSession v = some sess →
     cCode c = 6 → (d.consume sess k).entryOk c = true →
     Completes (.loadWeights sess far) d (
       let d := d.consume sess k
       d.loadWeightsCmd c far)) ∧
  (∀ (sess : Nat) (v : Svc) (k : Session) (d : Dev),
     sess < 16 → d.svc = some v → v.session sess = some k →
     let c := d.nextEntry v sess k
     v.busy = none → d.nextSession v = some sess →
     cCode c = 7 → (d.consume sess k).entryOk c = true →
     Completes (.readStatus sess) d (
       let d := d.consume sess k
       d.readStatusCmd sess c)) ∧
  (∀ (sess : Nat) (v : Svc) (k : Session) (d : Dev),
     sess < 16 → d.svc = some v → v.session sess = some k →
     let c := d.nextEntry v sess k
     v.busy = none → d.nextSession v = some sess →
     cCode c = 8 → (d.consume sess k).entryOk c = true →
     Completes (.adopt sess) d (
       let d := d.consume sess k
       d.adoptCmd sess c))

/-- Generation rounds, prefill chunks and recoveries of the service complete: a decode round, a prefill chunk, reloads, recopies, KV
losses, relayouts, lead moves, lost sessions and expired holds. Each answers a next state, whose device is the one that its rule gives
(R301, R305, R306, R326, R327, R353, R354, R488). -/
def Obligations.GenerationRoundsComplete : Prop :=
  (∀ (outs : List RoundOut) (fault : RoundFault) (beats : Nat) (d : Dev),
     ∀ v, d.svc = some v →
     let adm := d.admitted v
     d.canRound = true → d.chunkDue' v = false → adm.isEmpty = false → outs.map (·.seq) = adm → d.outsFit v outs = true →
     Completes (.decodeRound outs fault beats) d (d.runRound v outs fault beats)) ∧
  (∀ (i : Nat) (d : Dev),
     i < 256 →
     ∀ v, d.svc = some v →
     d.canRound = true → v.prefilling = some i → ((d.admitted v).isEmpty || d.chunkDue' v) = true →
     Completes (.prefillChunk i) d ((d.prefillChunk v i).settleAll.serviceYield)) ∧
  (∀ (b x : Nat) (d : Dev),
     okSite b x = true →
     ∀ v t, d.svc = some v → (d.tile b x).logical = some t →
     bitOf d.barnsIn b = true →
     let mine (e : WEntry) : Bool := e.barn == b && e.tile == t
     let has := v.loaded && d.wEntries.any mine
     Completes (.loftLossReload b x) d (
       let d := if has then (d.fillSlices mine).stat 0x48 1 else d
       d.rebuild fun k u => k == b && u == t)) ∧
  (∀ (n : Nat) (d : Dev),
     n < 20 →
     ∀ v, d.svc = some v →
     v.loaded = true → d.flag (r1 .HBM_STATUS n) Fld.HBM_STATUS_RETIRED = true →
     Completes (.masterRecopy n) d ((List.range (d.hdr hENTRIES)).foldl (fun d i => d.recopyEntry n i) d)) ∧
  (∀ (n : Nat) (d : Dev),
     n < 20 →
     ∀ v, d.svc = some v →
     v.kvStacks.contains n = true → d.stackIn n = false →
     Completes (.kvLoss n) d (d.loseStackKv v)) ∧
  (∀ (d : Dev),
     ∀ v, d.svc = some v →
     3 ≤ d.level → v.layoutBarns ≠ d.barnsIn →
     Completes (.relayout) d (d.relayout v)) ∧
  (∀ (d : Dev),
     ∀ v a i, d.svc = some v → d.act = some a → d.firstLead = some i →
     let here := (nth d.serviceTiles v.lead (0, 0)).1
     d.hasMaster = true → bitOf d.barnsIn here = false → i ≠ v.lead →
     Completes (.leadMove) d (d.moveLead v a i)) ∧
  (∀ (sess : Nat) (d : Dev),
     sess < 16 →
     ∀ k, (d.svc.bind fun v => v.session sess) = some k →
     let idle := match d.qp k.qp with
       | some q => !q.up || decide (q.heard + (d.rd (r0 .ETH_LEASE)).toNat ≤ d.beat)
       | none => true
     idle = true →
     let hold := d.getF (r0 .ETH_ADOPT) Fld.ETH_ADOPT_ADOPT_HOLD * 1000000
     Completes (.sessionLost sess) d (((d.dropSession sess k (some hold)).qpError k.qp).setQp k.qp none |>.inc
       (r0 .ETH_SESSION_LOST) Fld.ETH_SESSION_LOST_LOST)) ∧
  (∀ (i : Nat) (d : Dev),
     i < 256 →
     ∀ v, d.svc = some v →
     let e := v.seq i
     e.state = 3 → e.owner.isNone = true → e.adoptBy ≤ d.beat →
     Completes (.adoptHoldExpire i) d (d.freeSeq i))

/-- Ethernet frames, flow control, congestion control and connections complete: frames, link changes, pauses, congestion marks and rates,
RDMA messages, connection management, timeouts. Each answers a next state, whose device is the one that its rule gives (R331, R334,
R335, R336, R337, R338, R349, R415). -/
def Obligations.EthernetEventsComplete : Prop :=
  (∀ (p : Nat) (frame : EthFrame) (d : Dev),
     p < 4 → d.portUp p = true →
     Completes (.ethFrameRx p frame) d (
       let d := d.addPair (r1 .ETH_RX_FRAMES_LO p) (r1 .ETH_RX_FRAMES_HI p) 1
       let d := d.addF (r1 .ETH_FEC_CORR p) Fld.ETH_FEC_CORR_CNT frame.corr
       (d.addF (r1 .ETH_FEC_UNCORR p) Fld.ETH_FEC_UNCORR_CNT frame.uncorr).frame p frame)) ∧
  (∀ (p : Nat) (up : Bool) (d : Dev),
     p < 4 →
     let due := decide ((d.ethSt p).triedAt + 100000000 ≤ d.beat)
     d.ethF p Fld.ETH_CTRL_ENABLE = 1 → d.ethStatus p Fld.ETH_STATUS_LINK_UP = 0 → due = true →
     Completes (.ethLinkRetry p up) d (
       let d := d.updEth p fun e => { e with triedAt := d.beat }
       if up then d.setLink p true else d)) ∧
  (∀ (p : Nat) (pauses : List (Nat × Nat)) (d : Dev),
     (decide (p < 4) && pauses.all fun e => decide (e.1 < 8) && decide (e.2 < 65536)) = true → d.portUp p = true →
     Completes (.pfcFrame p pauses) d (
       let d := d.addPair (r1 .ETH_RX_FRAMES_LO p) (r1 .ETH_RX_FRAMES_HI p) 1
       pauses.foldl (fun d e => d.pause p e.1 e.2) (d.inc (r1 .ETH_PFC_CNT p) Fld.ETH_PFC_CNT_PFC_RX))) ∧
  (∀ (p kb : Nat) (d : Dev),
     p < 4 → kb ≤ 2048 → d.portUp p = true →
     Completes (.pfcXoff p kb) d (d.bufferLevel p kb)) ∧
  (∀ (p qp : Nat) (d : Dev),
     p < 4 → qp < 4096 → d.portUp p = true →
     Completes (.ceReceive p qp) d (d.ceFrame p qp)) ∧
  (∀ (qp : Nat) (d : Dev),
     qp < 4096 →
     ∀ q, d.qp qp = some q →
     d.qpUp qp = true →
     Completes (.cnpReceive qp) d ((d.inc (r1 .ETH_CNP_ICRC q.port) Fld.ETH_CNP_ICRC_CNP_RX).updQp qp fun q =>
       { q with rate := max 1 (q.rate / 2), rateAt := d.beat })) ∧
  (∀ (qp : Nat) (d : Dev),
     qp < 4096 →
     ∀ q, d.qp qp = some q →
     let line : Rat := (d.lineRate q.port : Nat)
     d.qpUp qp = true → q.rateAt + d.getF (r1 .ETH_CC q.port) Fld.ETH_CC_RECOVER ≤ d.beat →
     Completes (.rateRecover qp) d (d.updQp qp fun q => { q with rate := min line (q.rate + line / 20), rateAt := d.beat })) ∧
  (∀ (qp : Nat) (msg : List Byte) (d : Dev),
     qp < 4096 → d.qpUp qp = true →
     Completes (.send qp msg) d (
       if 256 < msg.length then d.invalidRequest qp
       else d.received qp msg)) ∧
  (∀ (qp va key : Nat) (data : List Byte) (imm : Option W32) (d : Dev),
     qp < 4096 → d.qpUp qp = true →
     Completes (.rdmaWrite qp va key data imm) d (
       match d.rdmaRefusal va key data.length true with
       | some st => d.rdmaRefuse qp st
       | none => d.startOp qp va data.length (some data) imm)) ∧
  (∀ (qp va key len : Nat) (d : Dev),
     qp < 4096 → d.qpUp qp = true →
     Completes (.rdmaRead qp va key len) d (
       if 16 ≤ (d.hostOps.filter fun o => o.qp == qp && o.data.isNone).length then d.invalidRequest qp
       else match d.rdmaRefusal va key len false with
       | some st => d.rdmaRefuse qp st
       | none => d.startOp qp va len none none)) ∧
  (∀ (qp : Nat) (ok : Bool) (data : List Byte) (d : Dev),
     qp < 4096 →
     ∀ r, (d.reads.find? fun r => r.1 == qp) = some r →
     d.qpUp qp = true → (!ok || data.length == r.2.bytes) = true →
     Completes (.rdmaReadResponse qp ok data) d (d.readAnswered qp ok data r)) ∧
  (∀ (p : Nat) (req : CmReq) (d : Dev),
     p < 4 → d.portUp p = true →
     Completes (.cmReq p req) d (d.connRequest p req)) ∧
  (∀ (qp : Nat) (d : Dev),
     qp < 4096 →
     ∀ q, d.qp qp = some q →
     d.portUp q.port = true →
     Completes (.cmDreq qp) d (
       let d := d.ethSend q.port (.cm q.v6 q.addr 3 (0x100000 + qp))
       if d.hasSession qp then d.qpError qp else (d.qpError qp).setQp qp none)) ∧
  (∀ (qp : Nat) (d : Dev),
     qp < 4096 →
     ∀ q, d.qp qp = some q →
     ∀ m, q.last = some m →
     q.up = true → q.sentAt + ackBeats ≤ d.beat →
     Completes (.ackTimeout qp) d (d.resend qp q m)) ∧
  (∀ (p : Nat) (v : W32) (d : Dev),
     p < 4 →
     d.reaches (r1 .ETH_CTRL p).addr = true →
     d.ethBad (r1 .ETH_CTRL p) v = false →
     Completes (.ethEnable p v) d (d.writeEth (r1 .ETH_CTRL p) v)) ∧
  (∀ (p : Nat) (up : Bool) (d : Dev),
     p < 4 →
     let is := d.ethStatus p Fld.ETH_STATUS_LINK_UP == 1
     up ≠ is → (!up || d.ethF p Fld.ETH_CTRL_ENABLE == 1) = true →
     Completes (.linkUpChange p up) d (d.setLink p up))

/-- Calibration passes, commits and field records complete: start, abort and commit, the ends of the passes, the change of the pairs in
force, the field record. Each answers a next state, whose device is the one that its rule gives (R378, R380, R381, R402). -/
def Obligations.CalibrationCommandsComplete : Prop :=
  (∀ (v : W32) (calref : Nat) (d : Dev),
     (d.noteCalref calref).reaches (r0 .CAL_CTRL).addr = true →
     Completes (.calStart v calref) d ((d.noteCalref calref).writeCalCtrl v)) ∧
  (∀ (results : List CalPair) (d : Dev),
     d.cal.due ≤ d.beat →
     Completes (.calPassEnd results) d (d.calPass results)) ∧
  (∀ (v : W32) (d : Dev),
     d.reaches (r0 .CAL_CTRL).addr = true →
     Completes (.calAbort v) d (d.writeCalCtrl v)) ∧
  (∀ (v : W32) (d : Dev),
     d.reaches (r0 .CAL_CTRL).addr = true →
     Completes (.calCommit v) d (d.writeCalCtrl v)) ∧
  (∀ (d : Dev),
     let c := d.pair (r0 .CAL_APPLY_LO) (r0 .CAL_APPLY_HI)
     d.calState = 6 → c ≤ d.beat →
     Completes (.calApply) d (d.applyCal c)) ∧
  (∀ (d : Dev),
     d.hasMaster = true → d.cal.recordDue = true → d.flag (r0 .TACK_STATUS) Fld.TACK_STATUS_ID_READY = true →
       d.flag (r0 .TACK_STATUS) Fld.TACK_STATUS_ZEROISED = false →
     Completes (.fieldRecordWrite) d (d.writeFieldRecord))

/-- The phases of the start complete: the package reset and its supply, secure boot, the configuration records, phases 3 and 4, the test
and entry of barns. Each answers a next state, whose device is the one that its rule gives (R384, R387, R388, R389, R390, R391, R403,
R405, R408, R468, R469). -/
def Obligations.StartPhasesComplete : Prop :=
  (∀ (d : Dev),
     d.start.out = false →
     Completes (.pkgResetRise) d ((fixedRails.foldl (fun d r => d.setTarget r (nominalMv r)) d).updStart fun t => { t with out := true })) ∧
  (∀ (d : Dev),
     d.start.out = true →
     Completes (.pkgResetFall) d (Dev.powerDown d)) ∧
  (∀ (removed : Bool) (d : Dev),
     Completes (.vauxLoss removed) d (
       let d := if d.start.out then d.powerDown else d
       if removed then (d.setTack Fld.TACK_STATUS_ZEROISED 0).updStart fun t => { t with pufSpent := false } else d)) ∧
  (∀ (s0 s1 : SlotImage) (d : Dev),
     d.phase = 1 → d.tackFlag Fld.TACK_STATUS_BOOT_HALT = false →
     Completes (.secureBoot s0 s1) d (d.secureBoot s0 s1)) ∧
  (∀ (d : Dev),
     ∀ i, d.start.image = some i →
     d.phase = 2 → d.start.begun = false →
     Completes (.configApply) d (d.beginConfig i)) ∧
  (∀ (d : Dev),
     d.cfgTurn 1 = true →
     Completes (.cfgWrite) d ((d.busWrite d.cfgRecord.addr (BitVec.ofNat 32 d.cfgRecord.value)).cfgNext)) ∧
  (∀ (d : Dev),
     d.cfgTurn 2 = true →
     let c := d.cfgRecord
     Completes (.cfgWriteCheck) d (
       let d := (d.busWrite c.addr (BitVec.ofNat 32 c.value)).busRead c.addr
       if cfgMatches c d.busData then d.cfgNext else d.cfgFail)) ∧
  (∀ (d : Dev),
     d.cfgTurn 3 = true →
     let since := d.start.recordSince.getD d.beat
     Completes (.cfgWait) d (if since + d.cfgRecord.timeout ≤ d.beat then d.cfgNext
       else d.updStart fun t => { t with recordSince := some since })) ∧
  (∀ (d : Dev),
     d.cfgTurn 4 = true →
     let c := d.cfgRecord
     let since := d.start.recordSince.getD d.beat
     Completes (.cfgPoll) d (
       let d := d.busRead c.addr
       if cfgMatches c d.busData then d.cfgNext
       else if since + c.timeout ≤ d.beat then d.cfgFail
       else d.updStart fun t => { t with recordSince := some since })) ∧
  (∀ (d : Dev),
     d.phase = 2 → d.configured = true →
     Completes (.phase3Start) d (d.beginPhase3)) ∧
  (∀ (d : Dev),
     d.phase = 3 → (decide (d.phaseBeat 3 + 15000000 ≤ d.beat) || d.trainedAll) = true →
     Completes (.phase3Timeout) d (Dev.endPhase3 d)) ∧
  (∀ (d : Dev),
     let alone := !d.flag (r0 .YARD_CTRL) Fld.YARD_CTRL_JOIN_EN
     let late := decide (d.phaseBeat 4 + 2 * (d.rd (r0 .YARD_JOIN)).toNat ≤ d.beat)
     d.phase = 4 → (alone || decide (2 ≤ d.yardState) || late) = true →
     Completes (.phase4End) d (d.setPhase 5)) ∧
  (∀ (b : Nat) (d : Dev),
     b < 8 →
     let before := (List.range b).all fun k => decide (2 ≤ d.stage k)
     5 ≤ d.phase → before = true → d.stage b = 0 → d.start.testing.isNone = true →
     Completes (.barnTest b) d (d.beginBarnTest b)) ∧
  (∀ (b : Nat) (res : BarnResult) (d : Dev),
     b < 8 →
     ∀ t k i, d.start.testing = some (t, k) → d.start.image = some i →
     k = b → d.stage b = 0 → t + 3000 ≤ d.beat →
     let e := d.edgeTest
     let fell := [2 * b, 2 * b + 1].any fun r => (e.pwr.railBeats.get (fun _ => []) r).any fun f => decide (t ≤ f)
     let f : BarnFindings := ⟨i.spares.filter fun e => e.barn == b, res⟩
     let par := buildTree fun x => !f.routerBad x
     let good := (List.range 768).filter fun x => !f.siteBad x && (treeParent par x).isSome && !f.noCoil x
     Completes (.barnTestDone b res) d (
       let d := e.addF (r0 .FAR_EVT) Fld.FAR_EVT_SIG_FAIL res.sites.length
       if fell || res.railFault || decide (good.length < 704) then (d.failBarn b).endPhase5
       else (d.mapBarn b f par good).setStage b 1)) ∧
  (∀ (b : Nat) (d : Dev),
     b < 8 →
     ∀ since k, d.start.testing = some (since, k) →
     k = b → d.stage b = 1 → d.hasMaster = true →
     Completes (.barnEntry b) d (d.barnEnters b))

/-- Tack room commands and TAP instructions complete: zeroising, signing, and each instruction of the test access port. Each answers a next
state, whose device is the one that its rule gives (R411, R414, R476). -/
def Obligations.TackRoomAndTapCommandsComplete : Prop :=
  (∀ (v : W32) (d : Dev),
     d.reaches (r0 .TACK_CTRL).addr = true →
     Fld.TACK_CTRL_ZEROISE.get v = 1 → Fld.TACK_CTRL_SIGN_GO.get v = 0 → Fld.TACK_CTRL_DOMAIN.get v < 2 →
     Completes (.zeroise v) d ((d.setF (r0 .TACK_CTRL) Fld.TACK_CTRL_DOMAIN (Fld.TACK_CTRL_DOMAIN.get v)).zeroise)) ∧
  (∀ (v : W32) (d : Dev),
     d.reaches (r0 .TACK_CTRL).addr = true →
     Fld.TACK_CTRL_SIGN_GO.get v = 1 → Fld.TACK_CTRL_ZEROISE.get v = 0 → Fld.TACK_CTRL_DOMAIN.get v < 2 →
       d.flag (r0 .TACK_SIGN_STATUS) Fld.TACK_SIGN_STATUS_BUSY = false →
     Completes (.signGo v) d ((d.setF (r0 .TACK_CTRL) Fld.TACK_CTRL_DOMAIN (Fld.TACK_CTRL_DOMAIN.get v)).signGo)) ∧
  (∀ (d : Dev),
     let st := r0 .TACK_SIGN_STATUS
     d.flag st Fld.TACK_SIGN_STATUS_BUSY = true →
     let sig := d.signature (d.getF (r0 .TACK_CTRL) Fld.TACK_CTRL_DOMAIN) d.signHash
     Completes (.signDone) d (
       let d := (List.range 16).foldl (fun d i => d.wr (r1 .TACK_SIGN_OUT i) (BitVec.ofNat 32 (fieldLE sig (4 * i) 4))) d
       let d := (d.setF st Fld.TACK_SIGN_STATUS_BUSY 0).setF st Fld.TACK_SIGN_STATUS_DONE 1
       (d.setF (r0 .TACK_CTRL) Fld.TACK_CTRL_SIGN_GO 0).updStart fun t => { t with signAt := none })) ∧
  (∀ (d : Dev),
     Completes (.extest) d (d.tapOpen 0x00)) ∧
  (∀ (d : Dev),
     Completes (.clamp) d (d.tapOpen 0x03)) ∧
  (∀ (d : Dev),
     Completes (.highz) d (d.tapOpen 0x04)) ∧
  (∀ (d : Dev),
     Completes (.intscan) d (d.tapOpen 0x20)) ∧
  (∀ (d : Dev),
     Completes (.flashAccess) d (if d.tackFlag Fld.TACK_STATUS_ZEROISED then d.tapOpen 0x21 else d.tapPlain 0xFF)) ∧
  (∀ (d : Dev),
     Completes (.idcode) d (d.tapPlain 0x01)) ∧
  (∀ (d : Dev),
     Completes (.samplePreload) d (d.tapPlain 0x02)) ∧
  (∀ (d : Dev),
     Completes (.bypass) d (d.tapPlain 0xFF))

/-- Events of the Ringmaster pair complete: divergence, kicks and watchdogs, restarts, swaps, updates and the loss of both. Each answers a
next state, whose device is the one that its rule gives (R419, R420, R421, R422, R423, R424, R426). -/
def Obligations.RingmasterPairEventsComplete : Prop :=
  (∀ (a b : Bool) (d : Dev),
     d.hasMaster = true → d.inStep = true →
     Completes (.divergence a b) d (d.rmDiverge a b)) ∧
  (∀ (v : W32) (d : Dev),
     d.reaches (r0 .RM_KICK).addr = true →
     Completes (.rmKick v) d (d.kick)) ∧
  (∀ (d : Dev),
     let limit := d.getF (r0 .RM_TIMING) Fld.RM_TIMING_WD_TIMEOUT * 1000
     d.hasMaster = true → d.rm.graceFrom.isNone = true → d.rm.kicked + limit ≤ d.beat →
     Completes (.watchdog) d (d.watchdogExpires)) ∧
  (∀ (d : Dev),
     ∀ g, d.rm.graceFrom = some g →
     d.hasMaster = true → g + d.getF (r0 .RM_TIMING) Fld.RM_TIMING_WD_GRACE * 1000 ≤ d.beat →
     Completes (.warmRestart) d (d.restartWarm)) ∧
  ((∀ (d : Dev),
     d.rmPaused = false → d.hasMaster = true → d.updating = false → d.rm.swap.isNone = true → d.rmState (otherRm d.active) = 2 →
     Completes (.rejoin) d (d.beginRejoin)) ∧
   ∀ (d : Dev),
     d.rmPaused = true →
     Completes (.rejoin) d (
       let d := d.endRejoin
       (Dev.resumeHeld d.busHeld d).answerWaiting)) ∧
  (∀ (nonce : W32) (d : Dev),
     d.hasMaster = true → d.rm.swap.isNone = true → d.swapDue = true →
     Completes (.carouselSwap nonce) d (d.trySwap nonce)) ∧
  (∀ (v : W32) (d : Dev),
     d.reaches (r0 .RM_CTRL).addr = true →
     Completes (.swapNow v) d (d.store (r0 .RM_CTRL) v)) ∧
  (∀ (v : W32) (d : Dev),
     d.reaches (r0 .RM_SWAP_CHECK).addr = true →
     Completes (.rmSwapCheck v) d (d.swapCheck v)) ∧
  (∀ (d : Dev),
     ∀ w, d.rm.swap = some w →
     w.beat + 1001 ≤ d.beat →
     Completes (.swapFail) d (
       let d := d.updRmSt fun r => { r with swap := none, returnAt := none }
       let d := ((d.inc (r0 .RM_EVT) Fld.RM_EVT_SWAP_FAIL).raise 320).setF (r0 .RM_CTRL) Fld.RM_CTRL_SWAP_NOW 0
       if w.update then d.revertUpdate else (d.passActive w.former).holdInReset (otherRm w.former) true)) ∧
  (∀ (nonce : W32) (d : Dev),
     ∀ t, d.rm.returnAt = some t →
     d.hasMaster = true → d.rm.swap.isNone = true → d.flag (r0 .RM_CTRL) Fld.RM_CTRL_SWITCHBACK = true → t ≤ d.beat →
     Completes (.switchback nonce) d ((d.updRmSt fun r => { r with returnAt := none }).trySwap nonce)) ∧
  (∀ (v : W32) (image : SlotImage) (d : Dev),
     d.reaches (r0 .RM_UPDATE).addr = true →
     Fld.RM_UPDATE_GO.get v = 1 → Fld.RM_UPDATE_ABORT.get v = 0 → d.updating = false →
     Completes (.updateGo v image) d (d.updRmSt fun r => { r with staged := some image }).updateGo) ∧
  (∀ (v : W32) (d : Dev),
     d.reaches (r0 .RM_UPDATE).addr = true →
     Fld.RM_UPDATE_GO.get v = 0 → Fld.RM_UPDATE_ABORT.get v = 1 →
     Completes (.updateAbort v) d (d.updateAbort)) ∧
  ((∀ (nonce : W32) (d : Dev),
     d.hasMaster = true → d.updateStep = 3 →
     Completes (.updateHandover true nonce) d (d.readHandoff) ∧ Completes (.updateHandover false nonce) d (d.setUpdate 0 3)) ∧
   ∀ (ok : Bool) (nonce : W32) (d : Dev),
     d.hasMaster = true → d.updateStep = 4 → d.beat % 2 ^ 20 = 0 → d.rm.goAt + 2 ^ 20 ≤ d.beat →
     Completes (.updateHandover ok nonce) d (d.handOver nonce)) ∧
  (∀ (d : Dev),
     let limit := d.getF (r0 .RM_CONFIRM) Fld.RM_CONFIRM_UPDATE_CONFIRM * 1000000
     d.hasMaster = true → d.updateStep = 6 → d.rm.goAt + limit ≤ d.beat →
     Completes (.updateConfirmEnd) d ((d.setUpdate 0 1).holdInReset d.rm.paused false)) ∧
  (∀ (d : Dev),
     d.rmState 1 = 3 → d.rmState 2 = 3 → d.rmF Fld.RM_STATUS_NO_MASTER = 0 →
     Completes (.noMaster) d (((d.setActive 0).setRm Fld.RM_STATUS_NO_MASTER 1).updRmSt fun r => { r with noMasterAt := some d.beat })) ∧
  (∀ (d : Dev),
     ∀ t, d.rm.noMasterAt = some t →
     d.flag (r0 .RM_STATUS) Fld.RM_STATUS_NO_MASTER = true → t + 1000000 ≤ d.beat →
     Completes (.noMasterEthDisable) d (
       (List.range 4).foldl (fun d p =>
         if d.ethF p Fld.ETH_CTRL_ENABLE = 1 then (d.setF (r1 .ETH_CTRL p) Fld.ETH_CTRL_ENABLE 0).portDown p else d) d))

/-- Farrier tests, remaps and barn exits and re-entries complete: a region test, the end of a forward, replaced schedules, barn exit and
re-entry. Each answers a next state, whose device is the one that its rule gives (R178, R428, R434, R438, R439). -/
def Obligations.FarrierAndReentryComplete : Prop :=
  ((∀ (r : Nat) (failed : List Nat) (d : Dev),
     (decide (r < 64) && failed.all fun x => decide (x < 768) && regionOf (r / 8) x == r) = true →
     d.flag (r0 .FAR_STATUS) Fld.FAR_STATUS_TEST_BUSY = false →
     d.farLast + d.getF (r0 .FAR_PERIOD) Fld.FAR_PERIOD_PERIOD * 2 ^ 20 ≤ d.beat →
     d.flag (r0 .FAR_CTRL) Fld.FAR_CTRL_INSVC_EN = true → r = d.farTests % 64 →
     Completes (.farrierRegionTest r failed) d (d.beginRegionTest r)) ∧
   ∀ (r : Nat) (failed : List Nat) (d : Dev),
     (decide (r < 64) && failed.all fun x => decide (x < 768) && regionOf (r / 8) x == r) = true →
     d.flag (r0 .FAR_STATUS) Fld.FAR_STATUS_TEST_BUSY = true → d.getF (r0 .FAR_STATUS) Fld.FAR_STATUS_REGION = r →
     Completes (.farrierRegionTest r failed) d (d.endRegionTest r failed)) ∧
  (∀ (b x : Nat) (d : Dev),
     okSite b x = true →
     ∀ c, (d.fwdSince.get (fun _ => none) (b * 768 + x)) = some c →
     d.hasMaster = true → c + 10000 ≤ d.beat →
     Completes (.remapForwardEnd b x) d (Dev.retireVacated
       { d.setF (r2 .RTR_FWD b x) Fld.RTR_FWD_EN 0 with fwdSince := d.fwdSince.set (fun _ => none) (b * 768 + x) none } b x)) ∧
  (∀ (b half : Nat) (ok : Bool) (d : Dev),
     b < 8 → half < 2 →
     let h := 2 * b + half
     ∀ a, d.act = some a →
     d.hasMaster = true → a.running = true → d.replaceDue.get (fun _ => false) h = true →
     Completes (.scheduleReplace b half ok) d (d.replaceSchedule b half a ok)) ∧
  (∀ (r : Nat) (d : Dev),
     r < 45 → d.hasMaster = true → d.railWorn r = true →
     Completes (.barnExit r) d (d.railExit r)) ∧
  (∀ (b : Nat) (d : Dev),
     b < 8 →
     let st := r0 .PWR_STATUS
     let may := d.hasMaster && !d.flag st Fld.PWR_STATUS_PKG_TRIP && !bitOf d.barred b
     may = true → bitOf (d.getF st Fld.PWR_STATUS_TRIPPED) b = true → d.barnCool b = true → 2 ≤ d.stage b →
     Completes (.barnReentry b) d ((d.setF st Fld.PWR_STATUS_TRIPPED (setBitNat (d.getF st Fld.PWR_STATUS_TRIPPED) b false)).setStage b 0))

/-- Trace, Barker and hang commands complete: lost records, trace modes, chunks, claims and completions, raised and cleared sources, hang
scans and snapshots. Each answers a next state, whose device is the one that its rule gives (R448, R449, R453, R456, R457, R460, R462). -/
def Obligations.ObservationCommandsComplete : Prop :=
  (∀ (b x : Nat) (d : Dev),
     okSite b x = true → d.traceMode b x ≠ 0 → d.siteRuns b x = true →
     Completes (.lostRecord b x) d (d.updTile b x fun t => t.flushLost (boolNat d.inHoldover))) ∧
  (∀ (b x : Nat) (v : W32) (d : Dev),
     okSite b x = true →
     d.reaches (r2 .TRC_TILE_CTRL b x).addr = true →
     Completes (.trcModeWrite b x v) d (d.writeTraceCtrl b x v)) ∧
  (∀ (b x : Nat) (d : Dev),
     okSite b x = true →
     let p := d.chunkPacket b x
     d.chunkDue b x = true → d.hasCredits b x p = true →
     Completes (.chunkSend b x) d (d.sendChunk b x)) ∧
  (∀ (v : W32) (d : Dev),
     d.reaches (r0 .BRK_CLAIM).addr = true →
     Completes (.brkClaim v) d (d.claim)) ∧
  (∀ (v : W32) (d : Dev),
     d.reaches (r0 .BRK_COMPLETE).addr = true →
     Completes (.brkComplete v) d (d.complete v.toNat)) ∧
  (∀ (w : Nat) (v : W32) (d : Dev),
     w < 16 →
     d.reaches (r1 .BRK_SET w).addr = true →
     Completes (.brkSet w v) d (d.raiseWord w v)) ∧
  (∀ (w : Nat) (v sets : W32) (d : Dev),
     w < 16 →
     d.reaches (r1 .BRK_PENDING w).addr = true →
     Completes (.brkPendingClear w v sets) d
       (((List.range 32).filter (bitOf sets.toNat)).foldl (fun d k => d.raise (32 * w + k)) (d.store (r1 .BRK_PENDING w) v))) ∧
  (∀ (d : Dev),
     d.flag (r0 .TRC_HANG_CTRL) Fld.TRC_HANG_CTRL_EN = true → d.hangLast + 65536 ≤ d.beat →
     let sites := ((List.range 8).filter (bitOf d.barnsIn)).flatMap fun b => (List.range 768).map fun x => (b, x)
     let hung := sites.filter fun p => d.siteRuns p.1 p.2 && d.hangs p.1 p.2
     Completes (.hangScan) d ({ hung.foldl (fun d p => d.flagHang p.1 p.2) d with hangLast := d.beat })) ∧
  (∀ (d : Dev),
     d.hasMaster = true →
     Completes (.hangSnapshot) d (d.takeSnapshot))
end

