-- ==== Sys2Proof/Laws/Coding.lean ====
section
/-! SUPPORT. Laws of the codes of Machine/Coding.lean: zeros are a codeword, and are decoded as themselves. -/

namespace Sys2Proof.Machine

/-- Zero times anything is zero. -/
theorem gfMul_zero (b : Nat) : gfMul 0 b = 0 := by
  have step (l : List Nat) :
      l.foldl (fun (s : Nat × Nat) i => (if bitOf b i then Nat.xor s.1 s.2 else s.1, gfX s.2)) (0, 0) = (0, 0) := by
    induction l with
    | nil => rfl
    | cons i l ih =>
      rw [List.foldl_cons]
      have h : (if bitOf b i then Nat.xor 0 0 else 0) = 0 := by cases bitOf b i <;> rfl
      simp only [h]
      exact ih
  simp only [gfMul, step]

/-- The syndromes of zeros are zeros. -/
theorem rsSyndromes_zeros (n : Nat) : rsSyndromes (List.replicate n 0) = List.replicate 30 0 := by
  have horner (a n : Nat) : (List.replicate n 0).foldl (fun s c => Nat.xor (gfMul s a) c) 0 = 0 := by
    induction n with
    | zero => rfl
    | succ n ih =>
      rw [List.replicate_succ, List.foldl_cons, gfMul_zero]
      exact ih
  simp only [rsSyndromes, horner]
  rfl

/-- Zeros are a codeword. -/
theorem rsDecode_zeros (n : Nat) : rsDecode (List.replicate n 0) = some (List.replicate n 0, 0) := by
  simp [rsDecode, rsSyndromes_zeros]

/-- What a receiver finds in levels whose symbols are decoded. -/
theorem codewordData_of (st n : Nat) (levels c : List Nat) (h : rsDecode (natSymbols (pamBits levels) 544) = some (c, n)) :
    (codewordData st levels).1 = some ((descramble st (symbolsNat (c.take 514)) 5140).1, n) := by
  rw [codewordData, h, codewordOut]

/-- Levels are those of flits where what is decoded from them is. -/
theorem Dev.levelsAre_of (d : Dev) (l k n st : Nat) (levels c : List Nat) (flits : List Flit)
    (hd : (d.ylink l).descr.get (fun _ => 0) k = st) (h : rsDecode (natSymbols (pamBits levels) 544) = some (c, n))
    (hf : flitsAre (descramble st (symbolsNat (c.take 514)) 5140).1 flits = true) : d.levelsAre l k levels flits = true := by
  rw [Dev.levelsAre, hd, codewordData_of st n levels c h, Option.all_some, hf]

end Sys2Proof.Machine
end

