-- ==== Sys2Proof/Laws/Fields.lean ====
section
/-! SUPPORT. Laws of register fields: what a field reads as after a put into it or into another field. -/

namespace Sys2Proof.Machine

/-- The field lies within the 32 bits of a register. -/
abbrev Field.fits (f : Field) : Prop := f.lo + f.width ≤ 32

/-- The fields share no bit. -/
abbrev Field.apart (f g : Field) : Prop := f.lo + f.width ≤ g.lo ∨ g.lo + g.width ≤ f.lo

theorem Field.put_toNat {f : Field} (h : f.fits) (w : W32) (v : Nat) :
    (f.put w v).toNat =
      w.toNat / 2 ^ (f.lo + f.width) * 2 ^ (f.lo + f.width) + v % 2 ^ f.width * 2 ^ f.lo + w.toNat % 2 ^ f.lo := by
  have h1 := Nat.div_add_mod w.toNat (2 ^ f.lo)
  have h2 := Nat.div_add_mod (w.toNat / 2 ^ f.lo) (2 ^ f.width)
  rw [Nat.div_div_eq_div_mul, ← pow_add] at h2
  have hv : v % 2 ^ f.width < 2 ^ f.width := Nat.mod_lt _ (by positivity)
  have hc : w.toNat % 2 ^ f.lo < 2 ^ f.lo := Nat.mod_lt _ (by positivity)
  have hw : w.toNat < 2 ^ 32 := w.isLt
  have e32 : (2 : Nat) ^ 32 = 2 ^ (f.lo + f.width) * 2 ^ (32 - (f.lo + f.width)) := by rw [← pow_add]; congr 1; unfold Field.fits at h; omega
  have ha : w.toNat / 2 ^ (f.lo + f.width) < 2 ^ (32 - (f.lo + f.width)) := by
    rw [Nat.div_lt_iff_lt_mul (by positivity), Nat.mul_comm, ← e32]; exact hw
  have hp : (2 : Nat) ^ (f.lo + f.width) = 2 ^ f.lo * 2 ^ f.width := pow_add 2 _ _
  unfold Field.put Field.get
  rw [BitVec.toNat_ofNat, Nat.mod_eq_of_lt]
  · generalize w.toNat / 2 ^ (f.lo + f.width) = a at *
    generalize w.toNat / 2 ^ f.lo % 2 ^ f.width = b at *
    generalize w.toNat % 2 ^ f.lo = c at *
    rw [← h1, ← h2, hp]
    have : 2 ^ f.lo * (2 ^ (f.lo + f.width) * 0 + b) = b * 2 ^ f.lo := by ring
    have e : 2 ^ f.lo * (2 ^ f.width * a + b) + c - b * 2 ^ f.lo = a * (2 ^ f.lo * 2 ^ f.width) + c := by
      have : 2 ^ f.lo * (2 ^ f.width * a + b) = a * (2 ^ f.lo * 2 ^ f.width) + b * 2 ^ f.lo := by ring
      omega
    rw [e]; omega
  · generalize w.toNat / 2 ^ (f.lo + f.width) = a at *
    generalize w.toNat / 2 ^ f.lo % 2 ^ f.width = b at *
    generalize w.toNat % 2 ^ f.lo = c at *
    rw [← h1, ← h2]
    have e : 2 ^ f.lo * (2 ^ f.width * a + b) + c - b * 2 ^ f.lo = a * (2 ^ f.lo * 2 ^ f.width) + c := by
      have : 2 ^ f.lo * (2 ^ f.width * a + b) = a * (2 ^ f.lo * 2 ^ f.width) + b * 2 ^ f.lo := by ring
      omega
    rw [e, e32, hp]
    have hv' : v % 2 ^ f.width * 2 ^ f.lo + c < 2 ^ f.lo * 2 ^ f.width := by
      have : (v % 2 ^ f.width + 1) * 2 ^ f.lo ≤ 2 ^ f.width * 2 ^ f.lo := Nat.mul_le_mul_right _ hv
      rw [Nat.add_mul, Nat.one_mul] at this
      rw [Nat.mul_comm (2 ^ f.lo)]
      omega
    have ha' : (a + 1) * (2 ^ f.lo * 2 ^ f.width) ≤ 2 ^ (32 - (f.lo + f.width)) * (2 ^ f.lo * 2 ^ f.width) := Nat.mul_le_mul_right _ ha
    rw [Nat.add_mul, Nat.one_mul] at ha'
    rw [Nat.mul_comm (2 ^ f.lo * 2 ^ f.width) (2 ^ (32 - (f.lo + f.width)))]
    omega

/-- A field reads as what was put into it, modulo its width. -/
theorem Field.get_put_same {f : Field} (h : f.fits) (w : W32) (v : Nat) : f.get (f.put w v) = v % 2 ^ f.width := by
  conv_lhs => unfold Field.get
  rw [Field.put_toNat h]
  have hc : w.toNat % 2 ^ f.lo < 2 ^ f.lo := Nat.mod_lt _ (by positivity)
  have e : w.toNat / 2 ^ (f.lo + f.width) * 2 ^ (f.lo + f.width) + v % 2 ^ f.width * 2 ^ f.lo + w.toNat % 2 ^ f.lo =
      w.toNat % 2 ^ f.lo + 2 ^ f.lo * (v % 2 ^ f.width + 2 ^ f.width * (w.toNat / 2 ^ (f.lo + f.width))) := by
    rw [pow_add]; ring
  rw [e, Nat.add_mul_div_left _ _ (by positivity), Nat.div_eq_of_lt hc, Nat.zero_add, Nat.add_mul_mod_self_left, Nat.mod_mod]

/-- A field reads as before after a put into a field that shares no bit with it. -/
theorem Field.get_put_other {f g : Field} (h : f.fits) (hg : f.apart g) (w : W32) (v : Nat) : g.get (f.put w v) = g.get w := by
  unfold Field.get
  rw [Field.put_toNat h]
  have hc : w.toNat % 2 ^ f.lo < 2 ^ f.lo := Nat.mod_lt _ (by positivity)
  have hv : v % 2 ^ f.width < 2 ^ f.width := Nat.mod_lt _ (by positivity)
  rcases hg with hg | hg
  · -- the other field lies above
    have e : (2 : Nat) ^ g.lo = 2 ^ (f.lo + f.width) * 2 ^ (g.lo - (f.lo + f.width)) := by rw [← pow_add]; congr 1; omega
    have hlow : v % 2 ^ f.width * 2 ^ f.lo + w.toNat % 2 ^ f.lo < 2 ^ (f.lo + f.width) := by
      have : (v % 2 ^ f.width + 1) * 2 ^ f.lo ≤ 2 ^ f.width * 2 ^ f.lo := Nat.mul_le_mul_right _ hv
      rw [Nat.add_mul, Nat.one_mul, Nat.mul_comm (2 ^ f.width), ← pow_add] at this
      omega
    rw [e, ← Nat.div_div_eq_div_mul, ← Nat.div_div_eq_div_mul]
    congr 2
    rw [Nat.add_assoc, Nat.add_comm, Nat.add_mul_div_right _ _ (by positivity), Nat.div_eq_of_lt hlow, Nat.zero_add]
  · -- the other field lies below
    have e1 : (2 : Nat) ^ f.lo = 2 ^ g.lo * 2 ^ (f.lo - g.lo) := by rw [← pow_add]; congr 1; omega
    have e2 : (2 : Nat) ^ (f.lo - g.lo) = 2 ^ g.width * 2 ^ (f.lo - g.lo - g.width) := by rw [← pow_add]; congr 1; omega
    have hw := Nat.div_add_mod w.toNat (2 ^ f.lo)
    have e : ∀ x : Nat, x * 2 ^ f.lo = 2 ^ g.lo * (2 ^ g.width * (x * 2 ^ (f.lo - g.lo - g.width))) := by
      intro x; rw [e1, e2]; ring
    have key : ∀ x : Nat, (x * 2 ^ f.lo + w.toNat % 2 ^ f.lo) / 2 ^ g.lo % 2 ^ g.width =
        (w.toNat % 2 ^ f.lo) / 2 ^ g.lo % 2 ^ g.width := by
      intro x
      rw [e, Nat.add_comm, Nat.add_mul_div_left _ _ (by positivity), Nat.add_mul_mod_self_left]
    have h1 : w.toNat / 2 ^ (f.lo + f.width) * 2 ^ (f.lo + f.width) + v % 2 ^ f.width * 2 ^ f.lo =
        (w.toNat / 2 ^ (f.lo + f.width) * 2 ^ f.width + v % 2 ^ f.width) * 2 ^ f.lo := by rw [pow_add]; ring
    rw [h1, key]
    conv_rhs => rw [← hw, Nat.mul_comm (2 ^ f.lo), key]

end Sys2Proof.Machine
end

