-- ==== Sys2Proof/Laws/Sparse.lean ====
section
/-! SUPPORT. Laws of sparse maps: what is read after a set, an erase or a clear, and that each keeps the canonical form. -/

namespace Sys2Proof.Machine

variable {α : Type}

/-- Every key listed lies above k. -/
def Sparse.above (k : Nat) (m : Sparse α) : Prop := ∀ c ∈ m, k < c.1

@[simp] theorem Sparse.get_nil (dflt : Nat → α) (k : Nat) : Sparse.get dflt [] k = dflt k := rfl

theorem Sparse.get_cons (dflt : Nat → α) (k' : Nat) (v : α) (t : Sparse α) (k : Nat) :
    Sparse.get dflt ((k', v) :: t) k = if k' = k then v else Sparse.get dflt t k := rfl

theorem Sparse.get_insert (dflt : Nat → α) (m : Sparse α) (k : Nat) (v : α) (j : Nat) :
    Sparse.get dflt (Sparse.insert m k v) j = if k = j then v else Sparse.get dflt m j := by
  induction m with
  | nil => rfl
  | cons c t ih =>
    obtain ⟨k', v'⟩ := c
    unfold Sparse.insert
    split
    · rfl
    · split
      · next h => subst h; simp only [Sparse.get_cons]; split <;> rfl
      · next h => simp only [Sparse.get_cons, ih]; split <;> split <;> simp_all

theorem Sparse.get_erase_other (dflt : Nat → α) (m : Sparse α) {k j : Nat} (h : k ≠ j) :
    Sparse.get dflt (Sparse.erase m k) j = Sparse.get dflt m j := by
  induction m with
  | nil => rfl
  | cons c t ih =>
    obtain ⟨k', v'⟩ := c
    unfold Sparse.erase
    split
    · next e => rw [Sparse.get_cons, if_neg (by omega), ih]
    · simp only [Sparse.get_cons, ih]

theorem Sparse.get_erase_same (dflt : Nat → α) (m : Sparse α) (k : Nat) :
    Sparse.get dflt (Sparse.erase m k) k = dflt k := by
  induction m with
  | nil => rfl
  | cons c t ih =>
    obtain ⟨k', v'⟩ := c
    unfold Sparse.erase
    split
    · exact ih
    · next e => rw [Sparse.get_cons, if_neg e]; exact ih

/-- Another key keeps its value. -/
theorem Sparse.get_set_other [DecidableEq α] (dflt : Nat → α) (m : Sparse α) {k j : Nat} (v : α) (h : k ≠ j) :
    Sparse.get dflt (Sparse.set dflt m k v) j = Sparse.get dflt m j := by
  unfold Sparse.set
  split
  · exact Sparse.get_erase_other dflt m h
  · rw [Sparse.get_insert, if_neg h]

/-- The key set has its value. -/
theorem Sparse.get_set_same [DecidableEq α] (dflt : Nat → α) (m : Sparse α) (k : Nat) (v : α) :
    Sparse.get dflt (Sparse.set dflt m k v) k = v := by
  unfold Sparse.set
  split
  · next h => rw [Sparse.get_erase_same dflt m, h]
  · rw [Sparse.get_insert, if_pos rfl]

/-! ## The canonical form -/

theorem Sparse.wf_cons [DecidableEq α] {dflt : Nat → α} {k : Nat} {v : α} {t : Sparse α} :
    Sparse.wf dflt ((k, v) :: t) = true ↔ v ≠ dflt k ∧ Sparse.above k t ∧ Sparse.wf dflt t = true := by
  simp [Sparse.wf, Sparse.above, and_assoc]

theorem Sparse.above_insert {m : Sparse α} {k j : Nat} {v : α} (h : Sparse.above j m) (hk : j < k) :
    Sparse.above j (Sparse.insert m k v) := by
  induction m with
  | nil => intro c hc; simp [Sparse.insert] at hc; subst hc; exact hk
  | cons c t ih =>
    obtain ⟨k', v'⟩ := c
    have ht : Sparse.above j t := fun c hc => h c (List.mem_cons_of_mem _ hc)
    have h0 : j < k' := h (k', v') (by simp)
    unfold Sparse.insert
    split
    · intro c hc
      simp only [List.mem_cons] at hc
      rcases hc with rfl | rfl | hc
      · exact hk
      · exact h0
      · exact ht c hc
    · split
      · intro c hc
        simp only [List.mem_cons] at hc
        rcases hc with rfl | hc
        · exact hk
        · exact ht c hc
      · intro c hc
        simp only [List.mem_cons] at hc
        rcases hc with rfl | hc
        · exact h0
        · exact ih ht c hc

theorem Sparse.above_erase {m : Sparse α} {k j : Nat} (h : Sparse.above j m) : Sparse.above j (Sparse.erase m k) := by
  induction m with
  | nil => exact h
  | cons c t ih =>
    obtain ⟨k', v'⟩ := c
    have ht : Sparse.above j t := fun c hc => h c (List.mem_cons_of_mem _ hc)
    unfold Sparse.erase
    split
    · exact ih ht
    · intro c hc
      simp only [List.mem_cons] at hc
      rcases hc with rfl | hc
      · exact h _ (by simp)
      · exact ih ht c hc

theorem Sparse.wf_erase [DecidableEq α] {dflt : Nat → α} {m : Sparse α} (k : Nat) (h : Sparse.wf dflt m = true) :
    Sparse.wf dflt (Sparse.erase m k) = true := by
  induction m with
  | nil => rfl
  | cons c t ih =>
    obtain ⟨k', v'⟩ := c
    obtain ⟨h1, h2, h3⟩ := Sparse.wf_cons.mp h
    unfold Sparse.erase
    split
    · exact ih h3
    · exact Sparse.wf_cons.mpr ⟨h1, Sparse.above_erase h2, ih h3⟩

theorem Sparse.wf_insert [DecidableEq α] {dflt : Nat → α} {m : Sparse α} {k : Nat} {v : α} (h : Sparse.wf dflt m = true)
    (hv : v ≠ dflt k) : Sparse.wf dflt (Sparse.insert m k v) = true := by
  induction m with
  | nil => simp [Sparse.insert, Sparse.wf, hv]
  | cons c t ih =>
    obtain ⟨k', v'⟩ := c
    obtain ⟨h1, h2, h3⟩ := Sparse.wf_cons.mp h
    unfold Sparse.insert
    split
    · next hk =>
      refine Sparse.wf_cons.mpr ⟨hv, ?_, h⟩
      intro c hc
      simp only [List.mem_cons] at hc
      rcases hc with rfl | hc
      · exact hk
      · exact Nat.lt_trans hk (h2 c hc)
    · split
      · next hk => subst hk; exact Sparse.wf_cons.mpr ⟨hv, h2, h3⟩
      · next hk hk' => exact Sparse.wf_cons.mpr ⟨h1, Sparse.above_insert h2 (by omega), ih h3⟩

/-- A set keeps the canonical form. -/
theorem Sparse.wf_set [DecidableEq α] {dflt : Nat → α} {m : Sparse α} (k : Nat) (v : α) (h : Sparse.wf dflt m = true) :
    Sparse.wf dflt (Sparse.set dflt m k v) = true := by
  unfold Sparse.set
  split
  · exact Sparse.wf_erase k h
  · next hv => exact Sparse.wf_insert h hv

theorem Sparse.wf_filter [DecidableEq α] {dflt : Nat → α} {m : Sparse α} (p : Nat × α → Bool) (h : Sparse.wf dflt m = true) :
    Sparse.wf dflt (List.filter p m : Sparse α) = true := by
  induction m with
  | nil => rfl
  | cons c t ih =>
    obtain ⟨k, v⟩ := c
    obtain ⟨h1, h2, h3⟩ := Sparse.wf_cons.mp h
    rw [List.filter_cons]
    split
    · exact Sparse.wf_cons.mpr ⟨h1, fun c hc => h2 c (List.mem_filter.mp hc).1, ih h3⟩
    · exact ih h3

/-- Clearing a range keeps the canonical form. -/
theorem Sparse.wf_clear [DecidableEq α] {dflt : Nat → α} {m : Sparse α} (lo n : Nat) (h : Sparse.wf dflt m = true) :
    Sparse.wf dflt (Sparse.clear m lo n) = true := Sparse.wf_filter _ h

/-- A copy of a range keeps the canonical form. -/
theorem Sparse.wf_copy [DecidableEq α] {dflt : Nat → α} {m : Sparse α} (src dst n : Nat) (h : Sparse.wf dflt m = true) :
    Sparse.wf dflt (Sparse.copy dflt m src dst n) = true := by
  unfold Sparse.copy
  generalize Sparse.slice m src n = l
  have hc : Sparse.wf dflt (Sparse.clear m dst n) = true := Sparse.wf_clear dst n h
  revert hc
  generalize Sparse.clear m dst n = a
  induction l generalizing a with
  | nil => exact fun h => h
  | cons c t ih => exact fun ha => ih _ (Sparse.wf_set _ _ ha)

theorem Sparse.get_filter (dflt : Nat → α) (m : Sparse α) (p : Nat → Bool) (j : Nat) :
    Sparse.get dflt (List.filter (fun c => p c.1) m : Sparse α) j = if p j then Sparse.get dflt m j else dflt j := by
  induction m with
  | nil => simp
  | cons c t ih =>
    obtain ⟨k, v⟩ := c
    rw [List.filter_cons]
    by_cases hp : p k
    · simp only [hp, if_true, Sparse.get_cons, ih]
      split
      · next e => subst e; simp [hp]
      · rfl
    · simp only [hp, Bool.false_eq_true, if_false, Sparse.get_cons, ih]
      split
      · next e => rw [if_neg]; intro e'; subst e'; exact hp e
      · rfl

/-- After a clear the keys of the range are at their defaults and the others keep their values. -/
theorem Sparse.get_clear (dflt : Nat → α) (m : Sparse α) (lo n j : Nat) :
    Sparse.get dflt (Sparse.clear m lo n) j = if lo ≤ j ∧ j < lo + n then dflt j else Sparse.get dflt m j := by
  unfold Sparse.clear
  rw [Sparse.get_filter dflt m (fun k => !(decide (lo ≤ k) && decide (k < lo + n))) j]
  by_cases h1 : lo ≤ j <;> by_cases h2 : j < lo + n <;> simp [h1, h2]

end Sys2Proof.Machine
end

