-- ==== Sys2Proof/Laws/State.lean ====
section
/-! SUPPORT. What each named update of the device leaves as it was: one lemma per update and field, so that no later proof unfolds a
record update. -/

namespace Sys2Proof.Machine

variable (d : Dev)

/-! wr -/

@[simp] theorem Dev.wr_mem (r : Reg) (v : W32) : (d.wr r v).mem = d.mem := rfl
@[simp] theorem Dev.wr_poison (r : Reg) (v : W32) : (d.wr r v).poison = d.poison := rfl
@[simp] theorem Dev.wr_soft (r : Reg) (v : W32) : (d.wr r v).soft = d.soft := rfl
@[simp] theorem Dev.wr_sramErrs (r : Reg) (v : W32) : (d.wr r v).sramErrs = d.sramErrs := rfl
@[simp] theorem Dev.wr_ops (r : Reg) (v : W32) : (d.wr r v).ops = d.ops := rfl
@[simp] theorem Dev.wr_beat (r : Reg) (v : W32) : (d.wr r v).beat = d.beat := rfl
@[simp] theorem Dev.wr_counting (r : Reg) (v : W32) : (d.wr r v).counting = d.counting := rfl
@[simp] theorem Dev.wr_holdLeft (r : Reg) (v : W32) : (d.wr r v).holdLeft = d.holdLeft := rfl
@[simp] theorem Dev.wr_aligned (r : Reg) (v : W32) : (d.wr r v).aligned = d.aligned := rfl
@[simp] theorem Dev.wr_returnPend (r : Reg) (v : W32) : (d.wr r v).returnPend = d.returnPend := rfl
@[simp] theorem Dev.wr_oscTrim (r : Reg) (v : W32) : (d.wr r v).oscTrim = d.oscTrim := rfl
@[simp] theorem Dev.wr_fresh (r : Reg) (v : W32) : (d.wr r v).fresh = d.fresh := rfl
@[simp] theorem Dev.wr_busData (r : Reg) (v : W32) : (d.wr r v).busData = d.busData := rfl
@[simp] theorem Dev.wr_latch (r : Reg) (v : W32) : (d.wr r v).latch = d.latch := rfl
@[simp] theorem Dev.wr_busHeld (r : Reg) (v : W32) : (d.wr r v).busHeld = d.busHeld := rfl
@[simp] theorem Dev.wr_halves (r : Reg) (v : W32) : (d.wr r v).halves = d.halves := rfl
@[simp] theorem Dev.wr_regions (r : Reg) (v : W32) : (d.wr r v).regions = d.regions := rfl
@[simp] theorem Dev.wr_tiles (r : Reg) (v : W32) : (d.wr r v).tiles = d.tiles := rfl
@[simp] theorem Dev.wr_net (r : Reg) (v : W32) : (d.wr r v).net = d.net := rfl
@[simp] theorem Dev.wr_seqs (r : Reg) (v : W32) : (d.wr r v).seqs = d.seqs := rfl
@[simp] theorem Dev.wr_credits (r : Reg) (v : W32) : (d.wr r v).credits = d.credits := rfl
@[simp] theorem Dev.wr_ports (r : Reg) (v : W32) : (d.wr r v).ports = d.ports := rfl
@[simp] theorem Dev.wr_parents (r : Reg) (v : W32) : (d.wr r v).parents = d.parents := rfl
@[simp] theorem Dev.wr_maps (r : Reg) (v : W32) : (d.wr r v).maps = d.maps := rfl
@[simp] theorem Dev.wr_mapOver (r : Reg) (v : W32) : (d.wr r v).mapOver = d.mapOver := rfl
@[simp] theorem Dev.wr_routeOver (r : Reg) (v : W32) : (d.wr r v).routeOver = d.routeOver := rfl
@[simp] theorem Dev.wr_routed (r : Reg) (v : W32) : (d.wr r v).routed = d.routed := rfl
@[simp] theorem Dev.wr_routers (r : Reg) (v : W32) : (d.wr r v).routers = d.routers := rfl
@[simp] theorem Dev.wr_tapErrs (r : Reg) (v : W32) : (d.wr r v).tapErrs = d.tapErrs := rfl
@[simp] theorem Dev.wr_coilErrs (r : Reg) (v : W32) : (d.wr r v).coilErrs = d.coilErrs := rfl
@[simp] theorem Dev.wr_hbms (r : Reg) (v : W32) : (d.wr r v).hbms = d.hbms := rfl
@[simp] theorem Dev.wr_winNext (r : Reg) (v : W32) : (d.wr r v).winNext = d.winNext := rfl
@[simp] theorem Dev.wr_winChanges (r : Reg) (v : W32) : (d.wr r v).winChanges = d.winChanges := rfl
@[simp] theorem Dev.wr_winWritten (r : Reg) (v : W32) : (d.wr r v).winWritten = d.winWritten := rfl
@[simp] theorem Dev.wr_pwr (r : Reg) (v : W32) : (d.wr r v).pwr = d.pwr := rfl
@[simp] theorem Dev.wr_cal (r : Reg) (v : W32) : (d.wr r v).cal = d.cal := rfl
@[simp] theorem Dev.wr_factoryHash (r : Reg) (v : W32) : (d.wr r v).factoryHash = d.factoryHash := rfl
@[simp] theorem Dev.wr_olinks (r : Reg) (v : W32) : (d.wr r v).olinks = d.olinks := rfl
@[simp] theorem Dev.wr_lanes (r : Reg) (v : W32) : (d.wr r v).lanes = d.lanes := rfl
@[simp] theorem Dev.wr_rings (r : Reg) (v : W32) : (d.wr r v).rings = d.rings := rfl
@[simp] theorem Dev.wr_banks (r : Reg) (v : W32) : (d.wr r v).banks = d.banks := rfl
@[simp] theorem Dev.wr_trainAt (r : Reg) (v : W32) : (d.wr r v).trainAt = d.trainAt := rfl
@[simp] theorem Dev.wr_mods (r : Reg) (v : W32) : (d.wr r v).mods = d.mods := rfl
@[simp] theorem Dev.wr_switches (r : Reg) (v : W32) : (d.wr r v).switches = d.switches := rfl
@[simp] theorem Dev.wr_rehops (r : Reg) (v : W32) : (d.wr r v).rehops = d.rehops := rfl
@[simp] theorem Dev.wr_yard (r : Reg) (v : W32) : (d.wr r v).yard = d.yard := rfl
@[simp] theorem Dev.wr_sent (r : Reg) (v : W32) : (d.wr r v).sent = d.sent := rfl
@[simp] theorem Dev.wr_fwdSince (r : Reg) (v : W32) : (d.wr r v).fwdSince = d.fwdSince := rfl
@[simp] theorem Dev.wr_replaceDue (r : Reg) (v : W32) : (d.wr r v).replaceDue = d.replaceDue := rfl
@[simp] theorem Dev.wr_rewriting (r : Reg) (v : W32) : (d.wr r v).rewriting = d.rewriting := rfl
@[simp] theorem Dev.wr_farTests (r : Reg) (v : W32) : (d.wr r v).farTests = d.farTests := rfl
@[simp] theorem Dev.wr_farLast (r : Reg) (v : W32) : (d.wr r v).farLast = d.farLast := rfl
@[simp] theorem Dev.wr_hangLast (r : Reg) (v : W32) : (d.wr r v).hangLast = d.hangLast := rfl
@[simp] theorem Dev.wr_hangA (r : Reg) (v : W32) : (d.wr r v).hangA = d.hangA := rfl
@[simp] theorem Dev.wr_hangGen (r : Reg) (v : W32) : (d.wr r v).hangGen = d.hangGen := rfl
@[simp] theorem Dev.wr_rm (r : Reg) (v : W32) : (d.wr r v).rm = d.rm := rfl
@[simp] theorem Dev.wr_act (r : Reg) (v : W32) : (d.wr r v).act = d.act := rfl
@[simp] theorem Dev.wr_stopping (r : Reg) (v : W32) : (d.wr r v).stopping = d.stopping := rfl
@[simp] theorem Dev.wr_qps (r : Reg) (v : W32) : (d.wr r v).qps = d.qps := rfl
@[simp] theorem Dev.wr_reads (r : Reg) (v : W32) : (d.wr r v).reads = d.reads := rfl
@[simp] theorem Dev.wr_hostOps (r : Reg) (v : W32) : (d.wr r v).hostOps = d.hostOps := rfl
@[simp] theorem Dev.wr_eth (r : Reg) (v : W32) : (d.wr r v).eth = d.eth := rfl
@[simp] theorem Dev.wr_svc (r : Reg) (v : W32) : (d.wr r v).svc = d.svc := rfl
@[simp] theorem Dev.wr_start (r : Reg) (v : W32) : (d.wr r v).start = d.start := rfl
@[simp] theorem Dev.wr_vloftEn (r : Reg) (v : W32) : (d.wr r v).vloftEn = d.vloftEn := rfl
@[simp] theorem Dev.wr_generation (r : Reg) (v : W32) : (d.wr r v).generation = d.generation := rfl
@[simp] theorem Dev.wr_peerShape (r : Reg) (v : W32) : (d.wr r v).peerShape = d.peerShape := rfl
@[simp] theorem Dev.wr_barred (r : Reg) (v : W32) : (d.wr r v).barred = d.barred := rfl
@[simp] theorem Dev.wr_barnsIn (r : Reg) (v : W32) : (d.wr r v).barnsIn = d.barnsIn := rfl

/-! raise -/

@[simp] theorem Dev.raise_mem (n : Nat) : (d.raise n).mem = d.mem := by unfold Dev.raise; split <;> rfl
@[simp] theorem Dev.raise_poison (n : Nat) : (d.raise n).poison = d.poison := by unfold Dev.raise; split <;> rfl
@[simp] theorem Dev.raise_soft (n : Nat) : (d.raise n).soft = d.soft := by unfold Dev.raise; split <;> rfl
@[simp] theorem Dev.raise_sramErrs (n : Nat) : (d.raise n).sramErrs = d.sramErrs := by unfold Dev.raise; split <;> rfl
@[simp] theorem Dev.raise_ops (n : Nat) : (d.raise n).ops = d.ops := by unfold Dev.raise; split <;> rfl
@[simp] theorem Dev.raise_beat (n : Nat) : (d.raise n).beat = d.beat := by unfold Dev.raise; split <;> rfl
@[simp] theorem Dev.raise_counting (n : Nat) : (d.raise n).counting = d.counting := by unfold Dev.raise; split <;> rfl
@[simp] theorem Dev.raise_holdLeft (n : Nat) : (d.raise n).holdLeft = d.holdLeft := by unfold Dev.raise; split <;> rfl
@[simp] theorem Dev.raise_aligned (n : Nat) : (d.raise n).aligned = d.aligned := by unfold Dev.raise; split <;> rfl
@[simp] theorem Dev.raise_returnPend (n : Nat) : (d.raise n).returnPend = d.returnPend := by unfold Dev.raise; split <;> rfl
@[simp] theorem Dev.raise_oscTrim (n : Nat) : (d.raise n).oscTrim = d.oscTrim := by unfold Dev.raise; split <;> rfl
@[simp] theorem Dev.raise_fresh (n : Nat) : (d.raise n).fresh = d.fresh := by unfold Dev.raise; split <;> rfl
@[simp] theorem Dev.raise_busData (n : Nat) : (d.raise n).busData = d.busData := by unfold Dev.raise; split <;> rfl
@[simp] theorem Dev.raise_latch (n : Nat) : (d.raise n).latch = d.latch := by unfold Dev.raise; split <;> rfl
@[simp] theorem Dev.raise_busHeld (n : Nat) : (d.raise n).busHeld = d.busHeld := by unfold Dev.raise; split <;> rfl
@[simp] theorem Dev.raise_halves (n : Nat) : (d.raise n).halves = d.halves := by unfold Dev.raise; split <;> rfl
@[simp] theorem Dev.raise_regions (n : Nat) : (d.raise n).regions = d.regions := by unfold Dev.raise; split <;> rfl
@[simp] theorem Dev.raise_tiles (n : Nat) : (d.raise n).tiles = d.tiles := by unfold Dev.raise; split <;> rfl
@[simp] theorem Dev.raise_net (n : Nat) : (d.raise n).net = d.net := by unfold Dev.raise; split <;> rfl
@[simp] theorem Dev.raise_seqs (n : Nat) : (d.raise n).seqs = d.seqs := by unfold Dev.raise; split <;> rfl
@[simp] theorem Dev.raise_credits (n : Nat) : (d.raise n).credits = d.credits := by unfold Dev.raise; split <;> rfl
@[simp] theorem Dev.raise_ports (n : Nat) : (d.raise n).ports = d.ports := by unfold Dev.raise; split <;> rfl
@[simp] theorem Dev.raise_parents (n : Nat) : (d.raise n).parents = d.parents := by unfold Dev.raise; split <;> rfl
@[simp] theorem Dev.raise_maps (n : Nat) : (d.raise n).maps = d.maps := by unfold Dev.raise; split <;> rfl
@[simp] theorem Dev.raise_mapOver (n : Nat) : (d.raise n).mapOver = d.mapOver := by unfold Dev.raise; split <;> rfl
@[simp] theorem Dev.raise_routeOver (n : Nat) : (d.raise n).routeOver = d.routeOver := by unfold Dev.raise; split <;> rfl
@[simp] theorem Dev.raise_routed (n : Nat) : (d.raise n).routed = d.routed := by unfold Dev.raise; split <;> rfl
@[simp] theorem Dev.raise_routers (n : Nat) : (d.raise n).routers = d.routers := by unfold Dev.raise; split <;> rfl
@[simp] theorem Dev.raise_tapErrs (n : Nat) : (d.raise n).tapErrs = d.tapErrs := by unfold Dev.raise; split <;> rfl
@[simp] theorem Dev.raise_coilErrs (n : Nat) : (d.raise n).coilErrs = d.coilErrs := by unfold Dev.raise; split <;> rfl
@[simp] theorem Dev.raise_hbms (n : Nat) : (d.raise n).hbms = d.hbms := by unfold Dev.raise; split <;> rfl
@[simp] theorem Dev.raise_winNext (n : Nat) : (d.raise n).winNext = d.winNext := by unfold Dev.raise; split <;> rfl
@[simp] theorem Dev.raise_winChanges (n : Nat) : (d.raise n).winChanges = d.winChanges := by unfold Dev.raise; split <;> rfl
@[simp] theorem Dev.raise_winWritten (n : Nat) : (d.raise n).winWritten = d.winWritten := by unfold Dev.raise; split <;> rfl
@[simp] theorem Dev.raise_pwr (n : Nat) : (d.raise n).pwr = d.pwr := by unfold Dev.raise; split <;> rfl
@[simp] theorem Dev.raise_cal (n : Nat) : (d.raise n).cal = d.cal := by unfold Dev.raise; split <;> rfl
@[simp] theorem Dev.raise_factoryHash (n : Nat) : (d.raise n).factoryHash = d.factoryHash := by unfold Dev.raise; split <;> rfl
@[simp] theorem Dev.raise_olinks (n : Nat) : (d.raise n).olinks = d.olinks := by unfold Dev.raise; split <;> rfl
@[simp] theorem Dev.raise_lanes (n : Nat) : (d.raise n).lanes = d.lanes := by unfold Dev.raise; split <;> rfl
@[simp] theorem Dev.raise_rings (n : Nat) : (d.raise n).rings = d.rings := by unfold Dev.raise; split <;> rfl
@[simp] theorem Dev.raise_banks (n : Nat) : (d.raise n).banks = d.banks := by unfold Dev.raise; split <;> rfl
@[simp] theorem Dev.raise_trainAt (n : Nat) : (d.raise n).trainAt = d.trainAt := by unfold Dev.raise; split <;> rfl
@[simp] theorem Dev.raise_mods (n : Nat) : (d.raise n).mods = d.mods := by unfold Dev.raise; split <;> rfl
@[simp] theorem Dev.raise_switches (n : Nat) : (d.raise n).switches = d.switches := by unfold Dev.raise; split <;> rfl
@[simp] theorem Dev.raise_rehops (n : Nat) : (d.raise n).rehops = d.rehops := by unfold Dev.raise; split <;> rfl
@[simp] theorem Dev.raise_yard (n : Nat) : (d.raise n).yard = d.yard := by unfold Dev.raise; split <;> rfl
@[simp] theorem Dev.raise_sent (n : Nat) : (d.raise n).sent = d.sent := by unfold Dev.raise; split <;> rfl
@[simp] theorem Dev.raise_fwdSince (n : Nat) : (d.raise n).fwdSince = d.fwdSince := by unfold Dev.raise; split <;> rfl
@[simp] theorem Dev.raise_replaceDue (n : Nat) : (d.raise n).replaceDue = d.replaceDue := by unfold Dev.raise; split <;> rfl
@[simp] theorem Dev.raise_rewriting (n : Nat) : (d.raise n).rewriting = d.rewriting := by unfold Dev.raise; split <;> rfl
@[simp] theorem Dev.raise_farTests (n : Nat) : (d.raise n).farTests = d.farTests := by unfold Dev.raise; split <;> rfl
@[simp] theorem Dev.raise_farLast (n : Nat) : (d.raise n).farLast = d.farLast := by unfold Dev.raise; split <;> rfl
@[simp] theorem Dev.raise_hangLast (n : Nat) : (d.raise n).hangLast = d.hangLast := by unfold Dev.raise; split <;> rfl
@[simp] theorem Dev.raise_hangA (n : Nat) : (d.raise n).hangA = d.hangA := by unfold Dev.raise; split <;> rfl
@[simp] theorem Dev.raise_hangGen (n : Nat) : (d.raise n).hangGen = d.hangGen := by unfold Dev.raise; split <;> rfl
@[simp] theorem Dev.raise_rm (n : Nat) : (d.raise n).rm = d.rm := by unfold Dev.raise; split <;> rfl
@[simp] theorem Dev.raise_act (n : Nat) : (d.raise n).act = d.act := by unfold Dev.raise; split <;> rfl
@[simp] theorem Dev.raise_stopping (n : Nat) : (d.raise n).stopping = d.stopping := by unfold Dev.raise; split <;> rfl
@[simp] theorem Dev.raise_qps (n : Nat) : (d.raise n).qps = d.qps := by unfold Dev.raise; split <;> rfl
@[simp] theorem Dev.raise_reads (n : Nat) : (d.raise n).reads = d.reads := by unfold Dev.raise; split <;> rfl
@[simp] theorem Dev.raise_hostOps (n : Nat) : (d.raise n).hostOps = d.hostOps := by unfold Dev.raise; split <;> rfl
@[simp] theorem Dev.raise_eth (n : Nat) : (d.raise n).eth = d.eth := by unfold Dev.raise; split <;> rfl
@[simp] theorem Dev.raise_svc (n : Nat) : (d.raise n).svc = d.svc := by unfold Dev.raise; split <;> rfl
@[simp] theorem Dev.raise_start (n : Nat) : (d.raise n).start = d.start := by unfold Dev.raise; split <;> rfl
@[simp] theorem Dev.raise_vloftEn (n : Nat) : (d.raise n).vloftEn = d.vloftEn := by unfold Dev.raise; split <;> rfl
@[simp] theorem Dev.raise_generation (n : Nat) : (d.raise n).generation = d.generation := by unfold Dev.raise; split <;> rfl
@[simp] theorem Dev.raise_peerShape (n : Nat) : (d.raise n).peerShape = d.peerShape := by unfold Dev.raise; split <;> rfl
@[simp] theorem Dev.raise_barred (n : Nat) : (d.raise n).barred = d.barred := by unfold Dev.raise; split <;> rfl
@[simp] theorem Dev.raise_barnsIn (n : Nat) : (d.raise n).barnsIn = d.barnsIn := by unfold Dev.raise; split <;> rfl

/-! setTile -/

@[simp] theorem Dev.setTile_regs (b x : Nat) (t : Tile) : (d.setTile b x t).regs = d.regs := rfl
@[simp] theorem Dev.setTile_mem (b x : Nat) (t : Tile) : (d.setTile b x t).mem = d.mem := rfl
@[simp] theorem Dev.setTile_poison (b x : Nat) (t : Tile) : (d.setTile b x t).poison = d.poison := rfl
@[simp] theorem Dev.setTile_soft (b x : Nat) (t : Tile) : (d.setTile b x t).soft = d.soft := rfl
@[simp] theorem Dev.setTile_sramErrs (b x : Nat) (t : Tile) : (d.setTile b x t).sramErrs = d.sramErrs := rfl
@[simp] theorem Dev.setTile_ops (b x : Nat) (t : Tile) : (d.setTile b x t).ops = d.ops := rfl
@[simp] theorem Dev.setTile_beat (b x : Nat) (t : Tile) : (d.setTile b x t).beat = d.beat := rfl
@[simp] theorem Dev.setTile_counting (b x : Nat) (t : Tile) : (d.setTile b x t).counting = d.counting := rfl
@[simp] theorem Dev.setTile_holdLeft (b x : Nat) (t : Tile) : (d.setTile b x t).holdLeft = d.holdLeft := rfl
@[simp] theorem Dev.setTile_aligned (b x : Nat) (t : Tile) : (d.setTile b x t).aligned = d.aligned := rfl
@[simp] theorem Dev.setTile_returnPend (b x : Nat) (t : Tile) : (d.setTile b x t).returnPend = d.returnPend := rfl
@[simp] theorem Dev.setTile_oscTrim (b x : Nat) (t : Tile) : (d.setTile b x t).oscTrim = d.oscTrim := rfl
@[simp] theorem Dev.setTile_fresh (b x : Nat) (t : Tile) : (d.setTile b x t).fresh = d.fresh := rfl
@[simp] theorem Dev.setTile_busData (b x : Nat) (t : Tile) : (d.setTile b x t).busData = d.busData := rfl
@[simp] theorem Dev.setTile_latch (b x : Nat) (t : Tile) : (d.setTile b x t).latch = d.latch := rfl
@[simp] theorem Dev.setTile_busHeld (b x : Nat) (t : Tile) : (d.setTile b x t).busHeld = d.busHeld := rfl
@[simp] theorem Dev.setTile_halves (b x : Nat) (t : Tile) : (d.setTile b x t).halves = d.halves := rfl
@[simp] theorem Dev.setTile_regions (b x : Nat) (t : Tile) : (d.setTile b x t).regions = d.regions := rfl
@[simp] theorem Dev.setTile_net (b x : Nat) (t : Tile) : (d.setTile b x t).net = d.net := rfl
@[simp] theorem Dev.setTile_seqs (b x : Nat) (t : Tile) : (d.setTile b x t).seqs = d.seqs := rfl
@[simp] theorem Dev.setTile_credits (b x : Nat) (t : Tile) : (d.setTile b x t).credits = d.credits := rfl
@[simp] theorem Dev.setTile_ports (b x : Nat) (t : Tile) : (d.setTile b x t).ports = d.ports := rfl
@[simp] theorem Dev.setTile_parents (b x : Nat) (t : Tile) : (d.setTile b x t).parents = d.parents := rfl
@[simp] theorem Dev.setTile_maps (b x : Nat) (t : Tile) : (d.setTile b x t).maps = d.maps := rfl
@[simp] theorem Dev.setTile_mapOver (b x : Nat) (t : Tile) : (d.setTile b x t).mapOver = d.mapOver := rfl
@[simp] theorem Dev.setTile_routeOver (b x : Nat) (t : Tile) : (d.setTile b x t).routeOver = d.routeOver := rfl
@[simp] theorem Dev.setTile_routed (b x : Nat) (t : Tile) : (d.setTile b x t).routed = d.routed := rfl
@[simp] theorem Dev.setTile_routers (b x : Nat) (t : Tile) : (d.setTile b x t).routers = d.routers := rfl
@[simp] theorem Dev.setTile_tapErrs (b x : Nat) (t : Tile) : (d.setTile b x t).tapErrs = d.tapErrs := rfl
@[simp] theorem Dev.setTile_coilErrs (b x : Nat) (t : Tile) : (d.setTile b x t).coilErrs = d.coilErrs := rfl
@[simp] theorem Dev.setTile_hbms (b x : Nat) (t : Tile) : (d.setTile b x t).hbms = d.hbms := rfl
@[simp] theorem Dev.setTile_winNext (b x : Nat) (t : Tile) : (d.setTile b x t).winNext = d.winNext := rfl
@[simp] theorem Dev.setTile_winChanges (b x : Nat) (t : Tile) : (d.setTile b x t).winChanges = d.winChanges := rfl
@[simp] theorem Dev.setTile_winWritten (b x : Nat) (t : Tile) : (d.setTile b x t).winWritten = d.winWritten := rfl
@[simp] theorem Dev.setTile_pwr (b x : Nat) (t : Tile) : (d.setTile b x t).pwr = d.pwr := rfl
@[simp] theorem Dev.setTile_cal (b x : Nat) (t : Tile) : (d.setTile b x t).cal = d.cal := rfl
@[simp] theorem Dev.setTile_factoryHash (b x : Nat) (t : Tile) : (d.setTile b x t).factoryHash = d.factoryHash := rfl
@[simp] theorem Dev.setTile_olinks (b x : Nat) (t : Tile) : (d.setTile b x t).olinks = d.olinks := rfl
@[simp] theorem Dev.setTile_lanes (b x : Nat) (t : Tile) : (d.setTile b x t).lanes = d.lanes := rfl
@[simp] theorem Dev.setTile_rings (b x : Nat) (t : Tile) : (d.setTile b x t).rings = d.rings := rfl
@[simp] theorem Dev.setTile_banks (b x : Nat) (t : Tile) : (d.setTile b x t).banks = d.banks := rfl
@[simp] theorem Dev.setTile_trainAt (b x : Nat) (t : Tile) : (d.setTile b x t).trainAt = d.trainAt := rfl
@[simp] theorem Dev.setTile_mods (b x : Nat) (t : Tile) : (d.setTile b x t).mods = d.mods := rfl
@[simp] theorem Dev.setTile_switches (b x : Nat) (t : Tile) : (d.setTile b x t).switches = d.switches := rfl
@[simp] theorem Dev.setTile_rehops (b x : Nat) (t : Tile) : (d.setTile b x t).rehops = d.rehops := rfl
@[simp] theorem Dev.setTile_yard (b x : Nat) (t : Tile) : (d.setTile b x t).yard = d.yard := rfl
@[simp] theorem Dev.setTile_sent (b x : Nat) (t : Tile) : (d.setTile b x t).sent = d.sent := rfl
@[simp] theorem Dev.setTile_fwdSince (b x : Nat) (t : Tile) : (d.setTile b x t).fwdSince = d.fwdSince := rfl
@[simp] theorem Dev.setTile_replaceDue (b x : Nat) (t : Tile) : (d.setTile b x t).replaceDue = d.replaceDue := rfl
@[simp] theorem Dev.setTile_rewriting (b x : Nat) (t : Tile) : (d.setTile b x t).rewriting = d.rewriting := rfl
@[simp] theorem Dev.setTile_farTests (b x : Nat) (t : Tile) : (d.setTile b x t).farTests = d.farTests := rfl
@[simp] theorem Dev.setTile_farLast (b x : Nat) (t : Tile) : (d.setTile b x t).farLast = d.farLast := rfl
@[simp] theorem Dev.setTile_hangLast (b x : Nat) (t : Tile) : (d.setTile b x t).hangLast = d.hangLast := rfl
@[simp] theorem Dev.setTile_hangA (b x : Nat) (t : Tile) : (d.setTile b x t).hangA = d.hangA := rfl
@[simp] theorem Dev.setTile_hangGen (b x : Nat) (t : Tile) : (d.setTile b x t).hangGen = d.hangGen := rfl
@[simp] theorem Dev.setTile_rm (b x : Nat) (t : Tile) : (d.setTile b x t).rm = d.rm := rfl
@[simp] theorem Dev.setTile_act (b x : Nat) (t : Tile) : (d.setTile b x t).act = d.act := rfl
@[simp] theorem Dev.setTile_stopping (b x : Nat) (t : Tile) : (d.setTile b x t).stopping = d.stopping := rfl
@[simp] theorem Dev.setTile_qps (b x : Nat) (t : Tile) : (d.setTile b x t).qps = d.qps := rfl
@[simp] theorem Dev.setTile_reads (b x : Nat) (t : Tile) : (d.setTile b x t).reads = d.reads := rfl
@[simp] theorem Dev.setTile_hostOps (b x : Nat) (t : Tile) : (d.setTile b x t).hostOps = d.hostOps := rfl
@[simp] theorem Dev.setTile_eth (b x : Nat) (t : Tile) : (d.setTile b x t).eth = d.eth := rfl
@[simp] theorem Dev.setTile_svc (b x : Nat) (t : Tile) : (d.setTile b x t).svc = d.svc := rfl
@[simp] theorem Dev.setTile_start (b x : Nat) (t : Tile) : (d.setTile b x t).start = d.start := rfl
@[simp] theorem Dev.setTile_vloftEn (b x : Nat) (t : Tile) : (d.setTile b x t).vloftEn = d.vloftEn := rfl
@[simp] theorem Dev.setTile_generation (b x : Nat) (t : Tile) : (d.setTile b x t).generation = d.generation := rfl
@[simp] theorem Dev.setTile_peerShape (b x : Nat) (t : Tile) : (d.setTile b x t).peerShape = d.peerShape := rfl
@[simp] theorem Dev.setTile_barred (b x : Nat) (t : Tile) : (d.setTile b x t).barred = d.barred := rfl
@[simp] theorem Dev.setTile_barnsIn (b x : Nat) (t : Tile) : (d.setTile b x t).barnsIn = d.barnsIn := rfl

/-! setHalf -/

@[simp] theorem Dev.setHalf_regs (h : Nat) (v : Half) : (d.setHalf h v).regs = d.regs := rfl
@[simp] theorem Dev.setHalf_mem (h : Nat) (v : Half) : (d.setHalf h v).mem = d.mem := rfl
@[simp] theorem Dev.setHalf_poison (h : Nat) (v : Half) : (d.setHalf h v).poison = d.poison := rfl
@[simp] theorem Dev.setHalf_soft (h : Nat) (v : Half) : (d.setHalf h v).soft = d.soft := rfl
@[simp] theorem Dev.setHalf_sramErrs (h : Nat) (v : Half) : (d.setHalf h v).sramErrs = d.sramErrs := rfl
@[simp] theorem Dev.setHalf_ops (h : Nat) (v : Half) : (d.setHalf h v).ops = d.ops := rfl
@[simp] theorem Dev.setHalf_beat (h : Nat) (v : Half) : (d.setHalf h v).beat = d.beat := rfl
@[simp] theorem Dev.setHalf_counting (h : Nat) (v : Half) : (d.setHalf h v).counting = d.counting := rfl
@[simp] theorem Dev.setHalf_holdLeft (h : Nat) (v : Half) : (d.setHalf h v).holdLeft = d.holdLeft := rfl
@[simp] theorem Dev.setHalf_aligned (h : Nat) (v : Half) : (d.setHalf h v).aligned = d.aligned := rfl
@[simp] theorem Dev.setHalf_returnPend (h : Nat) (v : Half) : (d.setHalf h v).returnPend = d.returnPend := rfl
@[simp] theorem Dev.setHalf_oscTrim (h : Nat) (v : Half) : (d.setHalf h v).oscTrim = d.oscTrim := rfl
@[simp] theorem Dev.setHalf_fresh (h : Nat) (v : Half) : (d.setHalf h v).fresh = d.fresh := rfl
@[simp] theorem Dev.setHalf_busData (h : Nat) (v : Half) : (d.setHalf h v).busData = d.busData := rfl
@[simp] theorem Dev.setHalf_latch (h : Nat) (v : Half) : (d.setHalf h v).latch = d.latch := rfl
@[simp] theorem Dev.setHalf_busHeld (h : Nat) (v : Half) : (d.setHalf h v).busHeld = d.busHeld := rfl
@[simp] theorem Dev.setHalf_regions (h : Nat) (v : Half) : (d.setHalf h v).regions = d.regions := rfl
@[simp] theorem Dev.setHalf_tiles (h : Nat) (v : Half) : (d.setHalf h v).tiles = d.tiles := rfl
@[simp] theorem Dev.setHalf_net (h : Nat) (v : Half) : (d.setHalf h v).net = d.net := rfl
@[simp] theorem Dev.setHalf_seqs (h : Nat) (v : Half) : (d.setHalf h v).seqs = d.seqs := rfl
@[simp] theorem Dev.setHalf_credits (h : Nat) (v : Half) : (d.setHalf h v).credits = d.credits := rfl
@[simp] theorem Dev.setHalf_ports (h : Nat) (v : Half) : (d.setHalf h v).ports = d.ports := rfl
@[simp] theorem Dev.setHalf_parents (h : Nat) (v : Half) : (d.setHalf h v).parents = d.parents := rfl
@[simp] theorem Dev.setHalf_maps (h : Nat) (v : Half) : (d.setHalf h v).maps = d.maps := rfl
@[simp] theorem Dev.setHalf_mapOver (h : Nat) (v : Half) : (d.setHalf h v).mapOver = d.mapOver := rfl
@[simp] theorem Dev.setHalf_routeOver (h : Nat) (v : Half) : (d.setHalf h v).routeOver = d.routeOver := rfl
@[simp] theorem Dev.setHalf_routed (h : Nat) (v : Half) : (d.setHalf h v).routed = d.routed := rfl
@[simp] theorem Dev.setHalf_routers (h : Nat) (v : Half) : (d.setHalf h v).routers = d.routers := rfl
@[simp] theorem Dev.setHalf_tapErrs (h : Nat) (v : Half) : (d.setHalf h v).tapErrs = d.tapErrs := rfl
@[simp] theorem Dev.setHalf_coilErrs (h : Nat) (v : Half) : (d.setHalf h v).coilErrs = d.coilErrs := rfl
@[simp] theorem Dev.setHalf_hbms (h : Nat) (v : Half) : (d.setHalf h v).hbms = d.hbms := rfl
@[simp] theorem Dev.setHalf_winNext (h : Nat) (v : Half) : (d.setHalf h v).winNext = d.winNext := rfl
@[simp] theorem Dev.setHalf_winChanges (h : Nat) (v : Half) : (d.setHalf h v).winChanges = d.winChanges := rfl
@[simp] theorem Dev.setHalf_winWritten (h : Nat) (v : Half) : (d.setHalf h v).winWritten = d.winWritten := rfl
@[simp] theorem Dev.setHalf_pwr (h : Nat) (v : Half) : (d.setHalf h v).pwr = d.pwr := rfl
@[simp] theorem Dev.setHalf_cal (h : Nat) (v : Half) : (d.setHalf h v).cal = d.cal := rfl
@[simp] theorem Dev.setHalf_factoryHash (h : Nat) (v : Half) : (d.setHalf h v).factoryHash = d.factoryHash := rfl
@[simp] theorem Dev.setHalf_olinks (h : Nat) (v : Half) : (d.setHalf h v).olinks = d.olinks := rfl
@[simp] theorem Dev.setHalf_lanes (h : Nat) (v : Half) : (d.setHalf h v).lanes = d.lanes := rfl
@[simp] theorem Dev.setHalf_rings (h : Nat) (v : Half) : (d.setHalf h v).rings = d.rings := rfl
@[simp] theorem Dev.setHalf_banks (h : Nat) (v : Half) : (d.setHalf h v).banks = d.banks := rfl
@[simp] theorem Dev.setHalf_trainAt (h : Nat) (v : Half) : (d.setHalf h v).trainAt = d.trainAt := rfl
@[simp] theorem Dev.setHalf_mods (h : Nat) (v : Half) : (d.setHalf h v).mods = d.mods := rfl
@[simp] theorem Dev.setHalf_switches (h : Nat) (v : Half) : (d.setHalf h v).switches = d.switches := rfl
@[simp] theorem Dev.setHalf_rehops (h : Nat) (v : Half) : (d.setHalf h v).rehops = d.rehops := rfl
@[simp] theorem Dev.setHalf_yard (h : Nat) (v : Half) : (d.setHalf h v).yard = d.yard := rfl
@[simp] theorem Dev.setHalf_sent (h : Nat) (v : Half) : (d.setHalf h v).sent = d.sent := rfl
@[simp] theorem Dev.setHalf_fwdSince (h : Nat) (v : Half) : (d.setHalf h v).fwdSince = d.fwdSince := rfl
@[simp] theorem Dev.setHalf_replaceDue (h : Nat) (v : Half) : (d.setHalf h v).replaceDue = d.replaceDue := rfl
@[simp] theorem Dev.setHalf_rewriting (h : Nat) (v : Half) : (d.setHalf h v).rewriting = d.rewriting := rfl
@[simp] theorem Dev.setHalf_farTests (h : Nat) (v : Half) : (d.setHalf h v).farTests = d.farTests := rfl
@[simp] theorem Dev.setHalf_farLast (h : Nat) (v : Half) : (d.setHalf h v).farLast = d.farLast := rfl
@[simp] theorem Dev.setHalf_hangLast (h : Nat) (v : Half) : (d.setHalf h v).hangLast = d.hangLast := rfl
@[simp] theorem Dev.setHalf_hangA (h : Nat) (v : Half) : (d.setHalf h v).hangA = d.hangA := rfl
@[simp] theorem Dev.setHalf_hangGen (h : Nat) (v : Half) : (d.setHalf h v).hangGen = d.hangGen := rfl
@[simp] theorem Dev.setHalf_rm (h : Nat) (v : Half) : (d.setHalf h v).rm = d.rm := rfl
@[simp] theorem Dev.setHalf_act (h : Nat) (v : Half) : (d.setHalf h v).act = d.act := rfl
@[simp] theorem Dev.setHalf_stopping (h : Nat) (v : Half) : (d.setHalf h v).stopping = d.stopping := rfl
@[simp] theorem Dev.setHalf_qps (h : Nat) (v : Half) : (d.setHalf h v).qps = d.qps := rfl
@[simp] theorem Dev.setHalf_reads (h : Nat) (v : Half) : (d.setHalf h v).reads = d.reads := rfl
@[simp] theorem Dev.setHalf_hostOps (h : Nat) (v : Half) : (d.setHalf h v).hostOps = d.hostOps := rfl
@[simp] theorem Dev.setHalf_eth (h : Nat) (v : Half) : (d.setHalf h v).eth = d.eth := rfl
@[simp] theorem Dev.setHalf_svc (h : Nat) (v : Half) : (d.setHalf h v).svc = d.svc := rfl
@[simp] theorem Dev.setHalf_start (h : Nat) (v : Half) : (d.setHalf h v).start = d.start := rfl
@[simp] theorem Dev.setHalf_vloftEn (h : Nat) (v : Half) : (d.setHalf h v).vloftEn = d.vloftEn := rfl
@[simp] theorem Dev.setHalf_generation (h : Nat) (v : Half) : (d.setHalf h v).generation = d.generation := rfl
@[simp] theorem Dev.setHalf_peerShape (h : Nat) (v : Half) : (d.setHalf h v).peerShape = d.peerShape := rfl
@[simp] theorem Dev.setHalf_barred (h : Nat) (v : Half) : (d.setHalf h v).barred = d.barred := rfl
@[simp] theorem Dev.setHalf_barnsIn (h : Nat) (v : Half) : (d.setHalf h v).barnsIn = d.barnsIn := rfl

/-! setRegion -/

@[simp] theorem Dev.setRegion_regs (r : Nat) (v : Region) : (d.setRegion r v).regs = d.regs := rfl
@[simp] theorem Dev.setRegion_mem (r : Nat) (v : Region) : (d.setRegion r v).mem = d.mem := rfl
@[simp] theorem Dev.setRegion_poison (r : Nat) (v : Region) : (d.setRegion r v).poison = d.poison := rfl
@[simp] theorem Dev.setRegion_soft (r : Nat) (v : Region) : (d.setRegion r v).soft = d.soft := rfl
@[simp] theorem Dev.setRegion_sramErrs (r : Nat) (v : Region) : (d.setRegion r v).sramErrs = d.sramErrs := rfl
@[simp] theorem Dev.setRegion_ops (r : Nat) (v : Region) : (d.setRegion r v).ops = d.ops := rfl
@[simp] theorem Dev.setRegion_beat (r : Nat) (v : Region) : (d.setRegion r v).beat = d.beat := rfl
@[simp] theorem Dev.setRegion_counting (r : Nat) (v : Region) : (d.setRegion r v).counting = d.counting := rfl
@[simp] theorem Dev.setRegion_holdLeft (r : Nat) (v : Region) : (d.setRegion r v).holdLeft = d.holdLeft := rfl
@[simp] theorem Dev.setRegion_aligned (r : Nat) (v : Region) : (d.setRegion r v).aligned = d.aligned := rfl
@[simp] theorem Dev.setRegion_returnPend (r : Nat) (v : Region) : (d.setRegion r v).returnPend = d.returnPend := rfl
@[simp] theorem Dev.setRegion_oscTrim (r : Nat) (v : Region) : (d.setRegion r v).oscTrim = d.oscTrim := rfl
@[simp] theorem Dev.setRegion_fresh (r : Nat) (v : Region) : (d.setRegion r v).fresh = d.fresh := rfl
@[simp] theorem Dev.setRegion_busData (r : Nat) (v : Region) : (d.setRegion r v).busData = d.busData := rfl
@[simp] theorem Dev.setRegion_latch (r : Nat) (v : Region) : (d.setRegion r v).latch = d.latch := rfl
@[simp] theorem Dev.setRegion_busHeld (r : Nat) (v : Region) : (d.setRegion r v).busHeld = d.busHeld := rfl
@[simp] theorem Dev.setRegion_halves (r : Nat) (v : Region) : (d.setRegion r v).halves = d.halves := rfl
@[simp] theorem Dev.setRegion_tiles (r : Nat) (v : Region) : (d.setRegion r v).tiles = d.tiles := rfl
@[simp] theorem Dev.setRegion_net (r : Nat) (v : Region) : (d.setRegion r v).net = d.net := rfl
@[simp] theorem Dev.setRegion_seqs (r : Nat) (v : Region) : (d.setRegion r v).seqs = d.seqs := rfl
@[simp] theorem Dev.setRegion_credits (r : Nat) (v : Region) : (d.setRegion r v).credits = d.credits := rfl
@[simp] theorem Dev.setRegion_ports (r : Nat) (v : Region) : (d.setRegion r v).ports = d.ports := rfl
@[simp] theorem Dev.setRegion_parents (r : Nat) (v : Region) : (d.setRegion r v).parents = d.parents := rfl
@[simp] theorem Dev.setRegion_maps (r : Nat) (v : Region) : (d.setRegion r v).maps = d.maps := rfl
@[simp] theorem Dev.setRegion_mapOver (r : Nat) (v : Region) : (d.setRegion r v).mapOver = d.mapOver := rfl
@[simp] theorem Dev.setRegion_routeOver (r : Nat) (v : Region) : (d.setRegion r v).routeOver = d.routeOver := rfl
@[simp] theorem Dev.setRegion_routed (r : Nat) (v : Region) : (d.setRegion r v).routed = d.routed := rfl
@[simp] theorem Dev.setRegion_routers (r : Nat) (v : Region) : (d.setRegion r v).routers = d.routers := rfl
@[simp] theorem Dev.setRegion_tapErrs (r : Nat) (v : Region) : (d.setRegion r v).tapErrs = d.tapErrs := rfl
@[simp] theorem Dev.setRegion_coilErrs (r : Nat) (v : Region) : (d.setRegion r v).coilErrs = d.coilErrs := rfl
@[simp] theorem Dev.setRegion_hbms (r : Nat) (v : Region) : (d.setRegion r v).hbms = d.hbms := rfl
@[simp] theorem Dev.setRegion_winNext (r : Nat) (v : Region) : (d.setRegion r v).winNext = d.winNext := rfl
@[simp] theorem Dev.setRegion_winChanges (r : Nat) (v : Region) : (d.setRegion r v).winChanges = d.winChanges := rfl
@[simp] theorem Dev.setRegion_winWritten (r : Nat) (v : Region) : (d.setRegion r v).winWritten = d.winWritten := rfl
@[simp] theorem Dev.setRegion_pwr (r : Nat) (v : Region) : (d.setRegion r v).pwr = d.pwr := rfl
@[simp] theorem Dev.setRegion_cal (r : Nat) (v : Region) : (d.setRegion r v).cal = d.cal := rfl
@[simp] theorem Dev.setRegion_factoryHash (r : Nat) (v : Region) : (d.setRegion r v).factoryHash = d.factoryHash := rfl
@[simp] theorem Dev.setRegion_olinks (r : Nat) (v : Region) : (d.setRegion r v).olinks = d.olinks := rfl
@[simp] theorem Dev.setRegion_lanes (r : Nat) (v : Region) : (d.setRegion r v).lanes = d.lanes := rfl
@[simp] theorem Dev.setRegion_rings (r : Nat) (v : Region) : (d.setRegion r v).rings = d.rings := rfl
@[simp] theorem Dev.setRegion_banks (r : Nat) (v : Region) : (d.setRegion r v).banks = d.banks := rfl
@[simp] theorem Dev.setRegion_trainAt (r : Nat) (v : Region) : (d.setRegion r v).trainAt = d.trainAt := rfl
@[simp] theorem Dev.setRegion_mods (r : Nat) (v : Region) : (d.setRegion r v).mods = d.mods := rfl
@[simp] theorem Dev.setRegion_switches (r : Nat) (v : Region) : (d.setRegion r v).switches = d.switches := rfl
@[simp] theorem Dev.setRegion_rehops (r : Nat) (v : Region) : (d.setRegion r v).rehops = d.rehops := rfl
@[simp] theorem Dev.setRegion_yard (r : Nat) (v : Region) : (d.setRegion r v).yard = d.yard := rfl
@[simp] theorem Dev.setRegion_sent (r : Nat) (v : Region) : (d.setRegion r v).sent = d.sent := rfl
@[simp] theorem Dev.setRegion_fwdSince (r : Nat) (v : Region) : (d.setRegion r v).fwdSince = d.fwdSince := rfl
@[simp] theorem Dev.setRegion_replaceDue (r : Nat) (v : Region) : (d.setRegion r v).replaceDue = d.replaceDue := rfl
@[simp] theorem Dev.setRegion_rewriting (r : Nat) (v : Region) : (d.setRegion r v).rewriting = d.rewriting := rfl
@[simp] theorem Dev.setRegion_farTests (r : Nat) (v : Region) : (d.setRegion r v).farTests = d.farTests := rfl
@[simp] theorem Dev.setRegion_farLast (r : Nat) (v : Region) : (d.setRegion r v).farLast = d.farLast := rfl
@[simp] theorem Dev.setRegion_hangLast (r : Nat) (v : Region) : (d.setRegion r v).hangLast = d.hangLast := rfl
@[simp] theorem Dev.setRegion_hangA (r : Nat) (v : Region) : (d.setRegion r v).hangA = d.hangA := rfl
@[simp] theorem Dev.setRegion_hangGen (r : Nat) (v : Region) : (d.setRegion r v).hangGen = d.hangGen := rfl
@[simp] theorem Dev.setRegion_rm (r : Nat) (v : Region) : (d.setRegion r v).rm = d.rm := rfl
@[simp] theorem Dev.setRegion_act (r : Nat) (v : Region) : (d.setRegion r v).act = d.act := rfl
@[simp] theorem Dev.setRegion_stopping (r : Nat) (v : Region) : (d.setRegion r v).stopping = d.stopping := rfl
@[simp] theorem Dev.setRegion_qps (r : Nat) (v : Region) : (d.setRegion r v).qps = d.qps := rfl
@[simp] theorem Dev.setRegion_reads (r : Nat) (v : Region) : (d.setRegion r v).reads = d.reads := rfl
@[simp] theorem Dev.setRegion_hostOps (r : Nat) (v : Region) : (d.setRegion r v).hostOps = d.hostOps := rfl
@[simp] theorem Dev.setRegion_eth (r : Nat) (v : Region) : (d.setRegion r v).eth = d.eth := rfl
@[simp] theorem Dev.setRegion_svc (r : Nat) (v : Region) : (d.setRegion r v).svc = d.svc := rfl
@[simp] theorem Dev.setRegion_start (r : Nat) (v : Region) : (d.setRegion r v).start = d.start := rfl
@[simp] theorem Dev.setRegion_vloftEn (r : Nat) (v : Region) : (d.setRegion r v).vloftEn = d.vloftEn := rfl
@[simp] theorem Dev.setRegion_generation (r : Nat) (v : Region) : (d.setRegion r v).generation = d.generation := rfl
@[simp] theorem Dev.setRegion_peerShape (r : Nat) (v : Region) : (d.setRegion r v).peerShape = d.peerShape := rfl
@[simp] theorem Dev.setRegion_barred (r : Nat) (v : Region) : (d.setRegion r v).barred = d.barred := rfl
@[simp] theorem Dev.setRegion_barnsIn (r : Nat) (v : Region) : (d.setRegion r v).barnsIn = d.barnsIn := rfl

/-! send -/

@[simp] theorem Dev.send_regs (p : Place) (k : Packet) : (d.send p k).regs = d.regs := rfl
@[simp] theorem Dev.send_mem (p : Place) (k : Packet) : (d.send p k).mem = d.mem := rfl
@[simp] theorem Dev.send_poison (p : Place) (k : Packet) : (d.send p k).poison = d.poison := rfl
@[simp] theorem Dev.send_soft (p : Place) (k : Packet) : (d.send p k).soft = d.soft := rfl
@[simp] theorem Dev.send_sramErrs (p : Place) (k : Packet) : (d.send p k).sramErrs = d.sramErrs := rfl
@[simp] theorem Dev.send_ops (p : Place) (k : Packet) : (d.send p k).ops = d.ops := rfl
@[simp] theorem Dev.send_beat (p : Place) (k : Packet) : (d.send p k).beat = d.beat := rfl
@[simp] theorem Dev.send_counting (p : Place) (k : Packet) : (d.send p k).counting = d.counting := rfl
@[simp] theorem Dev.send_holdLeft (p : Place) (k : Packet) : (d.send p k).holdLeft = d.holdLeft := rfl
@[simp] theorem Dev.send_aligned (p : Place) (k : Packet) : (d.send p k).aligned = d.aligned := rfl
@[simp] theorem Dev.send_returnPend (p : Place) (k : Packet) : (d.send p k).returnPend = d.returnPend := rfl
@[simp] theorem Dev.send_oscTrim (p : Place) (k : Packet) : (d.send p k).oscTrim = d.oscTrim := rfl
@[simp] theorem Dev.send_fresh (p : Place) (k : Packet) : (d.send p k).fresh = d.fresh := rfl
@[simp] theorem Dev.send_busData (p : Place) (k : Packet) : (d.send p k).busData = d.busData := rfl
@[simp] theorem Dev.send_latch (p : Place) (k : Packet) : (d.send p k).latch = d.latch := rfl
@[simp] theorem Dev.send_busHeld (p : Place) (k : Packet) : (d.send p k).busHeld = d.busHeld := rfl
@[simp] theorem Dev.send_halves (p : Place) (k : Packet) : (d.send p k).halves = d.halves := rfl
@[simp] theorem Dev.send_regions (p : Place) (k : Packet) : (d.send p k).regions = d.regions := rfl
@[simp] theorem Dev.send_tiles (p : Place) (k : Packet) : (d.send p k).tiles = d.tiles := rfl
@[simp] theorem Dev.send_seqs (p : Place) (k : Packet) : (d.send p k).seqs = d.seqs := rfl
@[simp] theorem Dev.send_credits (p : Place) (k : Packet) : (d.send p k).credits = d.credits := rfl
@[simp] theorem Dev.send_ports (p : Place) (k : Packet) : (d.send p k).ports = d.ports := rfl
@[simp] theorem Dev.send_parents (p : Place) (k : Packet) : (d.send p k).parents = d.parents := rfl
@[simp] theorem Dev.send_maps (p : Place) (k : Packet) : (d.send p k).maps = d.maps := rfl
@[simp] theorem Dev.send_mapOver (p : Place) (k : Packet) : (d.send p k).mapOver = d.mapOver := rfl
@[simp] theorem Dev.send_routeOver (p : Place) (k : Packet) : (d.send p k).routeOver = d.routeOver := rfl
@[simp] theorem Dev.send_routed (p : Place) (k : Packet) : (d.send p k).routed = d.routed := rfl
@[simp] theorem Dev.send_routers (p : Place) (k : Packet) : (d.send p k).routers = d.routers := rfl
@[simp] theorem Dev.send_tapErrs (p : Place) (k : Packet) : (d.send p k).tapErrs = d.tapErrs := rfl
@[simp] theorem Dev.send_coilErrs (p : Place) (k : Packet) : (d.send p k).coilErrs = d.coilErrs := rfl
@[simp] theorem Dev.send_hbms (p : Place) (k : Packet) : (d.send p k).hbms = d.hbms := rfl
@[simp] theorem Dev.send_winNext (p : Place) (k : Packet) : (d.send p k).winNext = d.winNext := rfl
@[simp] theorem Dev.send_winChanges (p : Place) (k : Packet) : (d.send p k).winChanges = d.winChanges := rfl
@[simp] theorem Dev.send_winWritten (p : Place) (k : Packet) : (d.send p k).winWritten = d.winWritten := rfl
@[simp] theorem Dev.send_pwr (p : Place) (k : Packet) : (d.send p k).pwr = d.pwr := rfl
@[simp] theorem Dev.send_cal (p : Place) (k : Packet) : (d.send p k).cal = d.cal := rfl
@[simp] theorem Dev.send_factoryHash (p : Place) (k : Packet) : (d.send p k).factoryHash = d.factoryHash := rfl
@[simp] theorem Dev.send_olinks (p : Place) (k : Packet) : (d.send p k).olinks = d.olinks := rfl
@[simp] theorem Dev.send_lanes (p : Place) (k : Packet) : (d.send p k).lanes = d.lanes := rfl
@[simp] theorem Dev.send_rings (p : Place) (k : Packet) : (d.send p k).rings = d.rings := rfl
@[simp] theorem Dev.send_banks (p : Place) (k : Packet) : (d.send p k).banks = d.banks := rfl
@[simp] theorem Dev.send_trainAt (p : Place) (k : Packet) : (d.send p k).trainAt = d.trainAt := rfl
@[simp] theorem Dev.send_mods (p : Place) (k : Packet) : (d.send p k).mods = d.mods := rfl
@[simp] theorem Dev.send_switches (p : Place) (k : Packet) : (d.send p k).switches = d.switches := rfl
@[simp] theorem Dev.send_rehops (p : Place) (k : Packet) : (d.send p k).rehops = d.rehops := rfl
@[simp] theorem Dev.send_yard (p : Place) (k : Packet) : (d.send p k).yard = d.yard := rfl
@[simp] theorem Dev.send_sent (p : Place) (k : Packet) : (d.send p k).sent = d.sent := rfl
@[simp] theorem Dev.send_fwdSince (p : Place) (k : Packet) : (d.send p k).fwdSince = d.fwdSince := rfl
@[simp] theorem Dev.send_replaceDue (p : Place) (k : Packet) : (d.send p k).replaceDue = d.replaceDue := rfl
@[simp] theorem Dev.send_rewriting (p : Place) (k : Packet) : (d.send p k).rewriting = d.rewriting := rfl
@[simp] theorem Dev.send_farTests (p : Place) (k : Packet) : (d.send p k).farTests = d.farTests := rfl
@[simp] theorem Dev.send_farLast (p : Place) (k : Packet) : (d.send p k).farLast = d.farLast := rfl
@[simp] theorem Dev.send_hangLast (p : Place) (k : Packet) : (d.send p k).hangLast = d.hangLast := rfl
@[simp] theorem Dev.send_hangA (p : Place) (k : Packet) : (d.send p k).hangA = d.hangA := rfl
@[simp] theorem Dev.send_hangGen (p : Place) (k : Packet) : (d.send p k).hangGen = d.hangGen := rfl
@[simp] theorem Dev.send_rm (p : Place) (k : Packet) : (d.send p k).rm = d.rm := rfl
@[simp] theorem Dev.send_act (p : Place) (k : Packet) : (d.send p k).act = d.act := rfl
@[simp] theorem Dev.send_stopping (p : Place) (k : Packet) : (d.send p k).stopping = d.stopping := rfl
@[simp] theorem Dev.send_qps (p : Place) (k : Packet) : (d.send p k).qps = d.qps := rfl
@[simp] theorem Dev.send_reads (p : Place) (k : Packet) : (d.send p k).reads = d.reads := rfl
@[simp] theorem Dev.send_hostOps (p : Place) (k : Packet) : (d.send p k).hostOps = d.hostOps := rfl
@[simp] theorem Dev.send_eth (p : Place) (k : Packet) : (d.send p k).eth = d.eth := rfl
@[simp] theorem Dev.send_svc (p : Place) (k : Packet) : (d.send p k).svc = d.svc := rfl
@[simp] theorem Dev.send_start (p : Place) (k : Packet) : (d.send p k).start = d.start := rfl
@[simp] theorem Dev.send_vloftEn (p : Place) (k : Packet) : (d.send p k).vloftEn = d.vloftEn := rfl
@[simp] theorem Dev.send_generation (p : Place) (k : Packet) : (d.send p k).generation = d.generation := rfl
@[simp] theorem Dev.send_peerShape (p : Place) (k : Packet) : (d.send p k).peerShape = d.peerShape := rfl
@[simp] theorem Dev.send_barred (p : Place) (k : Packet) : (d.send p k).barred = d.barred := rfl
@[simp] theorem Dev.send_barnsIn (p : Place) (k : Packet) : (d.send p k).barnsIn = d.barnsIn := rfl

/-! take -/

@[simp] theorem Dev.take_regs (p : Place) (k : Packet) : (d.take p k).regs = d.regs := rfl
@[simp] theorem Dev.take_mem (p : Place) (k : Packet) : (d.take p k).mem = d.mem := rfl
@[simp] theorem Dev.take_poison (p : Place) (k : Packet) : (d.take p k).poison = d.poison := rfl
@[simp] theorem Dev.take_soft (p : Place) (k : Packet) : (d.take p k).soft = d.soft := rfl
@[simp] theorem Dev.take_sramErrs (p : Place) (k : Packet) : (d.take p k).sramErrs = d.sramErrs := rfl
@[simp] theorem Dev.take_ops (p : Place) (k : Packet) : (d.take p k).ops = d.ops := rfl
@[simp] theorem Dev.take_beat (p : Place) (k : Packet) : (d.take p k).beat = d.beat := rfl
@[simp] theorem Dev.take_counting (p : Place) (k : Packet) : (d.take p k).counting = d.counting := rfl
@[simp] theorem Dev.take_holdLeft (p : Place) (k : Packet) : (d.take p k).holdLeft = d.holdLeft := rfl
@[simp] theorem Dev.take_aligned (p : Place) (k : Packet) : (d.take p k).aligned = d.aligned := rfl
@[simp] theorem Dev.take_returnPend (p : Place) (k : Packet) : (d.take p k).returnPend = d.returnPend := rfl
@[simp] theorem Dev.take_oscTrim (p : Place) (k : Packet) : (d.take p k).oscTrim = d.oscTrim := rfl
@[simp] theorem Dev.take_fresh (p : Place) (k : Packet) : (d.take p k).fresh = d.fresh := rfl
@[simp] theorem Dev.take_busData (p : Place) (k : Packet) : (d.take p k).busData = d.busData := rfl
@[simp] theorem Dev.take_latch (p : Place) (k : Packet) : (d.take p k).latch = d.latch := rfl
@[simp] theorem Dev.take_busHeld (p : Place) (k : Packet) : (d.take p k).busHeld = d.busHeld := rfl
@[simp] theorem Dev.take_halves (p : Place) (k : Packet) : (d.take p k).halves = d.halves := rfl
@[simp] theorem Dev.take_regions (p : Place) (k : Packet) : (d.take p k).regions = d.regions := rfl
@[simp] theorem Dev.take_tiles (p : Place) (k : Packet) : (d.take p k).tiles = d.tiles := rfl
@[simp] theorem Dev.take_seqs (p : Place) (k : Packet) : (d.take p k).seqs = d.seqs := rfl
@[simp] theorem Dev.take_credits (p : Place) (k : Packet) : (d.take p k).credits = d.credits := rfl
@[simp] theorem Dev.take_ports (p : Place) (k : Packet) : (d.take p k).ports = d.ports := rfl
@[simp] theorem Dev.take_parents (p : Place) (k : Packet) : (d.take p k).parents = d.parents := rfl
@[simp] theorem Dev.take_maps (p : Place) (k : Packet) : (d.take p k).maps = d.maps := rfl
@[simp] theorem Dev.take_mapOver (p : Place) (k : Packet) : (d.take p k).mapOver = d.mapOver := rfl
@[simp] theorem Dev.take_routeOver (p : Place) (k : Packet) : (d.take p k).routeOver = d.routeOver := rfl
@[simp] theorem Dev.take_routed (p : Place) (k : Packet) : (d.take p k).routed = d.routed := rfl
@[simp] theorem Dev.take_routers (p : Place) (k : Packet) : (d.take p k).routers = d.routers := rfl
@[simp] theorem Dev.take_tapErrs (p : Place) (k : Packet) : (d.take p k).tapErrs = d.tapErrs := rfl
@[simp] theorem Dev.take_coilErrs (p : Place) (k : Packet) : (d.take p k).coilErrs = d.coilErrs := rfl
@[simp] theorem Dev.take_hbms (p : Place) (k : Packet) : (d.take p k).hbms = d.hbms := rfl
@[simp] theorem Dev.take_winNext (p : Place) (k : Packet) : (d.take p k).winNext = d.winNext := rfl
@[simp] theorem Dev.take_winChanges (p : Place) (k : Packet) : (d.take p k).winChanges = d.winChanges := rfl
@[simp] theorem Dev.take_winWritten (p : Place) (k : Packet) : (d.take p k).winWritten = d.winWritten := rfl
@[simp] theorem Dev.take_pwr (p : Place) (k : Packet) : (d.take p k).pwr = d.pwr := rfl
@[simp] theorem Dev.take_cal (p : Place) (k : Packet) : (d.take p k).cal = d.cal := rfl
@[simp] theorem Dev.take_factoryHash (p : Place) (k : Packet) : (d.take p k).factoryHash = d.factoryHash := rfl
@[simp] theorem Dev.take_olinks (p : Place) (k : Packet) : (d.take p k).olinks = d.olinks := rfl
@[simp] theorem Dev.take_lanes (p : Place) (k : Packet) : (d.take p k).lanes = d.lanes := rfl
@[simp] theorem Dev.take_rings (p : Place) (k : Packet) : (d.take p k).rings = d.rings := rfl
@[simp] theorem Dev.take_banks (p : Place) (k : Packet) : (d.take p k).banks = d.banks := rfl
@[simp] theorem Dev.take_trainAt (p : Place) (k : Packet) : (d.take p k).trainAt = d.trainAt := rfl
@[simp] theorem Dev.take_mods (p : Place) (k : Packet) : (d.take p k).mods = d.mods := rfl
@[simp] theorem Dev.take_switches (p : Place) (k : Packet) : (d.take p k).switches = d.switches := rfl
@[simp] theorem Dev.take_rehops (p : Place) (k : Packet) : (d.take p k).rehops = d.rehops := rfl
@[simp] theorem Dev.take_yard (p : Place) (k : Packet) : (d.take p k).yard = d.yard := rfl
@[simp] theorem Dev.take_sent (p : Place) (k : Packet) : (d.take p k).sent = d.sent := rfl
@[simp] theorem Dev.take_fwdSince (p : Place) (k : Packet) : (d.take p k).fwdSince = d.fwdSince := rfl
@[simp] theorem Dev.take_replaceDue (p : Place) (k : Packet) : (d.take p k).replaceDue = d.replaceDue := rfl
@[simp] theorem Dev.take_rewriting (p : Place) (k : Packet) : (d.take p k).rewriting = d.rewriting := rfl
@[simp] theorem Dev.take_farTests (p : Place) (k : Packet) : (d.take p k).farTests = d.farTests := rfl
@[simp] theorem Dev.take_farLast (p : Place) (k : Packet) : (d.take p k).farLast = d.farLast := rfl
@[simp] theorem Dev.take_hangLast (p : Place) (k : Packet) : (d.take p k).hangLast = d.hangLast := rfl
@[simp] theorem Dev.take_hangA (p : Place) (k : Packet) : (d.take p k).hangA = d.hangA := rfl
@[simp] theorem Dev.take_hangGen (p : Place) (k : Packet) : (d.take p k).hangGen = d.hangGen := rfl
@[simp] theorem Dev.take_rm (p : Place) (k : Packet) : (d.take p k).rm = d.rm := rfl
@[simp] theorem Dev.take_act (p : Place) (k : Packet) : (d.take p k).act = d.act := rfl
@[simp] theorem Dev.take_stopping (p : Place) (k : Packet) : (d.take p k).stopping = d.stopping := rfl
@[simp] theorem Dev.take_qps (p : Place) (k : Packet) : (d.take p k).qps = d.qps := rfl
@[simp] theorem Dev.take_reads (p : Place) (k : Packet) : (d.take p k).reads = d.reads := rfl
@[simp] theorem Dev.take_hostOps (p : Place) (k : Packet) : (d.take p k).hostOps = d.hostOps := rfl
@[simp] theorem Dev.take_eth (p : Place) (k : Packet) : (d.take p k).eth = d.eth := rfl
@[simp] theorem Dev.take_svc (p : Place) (k : Packet) : (d.take p k).svc = d.svc := rfl
@[simp] theorem Dev.take_start (p : Place) (k : Packet) : (d.take p k).start = d.start := rfl
@[simp] theorem Dev.take_vloftEn (p : Place) (k : Packet) : (d.take p k).vloftEn = d.vloftEn := rfl
@[simp] theorem Dev.take_generation (p : Place) (k : Packet) : (d.take p k).generation = d.generation := rfl
@[simp] theorem Dev.take_peerShape (p : Place) (k : Packet) : (d.take p k).peerShape = d.peerShape := rfl
@[simp] theorem Dev.take_barred (p : Place) (k : Packet) : (d.take p k).barred = d.barred := rfl
@[simp] theorem Dev.take_barnsIn (p : Place) (k : Packet) : (d.take p k).barnsIn = d.barnsIn := rfl

/-! writeMarked -/

@[simp] theorem Dev.writeMarked_regs (a : Nat) (l : List Byte) (m : List Bool) : (d.writeMarked a l m).regs = d.regs := rfl
@[simp] theorem Dev.writeMarked_sramErrs (a : Nat) (l : List Byte) (m : List Bool) : (d.writeMarked a l m).sramErrs = d.sramErrs := rfl
@[simp] theorem Dev.writeMarked_ops (a : Nat) (l : List Byte) (m : List Bool) : (d.writeMarked a l m).ops = d.ops := rfl
@[simp] theorem Dev.writeMarked_beat (a : Nat) (l : List Byte) (m : List Bool) : (d.writeMarked a l m).beat = d.beat := rfl
@[simp] theorem Dev.writeMarked_counting (a : Nat) (l : List Byte) (m : List Bool) : (d.writeMarked a l m).counting = d.counting := rfl
@[simp] theorem Dev.writeMarked_holdLeft (a : Nat) (l : List Byte) (m : List Bool) : (d.writeMarked a l m).holdLeft = d.holdLeft := rfl
@[simp] theorem Dev.writeMarked_aligned (a : Nat) (l : List Byte) (m : List Bool) : (d.writeMarked a l m).aligned = d.aligned := rfl
@[simp] theorem Dev.writeMarked_returnPend (a : Nat) (l : List Byte) (m : List Bool) : (d.writeMarked a l m).returnPend = d.returnPend := rfl
@[simp] theorem Dev.writeMarked_oscTrim (a : Nat) (l : List Byte) (m : List Bool) : (d.writeMarked a l m).oscTrim = d.oscTrim := rfl
@[simp] theorem Dev.writeMarked_fresh (a : Nat) (l : List Byte) (m : List Bool) : (d.writeMarked a l m).fresh = d.fresh := rfl
@[simp] theorem Dev.writeMarked_busData (a : Nat) (l : List Byte) (m : List Bool) : (d.writeMarked a l m).busData = d.busData := rfl
@[simp] theorem Dev.writeMarked_latch (a : Nat) (l : List Byte) (m : List Bool) : (d.writeMarked a l m).latch = d.latch := rfl
@[simp] theorem Dev.writeMarked_busHeld (a : Nat) (l : List Byte) (m : List Bool) : (d.writeMarked a l m).busHeld = d.busHeld := rfl
@[simp] theorem Dev.writeMarked_halves (a : Nat) (l : List Byte) (m : List Bool) : (d.writeMarked a l m).halves = d.halves := rfl
@[simp] theorem Dev.writeMarked_regions (a : Nat) (l : List Byte) (m : List Bool) : (d.writeMarked a l m).regions = d.regions := rfl
@[simp] theorem Dev.writeMarked_tiles (a : Nat) (l : List Byte) (m : List Bool) : (d.writeMarked a l m).tiles = d.tiles := rfl
@[simp] theorem Dev.writeMarked_net (a : Nat) (l : List Byte) (m : List Bool) : (d.writeMarked a l m).net = d.net := rfl
@[simp] theorem Dev.writeMarked_seqs (a : Nat) (l : List Byte) (m : List Bool) : (d.writeMarked a l m).seqs = d.seqs := rfl
@[simp] theorem Dev.writeMarked_credits (a : Nat) (l : List Byte) (m : List Bool) : (d.writeMarked a l m).credits = d.credits := rfl
@[simp] theorem Dev.writeMarked_ports (a : Nat) (l : List Byte) (m : List Bool) : (d.writeMarked a l m).ports = d.ports := rfl
@[simp] theorem Dev.writeMarked_parents (a : Nat) (l : List Byte) (m : List Bool) : (d.writeMarked a l m).parents = d.parents := rfl
@[simp] theorem Dev.writeMarked_maps (a : Nat) (l : List Byte) (m : List Bool) : (d.writeMarked a l m).maps = d.maps := rfl
@[simp] theorem Dev.writeMarked_mapOver (a : Nat) (l : List Byte) (m : List Bool) : (d.writeMarked a l m).mapOver = d.mapOver := rfl
@[simp] theorem Dev.writeMarked_routeOver (a : Nat) (l : List Byte) (m : List Bool) : (d.writeMarked a l m).routeOver = d.routeOver := rfl
@[simp] theorem Dev.writeMarked_routed (a : Nat) (l : List Byte) (m : List Bool) : (d.writeMarked a l m).routed = d.routed := rfl
@[simp] theorem Dev.writeMarked_routers (a : Nat) (l : List Byte) (m : List Bool) : (d.writeMarked a l m).routers = d.routers := rfl
@[simp] theorem Dev.writeMarked_tapErrs (a : Nat) (l : List Byte) (m : List Bool) : (d.writeMarked a l m).tapErrs = d.tapErrs := rfl
@[simp] theorem Dev.writeMarked_coilErrs (a : Nat) (l : List Byte) (m : List Bool) : (d.writeMarked a l m).coilErrs = d.coilErrs := rfl
@[simp] theorem Dev.writeMarked_hbms (a : Nat) (l : List Byte) (m : List Bool) : (d.writeMarked a l m).hbms = d.hbms := rfl
@[simp] theorem Dev.writeMarked_winNext (a : Nat) (l : List Byte) (m : List Bool) : (d.writeMarked a l m).winNext = d.winNext := rfl
@[simp] theorem Dev.writeMarked_winChanges (a : Nat) (l : List Byte) (m : List Bool) : (d.writeMarked a l m).winChanges = d.winChanges := rfl
@[simp] theorem Dev.writeMarked_winWritten (a : Nat) (l : List Byte) (m : List Bool) : (d.writeMarked a l m).winWritten = d.winWritten := rfl
@[simp] theorem Dev.writeMarked_pwr (a : Nat) (l : List Byte) (m : List Bool) : (d.writeMarked a l m).pwr = d.pwr := rfl
@[simp] theorem Dev.writeMarked_cal (a : Nat) (l : List Byte) (m : List Bool) : (d.writeMarked a l m).cal = d.cal := rfl
@[simp] theorem Dev.writeMarked_factoryHash (a : Nat) (l : List Byte) (m : List Bool) : (d.writeMarked a l m).factoryHash = d.factoryHash := rfl
@[simp] theorem Dev.writeMarked_olinks (a : Nat) (l : List Byte) (m : List Bool) : (d.writeMarked a l m).olinks = d.olinks := rfl
@[simp] theorem Dev.writeMarked_lanes (a : Nat) (l : List Byte) (m : List Bool) : (d.writeMarked a l m).lanes = d.lanes := rfl
@[simp] theorem Dev.writeMarked_rings (a : Nat) (l : List Byte) (m : List Bool) : (d.writeMarked a l m).rings = d.rings := rfl
@[simp] theorem Dev.writeMarked_banks (a : Nat) (l : List Byte) (m : List Bool) : (d.writeMarked a l m).banks = d.banks := rfl
@[simp] theorem Dev.writeMarked_trainAt (a : Nat) (l : List Byte) (m : List Bool) : (d.writeMarked a l m).trainAt = d.trainAt := rfl
@[simp] theorem Dev.writeMarked_mods (a : Nat) (l : List Byte) (m : List Bool) : (d.writeMarked a l m).mods = d.mods := rfl
@[simp] theorem Dev.writeMarked_switches (a : Nat) (l : List Byte) (m : List Bool) : (d.writeMarked a l m).switches = d.switches := rfl
@[simp] theorem Dev.writeMarked_rehops (a : Nat) (l : List Byte) (m : List Bool) : (d.writeMarked a l m).rehops = d.rehops := rfl
@[simp] theorem Dev.writeMarked_yard (a : Nat) (l : List Byte) (m : List Bool) : (d.writeMarked a l m).yard = d.yard := rfl
@[simp] theorem Dev.writeMarked_sent (a : Nat) (l : List Byte) (m : List Bool) : (d.writeMarked a l m).sent = d.sent := rfl
@[simp] theorem Dev.writeMarked_fwdSince (a : Nat) (l : List Byte) (m : List Bool) : (d.writeMarked a l m).fwdSince = d.fwdSince := rfl
@[simp] theorem Dev.writeMarked_replaceDue (a : Nat) (l : List Byte) (m : List Bool) : (d.writeMarked a l m).replaceDue = d.replaceDue := rfl
@[simp] theorem Dev.writeMarked_rewriting (a : Nat) (l : List Byte) (m : List Bool) : (d.writeMarked a l m).rewriting = d.rewriting := rfl
@[simp] theorem Dev.writeMarked_farTests (a : Nat) (l : List Byte) (m : List Bool) : (d.writeMarked a l m).farTests = d.farTests := rfl
@[simp] theorem Dev.writeMarked_farLast (a : Nat) (l : List Byte) (m : List Bool) : (d.writeMarked a l m).farLast = d.farLast := rfl
@[simp] theorem Dev.writeMarked_hangLast (a : Nat) (l : List Byte) (m : List Bool) : (d.writeMarked a l m).hangLast = d.hangLast := rfl
@[simp] theorem Dev.writeMarked_hangA (a : Nat) (l : List Byte) (m : List Bool) : (d.writeMarked a l m).hangA = d.hangA := rfl
@[simp] theorem Dev.writeMarked_hangGen (a : Nat) (l : List Byte) (m : List Bool) : (d.writeMarked a l m).hangGen = d.hangGen := rfl
@[simp] theorem Dev.writeMarked_rm (a : Nat) (l : List Byte) (m : List Bool) : (d.writeMarked a l m).rm = d.rm := rfl
@[simp] theorem Dev.writeMarked_act (a : Nat) (l : List Byte) (m : List Bool) : (d.writeMarked a l m).act = d.act := rfl
@[simp] theorem Dev.writeMarked_stopping (a : Nat) (l : List Byte) (m : List Bool) : (d.writeMarked a l m).stopping = d.stopping := rfl
@[simp] theorem Dev.writeMarked_qps (a : Nat) (l : List Byte) (m : List Bool) : (d.writeMarked a l m).qps = d.qps := rfl
@[simp] theorem Dev.writeMarked_reads (a : Nat) (l : List Byte) (m : List Bool) : (d.writeMarked a l m).reads = d.reads := rfl
@[simp] theorem Dev.writeMarked_hostOps (a : Nat) (l : List Byte) (m : List Bool) : (d.writeMarked a l m).hostOps = d.hostOps := rfl
@[simp] theorem Dev.writeMarked_eth (a : Nat) (l : List Byte) (m : List Bool) : (d.writeMarked a l m).eth = d.eth := rfl
@[simp] theorem Dev.writeMarked_svc (a : Nat) (l : List Byte) (m : List Bool) : (d.writeMarked a l m).svc = d.svc := rfl
@[simp] theorem Dev.writeMarked_start (a : Nat) (l : List Byte) (m : List Bool) : (d.writeMarked a l m).start = d.start := rfl
@[simp] theorem Dev.writeMarked_vloftEn (a : Nat) (l : List Byte) (m : List Bool) : (d.writeMarked a l m).vloftEn = d.vloftEn := rfl
@[simp] theorem Dev.writeMarked_generation (a : Nat) (l : List Byte) (m : List Bool) : (d.writeMarked a l m).generation = d.generation := rfl
@[simp] theorem Dev.writeMarked_peerShape (a : Nat) (l : List Byte) (m : List Bool) : (d.writeMarked a l m).peerShape = d.peerShape := rfl
@[simp] theorem Dev.writeMarked_barred (a : Nat) (l : List Byte) (m : List Bool) : (d.writeMarked a l m).barred = d.barred := rfl
@[simp] theorem Dev.writeMarked_barnsIn (a : Nat) (l : List Byte) (m : List Bool) : (d.writeMarked a l m).barnsIn = d.barnsIn := rfl

/-! writeStackMarked -/

@[simp] theorem Dev.writeStackMarked_regs (a : Nat) (l : List Byte) (m : List Bool) : (d.writeStackMarked a l m).regs = d.regs := rfl
@[simp] theorem Dev.writeStackMarked_soft (a : Nat) (l : List Byte) (m : List Bool) : (d.writeStackMarked a l m).soft = d.soft := rfl
@[simp] theorem Dev.writeStackMarked_sramErrs (a : Nat) (l : List Byte) (m : List Bool) : (d.writeStackMarked a l m).sramErrs = d.sramErrs := rfl
@[simp] theorem Dev.writeStackMarked_ops (a : Nat) (l : List Byte) (m : List Bool) : (d.writeStackMarked a l m).ops = d.ops := rfl
@[simp] theorem Dev.writeStackMarked_beat (a : Nat) (l : List Byte) (m : List Bool) : (d.writeStackMarked a l m).beat = d.beat := rfl
@[simp] theorem Dev.writeStackMarked_counting (a : Nat) (l : List Byte) (m : List Bool) : (d.writeStackMarked a l m).counting = d.counting := rfl
@[simp] theorem Dev.writeStackMarked_holdLeft (a : Nat) (l : List Byte) (m : List Bool) : (d.writeStackMarked a l m).holdLeft = d.holdLeft := rfl
@[simp] theorem Dev.writeStackMarked_aligned (a : Nat) (l : List Byte) (m : List Bool) : (d.writeStackMarked a l m).aligned = d.aligned := rfl
@[simp] theorem Dev.writeStackMarked_returnPend (a : Nat) (l : List Byte) (m : List Bool) : (d.writeStackMarked a l m).returnPend = d.returnPend := rfl
@[simp] theorem Dev.writeStackMarked_oscTrim (a : Nat) (l : List Byte) (m : List Bool) : (d.writeStackMarked a l m).oscTrim = d.oscTrim := rfl
@[simp] theorem Dev.writeStackMarked_fresh (a : Nat) (l : List Byte) (m : List Bool) : (d.writeStackMarked a l m).fresh = d.fresh := rfl
@[simp] theorem Dev.writeStackMarked_busData (a : Nat) (l : List Byte) (m : List Bool) : (d.writeStackMarked a l m).busData = d.busData := rfl
@[simp] theorem Dev.writeStackMarked_latch (a : Nat) (l : List Byte) (m : List Bool) : (d.writeStackMarked a l m).latch = d.latch := rfl
@[simp] theorem Dev.writeStackMarked_busHeld (a : Nat) (l : List Byte) (m : List Bool) : (d.writeStackMarked a l m).busHeld = d.busHeld := rfl
@[simp] theorem Dev.writeStackMarked_halves (a : Nat) (l : List Byte) (m : List Bool) : (d.writeStackMarked a l m).halves = d.halves := rfl
@[simp] theorem Dev.writeStackMarked_regions (a : Nat) (l : List Byte) (m : List Bool) : (d.writeStackMarked a l m).regions = d.regions := rfl
@[simp] theorem Dev.writeStackMarked_tiles (a : Nat) (l : List Byte) (m : List Bool) : (d.writeStackMarked a l m).tiles = d.tiles := rfl
@[simp] theorem Dev.writeStackMarked_net (a : Nat) (l : List Byte) (m : List Bool) : (d.writeStackMarked a l m).net = d.net := rfl
@[simp] theorem Dev.writeStackMarked_seqs (a : Nat) (l : List Byte) (m : List Bool) : (d.writeStackMarked a l m).seqs = d.seqs := rfl
@[simp] theorem Dev.writeStackMarked_credits (a : Nat) (l : List Byte) (m : List Bool) : (d.writeStackMarked a l m).credits = d.credits := rfl
@[simp] theorem Dev.writeStackMarked_ports (a : Nat) (l : List Byte) (m : List Bool) : (d.writeStackMarked a l m).ports = d.ports := rfl
@[simp] theorem Dev.writeStackMarked_parents (a : Nat) (l : List Byte) (m : List Bool) : (d.writeStackMarked a l m).parents = d.parents := rfl
@[simp] theorem Dev.writeStackMarked_maps (a : Nat) (l : List Byte) (m : List Bool) : (d.writeStackMarked a l m).maps = d.maps := rfl
@[simp] theorem Dev.writeStackMarked_mapOver (a : Nat) (l : List Byte) (m : List Bool) : (d.writeStackMarked a l m).mapOver = d.mapOver := rfl
@[simp] theorem Dev.writeStackMarked_routeOver (a : Nat) (l : List Byte) (m : List Bool) : (d.writeStackMarked a l m).routeOver = d.routeOver := rfl
@[simp] theorem Dev.writeStackMarked_routed (a : Nat) (l : List Byte) (m : List Bool) : (d.writeStackMarked a l m).routed = d.routed := rfl
@[simp] theorem Dev.writeStackMarked_routers (a : Nat) (l : List Byte) (m : List Bool) : (d.writeStackMarked a l m).routers = d.routers := rfl
@[simp] theorem Dev.writeStackMarked_tapErrs (a : Nat) (l : List Byte) (m : List Bool) : (d.writeStackMarked a l m).tapErrs = d.tapErrs := rfl
@[simp] theorem Dev.writeStackMarked_coilErrs (a : Nat) (l : List Byte) (m : List Bool) : (d.writeStackMarked a l m).coilErrs = d.coilErrs := rfl
@[simp] theorem Dev.writeStackMarked_hbms (a : Nat) (l : List Byte) (m : List Bool) : (d.writeStackMarked a l m).hbms = d.hbms := rfl
@[simp] theorem Dev.writeStackMarked_winNext (a : Nat) (l : List Byte) (m : List Bool) : (d.writeStackMarked a l m).winNext = d.winNext := rfl
@[simp] theorem Dev.writeStackMarked_winChanges (a : Nat) (l : List Byte) (m : List Bool) : (d.writeStackMarked a l m).winChanges = d.winChanges := rfl
@[simp] theorem Dev.writeStackMarked_pwr (a : Nat) (l : List Byte) (m : List Bool) : (d.writeStackMarked a l m).pwr = d.pwr := rfl
@[simp] theorem Dev.writeStackMarked_cal (a : Nat) (l : List Byte) (m : List Bool) : (d.writeStackMarked a l m).cal = d.cal := rfl
@[simp] theorem Dev.writeStackMarked_factoryHash (a : Nat) (l : List Byte) (m : List Bool) : (d.writeStackMarked a l m).factoryHash = d.factoryHash := rfl
@[simp] theorem Dev.writeStackMarked_olinks (a : Nat) (l : List Byte) (m : List Bool) : (d.writeStackMarked a l m).olinks = d.olinks := rfl
@[simp] theorem Dev.writeStackMarked_lanes (a : Nat) (l : List Byte) (m : List Bool) : (d.writeStackMarked a l m).lanes = d.lanes := rfl
@[simp] theorem Dev.writeStackMarked_rings (a : Nat) (l : List Byte) (m : List Bool) : (d.writeStackMarked a l m).rings = d.rings := rfl
@[simp] theorem Dev.writeStackMarked_banks (a : Nat) (l : List Byte) (m : List Bool) : (d.writeStackMarked a l m).banks = d.banks := rfl
@[simp] theorem Dev.writeStackMarked_trainAt (a : Nat) (l : List Byte) (m : List Bool) : (d.writeStackMarked a l m).trainAt = d.trainAt := rfl
@[simp] theorem Dev.writeStackMarked_mods (a : Nat) (l : List Byte) (m : List Bool) : (d.writeStackMarked a l m).mods = d.mods := rfl
@[simp] theorem Dev.writeStackMarked_switches (a : Nat) (l : List Byte) (m : List Bool) : (d.writeStackMarked a l m).switches = d.switches := rfl
@[simp] theorem Dev.writeStackMarked_rehops (a : Nat) (l : List Byte) (m : List Bool) : (d.writeStackMarked a l m).rehops = d.rehops := rfl
@[simp] theorem Dev.writeStackMarked_yard (a : Nat) (l : List Byte) (m : List Bool) : (d.writeStackMarked a l m).yard = d.yard := rfl
@[simp] theorem Dev.writeStackMarked_sent (a : Nat) (l : List Byte) (m : List Bool) : (d.writeStackMarked a l m).sent = d.sent := rfl
@[simp] theorem Dev.writeStackMarked_fwdSince (a : Nat) (l : List Byte) (m : List Bool) : (d.writeStackMarked a l m).fwdSince = d.fwdSince := rfl
@[simp] theorem Dev.writeStackMarked_replaceDue (a : Nat) (l : List Byte) (m : List Bool) : (d.writeStackMarked a l m).replaceDue = d.replaceDue := rfl
@[simp] theorem Dev.writeStackMarked_rewriting (a : Nat) (l : List Byte) (m : List Bool) : (d.writeStackMarked a l m).rewriting = d.rewriting := rfl
@[simp] theorem Dev.writeStackMarked_farTests (a : Nat) (l : List Byte) (m : List Bool) : (d.writeStackMarked a l m).farTests = d.farTests := rfl
@[simp] theorem Dev.writeStackMarked_farLast (a : Nat) (l : List Byte) (m : List Bool) : (d.writeStackMarked a l m).farLast = d.farLast := rfl
@[simp] theorem Dev.writeStackMarked_hangLast (a : Nat) (l : List Byte) (m : List Bool) : (d.writeStackMarked a l m).hangLast = d.hangLast := rfl
@[simp] theorem Dev.writeStackMarked_hangA (a : Nat) (l : List Byte) (m : List Bool) : (d.writeStackMarked a l m).hangA = d.hangA := rfl
@[simp] theorem Dev.writeStackMarked_hangGen (a : Nat) (l : List Byte) (m : List Bool) : (d.writeStackMarked a l m).hangGen = d.hangGen := rfl
@[simp] theorem Dev.writeStackMarked_rm (a : Nat) (l : List Byte) (m : List Bool) : (d.writeStackMarked a l m).rm = d.rm := rfl
@[simp] theorem Dev.writeStackMarked_act (a : Nat) (l : List Byte) (m : List Bool) : (d.writeStackMarked a l m).act = d.act := rfl
@[simp] theorem Dev.writeStackMarked_stopping (a : Nat) (l : List Byte) (m : List Bool) : (d.writeStackMarked a l m).stopping = d.stopping := rfl
@[simp] theorem Dev.writeStackMarked_qps (a : Nat) (l : List Byte) (m : List Bool) : (d.writeStackMarked a l m).qps = d.qps := rfl
@[simp] theorem Dev.writeStackMarked_reads (a : Nat) (l : List Byte) (m : List Bool) : (d.writeStackMarked a l m).reads = d.reads := rfl
@[simp] theorem Dev.writeStackMarked_hostOps (a : Nat) (l : List Byte) (m : List Bool) : (d.writeStackMarked a l m).hostOps = d.hostOps := rfl
@[simp] theorem Dev.writeStackMarked_eth (a : Nat) (l : List Byte) (m : List Bool) : (d.writeStackMarked a l m).eth = d.eth := rfl
@[simp] theorem Dev.writeStackMarked_svc (a : Nat) (l : List Byte) (m : List Bool) : (d.writeStackMarked a l m).svc = d.svc := rfl
@[simp] theorem Dev.writeStackMarked_start (a : Nat) (l : List Byte) (m : List Bool) : (d.writeStackMarked a l m).start = d.start := rfl
@[simp] theorem Dev.writeStackMarked_vloftEn (a : Nat) (l : List Byte) (m : List Bool) : (d.writeStackMarked a l m).vloftEn = d.vloftEn := rfl
@[simp] theorem Dev.writeStackMarked_generation (a : Nat) (l : List Byte) (m : List Bool) : (d.writeStackMarked a l m).generation = d.generation := rfl
@[simp] theorem Dev.writeStackMarked_peerShape (a : Nat) (l : List Byte) (m : List Bool) : (d.writeStackMarked a l m).peerShape = d.peerShape := rfl
@[simp] theorem Dev.writeStackMarked_barred (a : Nat) (l : List Byte) (m : List Bool) : (d.writeStackMarked a l m).barred = d.barred := rfl
@[simp] theorem Dev.writeStackMarked_barnsIn (a : Nat) (l : List Byte) (m : List Bool) : (d.writeStackMarked a l m).barnsIn = d.barnsIn := rfl

/-! zero -/

@[simp] theorem Dev.zero_regs (a n : Nat) : (d.zero a n).regs = d.regs := rfl
@[simp] theorem Dev.zero_sramErrs (a n : Nat) : (d.zero a n).sramErrs = d.sramErrs := rfl
@[simp] theorem Dev.zero_ops (a n : Nat) : (d.zero a n).ops = d.ops := rfl
@[simp] theorem Dev.zero_beat (a n : Nat) : (d.zero a n).beat = d.beat := rfl
@[simp] theorem Dev.zero_counting (a n : Nat) : (d.zero a n).counting = d.counting := rfl
@[simp] theorem Dev.zero_holdLeft (a n : Nat) : (d.zero a n).holdLeft = d.holdLeft := rfl
@[simp] theorem Dev.zero_aligned (a n : Nat) : (d.zero a n).aligned = d.aligned := rfl
@[simp] theorem Dev.zero_returnPend (a n : Nat) : (d.zero a n).returnPend = d.returnPend := rfl
@[simp] theorem Dev.zero_oscTrim (a n : Nat) : (d.zero a n).oscTrim = d.oscTrim := rfl
@[simp] theorem Dev.zero_fresh (a n : Nat) : (d.zero a n).fresh = d.fresh := rfl
@[simp] theorem Dev.zero_busData (a n : Nat) : (d.zero a n).busData = d.busData := rfl
@[simp] theorem Dev.zero_latch (a n : Nat) : (d.zero a n).latch = d.latch := rfl
@[simp] theorem Dev.zero_busHeld (a n : Nat) : (d.zero a n).busHeld = d.busHeld := rfl
@[simp] theorem Dev.zero_halves (a n : Nat) : (d.zero a n).halves = d.halves := rfl
@[simp] theorem Dev.zero_regions (a n : Nat) : (d.zero a n).regions = d.regions := rfl
@[simp] theorem Dev.zero_tiles (a n : Nat) : (d.zero a n).tiles = d.tiles := rfl
@[simp] theorem Dev.zero_net (a n : Nat) : (d.zero a n).net = d.net := rfl
@[simp] theorem Dev.zero_seqs (a n : Nat) : (d.zero a n).seqs = d.seqs := rfl
@[simp] theorem Dev.zero_credits (a n : Nat) : (d.zero a n).credits = d.credits := rfl
@[simp] theorem Dev.zero_ports (a n : Nat) : (d.zero a n).ports = d.ports := rfl
@[simp] theorem Dev.zero_parents (a n : Nat) : (d.zero a n).parents = d.parents := rfl
@[simp] theorem Dev.zero_maps (a n : Nat) : (d.zero a n).maps = d.maps := rfl
@[simp] theorem Dev.zero_mapOver (a n : Nat) : (d.zero a n).mapOver = d.mapOver := rfl
@[simp] theorem Dev.zero_routeOver (a n : Nat) : (d.zero a n).routeOver = d.routeOver := rfl
@[simp] theorem Dev.zero_routed (a n : Nat) : (d.zero a n).routed = d.routed := rfl
@[simp] theorem Dev.zero_routers (a n : Nat) : (d.zero a n).routers = d.routers := rfl
@[simp] theorem Dev.zero_tapErrs (a n : Nat) : (d.zero a n).tapErrs = d.tapErrs := rfl
@[simp] theorem Dev.zero_coilErrs (a n : Nat) : (d.zero a n).coilErrs = d.coilErrs := rfl
@[simp] theorem Dev.zero_hbms (a n : Nat) : (d.zero a n).hbms = d.hbms := rfl
@[simp] theorem Dev.zero_winNext (a n : Nat) : (d.zero a n).winNext = d.winNext := rfl
@[simp] theorem Dev.zero_winChanges (a n : Nat) : (d.zero a n).winChanges = d.winChanges := rfl
@[simp] theorem Dev.zero_winWritten (a n : Nat) : (d.zero a n).winWritten = d.winWritten := rfl
@[simp] theorem Dev.zero_pwr (a n : Nat) : (d.zero a n).pwr = d.pwr := rfl
@[simp] theorem Dev.zero_cal (a n : Nat) : (d.zero a n).cal = d.cal := rfl
@[simp] theorem Dev.zero_factoryHash (a n : Nat) : (d.zero a n).factoryHash = d.factoryHash := rfl
@[simp] theorem Dev.zero_olinks (a n : Nat) : (d.zero a n).olinks = d.olinks := rfl
@[simp] theorem Dev.zero_lanes (a n : Nat) : (d.zero a n).lanes = d.lanes := rfl
@[simp] theorem Dev.zero_rings (a n : Nat) : (d.zero a n).rings = d.rings := rfl
@[simp] theorem Dev.zero_banks (a n : Nat) : (d.zero a n).banks = d.banks := rfl
@[simp] theorem Dev.zero_trainAt (a n : Nat) : (d.zero a n).trainAt = d.trainAt := rfl
@[simp] theorem Dev.zero_mods (a n : Nat) : (d.zero a n).mods = d.mods := rfl
@[simp] theorem Dev.zero_switches (a n : Nat) : (d.zero a n).switches = d.switches := rfl
@[simp] theorem Dev.zero_rehops (a n : Nat) : (d.zero a n).rehops = d.rehops := rfl
@[simp] theorem Dev.zero_yard (a n : Nat) : (d.zero a n).yard = d.yard := rfl
@[simp] theorem Dev.zero_sent (a n : Nat) : (d.zero a n).sent = d.sent := rfl
@[simp] theorem Dev.zero_fwdSince (a n : Nat) : (d.zero a n).fwdSince = d.fwdSince := rfl
@[simp] theorem Dev.zero_replaceDue (a n : Nat) : (d.zero a n).replaceDue = d.replaceDue := rfl
@[simp] theorem Dev.zero_rewriting (a n : Nat) : (d.zero a n).rewriting = d.rewriting := rfl
@[simp] theorem Dev.zero_farTests (a n : Nat) : (d.zero a n).farTests = d.farTests := rfl
@[simp] theorem Dev.zero_farLast (a n : Nat) : (d.zero a n).farLast = d.farLast := rfl
@[simp] theorem Dev.zero_hangLast (a n : Nat) : (d.zero a n).hangLast = d.hangLast := rfl
@[simp] theorem Dev.zero_hangA (a n : Nat) : (d.zero a n).hangA = d.hangA := rfl
@[simp] theorem Dev.zero_hangGen (a n : Nat) : (d.zero a n).hangGen = d.hangGen := rfl
@[simp] theorem Dev.zero_rm (a n : Nat) : (d.zero a n).rm = d.rm := rfl
@[simp] theorem Dev.zero_act (a n : Nat) : (d.zero a n).act = d.act := rfl
@[simp] theorem Dev.zero_stopping (a n : Nat) : (d.zero a n).stopping = d.stopping := rfl
@[simp] theorem Dev.zero_qps (a n : Nat) : (d.zero a n).qps = d.qps := rfl
@[simp] theorem Dev.zero_reads (a n : Nat) : (d.zero a n).reads = d.reads := rfl
@[simp] theorem Dev.zero_hostOps (a n : Nat) : (d.zero a n).hostOps = d.hostOps := rfl
@[simp] theorem Dev.zero_eth (a n : Nat) : (d.zero a n).eth = d.eth := rfl
@[simp] theorem Dev.zero_svc (a n : Nat) : (d.zero a n).svc = d.svc := rfl
@[simp] theorem Dev.zero_start (a n : Nat) : (d.zero a n).start = d.start := rfl
@[simp] theorem Dev.zero_vloftEn (a n : Nat) : (d.zero a n).vloftEn = d.vloftEn := rfl
@[simp] theorem Dev.zero_generation (a n : Nat) : (d.zero a n).generation = d.generation := rfl
@[simp] theorem Dev.zero_peerShape (a n : Nat) : (d.zero a n).peerShape = d.peerShape := rfl
@[simp] theorem Dev.zero_barred (a n : Nat) : (d.zero a n).barred = d.barred := rfl
@[simp] theorem Dev.zero_barnsIn (a n : Nat) : (d.zero a n).barnsIn = d.barnsIn := rfl

/-! copyRange -/

@[simp] theorem Dev.copyRange_regs (i j n : Nat) : (d.copyRange i j n).regs = d.regs := rfl
@[simp] theorem Dev.copyRange_sramErrs (i j n : Nat) : (d.copyRange i j n).sramErrs = d.sramErrs := rfl
@[simp] theorem Dev.copyRange_ops (i j n : Nat) : (d.copyRange i j n).ops = d.ops := rfl
@[simp] theorem Dev.copyRange_beat (i j n : Nat) : (d.copyRange i j n).beat = d.beat := rfl
@[simp] theorem Dev.copyRange_counting (i j n : Nat) : (d.copyRange i j n).counting = d.counting := rfl
@[simp] theorem Dev.copyRange_holdLeft (i j n : Nat) : (d.copyRange i j n).holdLeft = d.holdLeft := rfl
@[simp] theorem Dev.copyRange_aligned (i j n : Nat) : (d.copyRange i j n).aligned = d.aligned := rfl
@[simp] theorem Dev.copyRange_returnPend (i j n : Nat) : (d.copyRange i j n).returnPend = d.returnPend := rfl
@[simp] theorem Dev.copyRange_oscTrim (i j n : Nat) : (d.copyRange i j n).oscTrim = d.oscTrim := rfl
@[simp] theorem Dev.copyRange_fresh (i j n : Nat) : (d.copyRange i j n).fresh = d.fresh := rfl
@[simp] theorem Dev.copyRange_busData (i j n : Nat) : (d.copyRange i j n).busData = d.busData := rfl
@[simp] theorem Dev.copyRange_latch (i j n : Nat) : (d.copyRange i j n).latch = d.latch := rfl
@[simp] theorem Dev.copyRange_busHeld (i j n : Nat) : (d.copyRange i j n).busHeld = d.busHeld := rfl
@[simp] theorem Dev.copyRange_halves (i j n : Nat) : (d.copyRange i j n).halves = d.halves := rfl
@[simp] theorem Dev.copyRange_regions (i j n : Nat) : (d.copyRange i j n).regions = d.regions := rfl
@[simp] theorem Dev.copyRange_tiles (i j n : Nat) : (d.copyRange i j n).tiles = d.tiles := rfl
@[simp] theorem Dev.copyRange_net (i j n : Nat) : (d.copyRange i j n).net = d.net := rfl
@[simp] theorem Dev.copyRange_seqs (i j n : Nat) : (d.copyRange i j n).seqs = d.seqs := rfl
@[simp] theorem Dev.copyRange_credits (i j n : Nat) : (d.copyRange i j n).credits = d.credits := rfl
@[simp] theorem Dev.copyRange_ports (i j n : Nat) : (d.copyRange i j n).ports = d.ports := rfl
@[simp] theorem Dev.copyRange_parents (i j n : Nat) : (d.copyRange i j n).parents = d.parents := rfl
@[simp] theorem Dev.copyRange_maps (i j n : Nat) : (d.copyRange i j n).maps = d.maps := rfl
@[simp] theorem Dev.copyRange_mapOver (i j n : Nat) : (d.copyRange i j n).mapOver = d.mapOver := rfl
@[simp] theorem Dev.copyRange_routeOver (i j n : Nat) : (d.copyRange i j n).routeOver = d.routeOver := rfl
@[simp] theorem Dev.copyRange_routed (i j n : Nat) : (d.copyRange i j n).routed = d.routed := rfl
@[simp] theorem Dev.copyRange_routers (i j n : Nat) : (d.copyRange i j n).routers = d.routers := rfl
@[simp] theorem Dev.copyRange_tapErrs (i j n : Nat) : (d.copyRange i j n).tapErrs = d.tapErrs := rfl
@[simp] theorem Dev.copyRange_coilErrs (i j n : Nat) : (d.copyRange i j n).coilErrs = d.coilErrs := rfl
@[simp] theorem Dev.copyRange_hbms (i j n : Nat) : (d.copyRange i j n).hbms = d.hbms := rfl
@[simp] theorem Dev.copyRange_winNext (i j n : Nat) : (d.copyRange i j n).winNext = d.winNext := rfl
@[simp] theorem Dev.copyRange_winChanges (i j n : Nat) : (d.copyRange i j n).winChanges = d.winChanges := rfl
@[simp] theorem Dev.copyRange_winWritten (i j n : Nat) : (d.copyRange i j n).winWritten = d.winWritten := rfl
@[simp] theorem Dev.copyRange_pwr (i j n : Nat) : (d.copyRange i j n).pwr = d.pwr := rfl
@[simp] theorem Dev.copyRange_cal (i j n : Nat) : (d.copyRange i j n).cal = d.cal := rfl
@[simp] theorem Dev.copyRange_factoryHash (i j n : Nat) : (d.copyRange i j n).factoryHash = d.factoryHash := rfl
@[simp] theorem Dev.copyRange_olinks (i j n : Nat) : (d.copyRange i j n).olinks = d.olinks := rfl
@[simp] theorem Dev.copyRange_lanes (i j n : Nat) : (d.copyRange i j n).lanes = d.lanes := rfl
@[simp] theorem Dev.copyRange_rings (i j n : Nat) : (d.copyRange i j n).rings = d.rings := rfl
@[simp] theorem Dev.copyRange_banks (i j n : Nat) : (d.copyRange i j n).banks = d.banks := rfl
@[simp] theorem Dev.copyRange_trainAt (i j n : Nat) : (d.copyRange i j n).trainAt = d.trainAt := rfl
@[simp] theorem Dev.copyRange_mods (i j n : Nat) : (d.copyRange i j n).mods = d.mods := rfl
@[simp] theorem Dev.copyRange_switches (i j n : Nat) : (d.copyRange i j n).switches = d.switches := rfl
@[simp] theorem Dev.copyRange_rehops (i j n : Nat) : (d.copyRange i j n).rehops = d.rehops := rfl
@[simp] theorem Dev.copyRange_yard (i j n : Nat) : (d.copyRange i j n).yard = d.yard := rfl
@[simp] theorem Dev.copyRange_sent (i j n : Nat) : (d.copyRange i j n).sent = d.sent := rfl
@[simp] theorem Dev.copyRange_fwdSince (i j n : Nat) : (d.copyRange i j n).fwdSince = d.fwdSince := rfl
@[simp] theorem Dev.copyRange_replaceDue (i j n : Nat) : (d.copyRange i j n).replaceDue = d.replaceDue := rfl
@[simp] theorem Dev.copyRange_rewriting (i j n : Nat) : (d.copyRange i j n).rewriting = d.rewriting := rfl
@[simp] theorem Dev.copyRange_farTests (i j n : Nat) : (d.copyRange i j n).farTests = d.farTests := rfl
@[simp] theorem Dev.copyRange_farLast (i j n : Nat) : (d.copyRange i j n).farLast = d.farLast := rfl
@[simp] theorem Dev.copyRange_hangLast (i j n : Nat) : (d.copyRange i j n).hangLast = d.hangLast := rfl
@[simp] theorem Dev.copyRange_hangA (i j n : Nat) : (d.copyRange i j n).hangA = d.hangA := rfl
@[simp] theorem Dev.copyRange_hangGen (i j n : Nat) : (d.copyRange i j n).hangGen = d.hangGen := rfl
@[simp] theorem Dev.copyRange_rm (i j n : Nat) : (d.copyRange i j n).rm = d.rm := rfl
@[simp] theorem Dev.copyRange_act (i j n : Nat) : (d.copyRange i j n).act = d.act := rfl
@[simp] theorem Dev.copyRange_stopping (i j n : Nat) : (d.copyRange i j n).stopping = d.stopping := rfl
@[simp] theorem Dev.copyRange_qps (i j n : Nat) : (d.copyRange i j n).qps = d.qps := rfl
@[simp] theorem Dev.copyRange_reads (i j n : Nat) : (d.copyRange i j n).reads = d.reads := rfl
@[simp] theorem Dev.copyRange_hostOps (i j n : Nat) : (d.copyRange i j n).hostOps = d.hostOps := rfl
@[simp] theorem Dev.copyRange_eth (i j n : Nat) : (d.copyRange i j n).eth = d.eth := rfl
@[simp] theorem Dev.copyRange_svc (i j n : Nat) : (d.copyRange i j n).svc = d.svc := rfl
@[simp] theorem Dev.copyRange_start (i j n : Nat) : (d.copyRange i j n).start = d.start := rfl
@[simp] theorem Dev.copyRange_vloftEn (i j n : Nat) : (d.copyRange i j n).vloftEn = d.vloftEn := rfl
@[simp] theorem Dev.copyRange_generation (i j n : Nat) : (d.copyRange i j n).generation = d.generation := rfl
@[simp] theorem Dev.copyRange_peerShape (i j n : Nat) : (d.copyRange i j n).peerShape = d.peerShape := rfl
@[simp] theorem Dev.copyRange_barred (i j n : Nat) : (d.copyRange i j n).barred = d.barred := rfl
@[simp] theorem Dev.copyRange_barnsIn (i j n : Nat) : (d.copyRange i j n).barnsIn = d.barnsIn := rfl

end Sys2Proof.Machine
end

