-- ==== Sys2Proof/Laws/Memory.lean ====
section
/-! SUPPORT. Laws of memory: every memory operation keeps the canonical form; a byte written reads as written, and every byte outside the
range of a write reads as before. -/

namespace Sys2Proof.Machine

theorem writeCells_wf {m : List Host.Cell} (a : Nat) (l : List Byte) (h : Sparse.wf memDefault m = true) :
    Sparse.wf memDefault (writeCells m a l) = true := by
  induction l generalizing m a with
  | nil => exact h
  | cons b t ih => exact ih _ (Sparse.wf_set a b h)

/-- A byte outside the written range keeps its value. -/
theorem writeCells_other (m : List Host.Cell) (a : Nat) (l : List Byte) {j : Nat} (h : j < a ∨ a + l.length ≤ j) :
    Sparse.get memDefault (writeCells m a l) j = Sparse.get memDefault m j := by
  induction l generalizing m a with
  | nil => rfl
  | cons b t ih =>
    simp only [List.length_cons] at h
    rw [writeCells, ih _ _ (by omega), Sparse.get_set_other _ _ _ (by omega)]

/-- A byte of the written range reads as written. -/
theorem writeCells_same (m : List Host.Cell) (a : Nat) (l : List Byte) (i : Nat) (hi : i < l.length) :
    Sparse.get memDefault (writeCells m a l) (a + i) = l[i] := by
  induction l generalizing m a i with
  | nil => simp at hi
  | cons b t ih =>
    rw [writeCells]
    cases i with
    | zero => rw [writeCells_other _ _ _ (by omega)]; exact Sparse.get_set_same _ _ _ _
    | succ i =>
      have e : a + (i + 1) = a + 1 + i := by omega
      rw [e, ih _ _ _ (by simpa using hi)]
      rfl

/-- The write keeps the canonical form. -/
theorem Dev.writeMarked_wf {d : Dev} (a : Nat) (l : List Byte) (m : List Bool) (h : Sparse.wf memDefault d.mem = true) :
    Sparse.wf memDefault (d.writeMarked a l m).mem = true := writeCells_wf a l h

theorem Dev.zero_wf {d : Dev} (a n : Nat) (h : Sparse.wf memDefault d.mem = true) : Sparse.wf memDefault (d.zero a n).mem = true :=
  Sparse.wf_clear a n h

theorem Dev.copyRange_wf {d : Dev} (src dst n : Nat) (h : Sparse.wf memDefault d.mem = true) :
    Sparse.wf memDefault (d.copyRange src dst n).mem = true := Sparse.wf_copy src dst n h

/-- Every byte outside the range of a write reads as before. -/
theorem Dev.byte_write_other (d : Dev) (a : Nat) (l : List Byte) (m : List Bool) {j : Nat} (h : j < a ∨ a + l.length ≤ j) :
    (d.writeMarked a l m).byte j = d.byte j := writeCells_other d.mem a l h

/-- A byte written reads as written. -/
theorem Dev.byte_write_same (d : Dev) (a : Nat) (l : List Byte) (m : List Bool) (i : Nat)
    (hi : i < l.length) : (d.writeMarked a l m).byte (a + i) = l[i] := writeCells_same d.mem a l i hi

/-- Bytes cleared read as zero; the others read as before. -/
theorem Dev.byte_zero (d : Dev) (a n j : Nat) : (d.zero a n).byte j = if a ≤ j ∧ j < a + n then 0 else d.byte j :=
  Sparse.get_clear memDefault d.mem a n j

end Sys2Proof.Machine
end

