-- ==== Sys2Proof/Laws/Outcome.lean ====
section
/-! SUPPORT. What a command can answer: onUnit says it once for every meaning. -/

namespace Sys2Proof.Machine

/-- A command on units that the device has answers a next state, whose queue is as before. -/
theorem onUnit_true (s : State) (f : Dev → Dev) {ok : Bool} (h : ok = true) : onUnit ok s f = .next { s with dev := f s.dev } := by
  rw [h]; rfl

/-- On any other the step ends in the fault. -/
theorem onUnit_false (s : State) (f : Dev → Dev) {ok : Bool} (h : ok = false) : onUnit ok s f = .fault .noSuchUnit := by
  rw [h]; rfl

/-- All that onUnit can answer. -/
theorem onUnit_cases {ok : Bool} {s t : State} {f : Dev → Dev} (h : onUnit ok s f = .next t) :
    ok = true ∧ t = { s with dev := f s.dev } := by
  unfold onUnit at h
  split at h
  · next e => exact ⟨e, by cases h; rfl⟩
  · cases h

@[simp] theorem Dev.when_true (d : Dev) (f : Dev → Dev) : d.when true f = f d := rfl
@[simp] theorem Dev.when_false (d : Dev) (f : Dev → Dev) : d.when false f = d := rfl

/-- A step on a queue that waits runs the command at its front with the rest. -/
theorem step_cons (d : Dev) (c : Sys2Proof.Instr) (rest : List Sys2Proof.Instr) : step ⟨d, c :: rest⟩ = exec c ⟨d, rest⟩ := rfl

/-- A step on an empty queue lets a beat pass. -/
theorem step_nil (d : Dev) : step ⟨d, []⟩ = .next ⟨d.tick, []⟩ := rfl

end Sys2Proof.Machine
end

