-- ==== Sys2Proof/Laws/Regs.lean ====
section
/-! SUPPORT. Laws of registers: what a register reads as after a write of it or of another, and the same for fields. -/

namespace Sys2Proof.Machine

@[simp] theorem Dev.wr_regs (d : Dev) (r : Reg) (v : W32) : (d.wr r v).regs = Sparse.set (fun _ => r.resetWord) d.regs r.addr v := rfl

/-- A register reads as what was written. -/
theorem Dev.rd_wr_same (d : Dev) (r : Reg) (v : W32) : (d.wr r v).rd r = v :=
  Sparse.get_set_same (fun _ => r.resetWord) d.regs r.addr v

/-- A register at another address reads as before. -/
theorem Dev.rd_wr_other (d : Dev) {r q : Reg} (v : W32) (h : r.addr ≠ q.addr) : (d.wr r v).rd q = d.rd q := by
  unfold Dev.rd Dev.wr Sparse.set
  dsimp only
  split
  · exact Sparse.get_erase_other _ _ h
  · rw [Sparse.get_insert, if_neg h]

/-- A field reads as what it was set to, modulo its width. -/
theorem Dev.getF_setF_same (d : Dev) (r : Reg) {f : Field} (hf : f.fits) (v : Nat) :
    (d.setF r f v).getF r f = v % 2 ^ f.width := by
  unfold Dev.getF Dev.setF
  rw [Dev.rd_wr_same d, Field.get_put_same hf]

/-- Another field of the register keeps its value. -/
theorem Dev.getF_setF_field (d : Dev) (r : Reg) {f g : Field} (hf : f.fits) (ha : f.apart g) (v : Nat) :
    (d.setF r f v).getF r g = d.getF r g := by
  unfold Dev.getF Dev.setF
  rw [Dev.rd_wr_same d, Field.get_put_other hf ha]

/-- A field of another register keeps its value. -/
theorem Dev.getF_setF_reg (d : Dev) {r q : Reg} (f g : Field) (v : Nat) (h : r.addr ≠ q.addr) : (d.setF r f v).getF q g = d.getF q g := by
  unfold Dev.getF Dev.setF
  rw [Dev.rd_wr_other d _ h]

/-- What a raise does (R455): nothing for sources 0 and 322-511; else the pending bit is set and BRK_RAISED of the source adds 1. -/
theorem Dev.raise_spec (d : Dev) (n : Nat) :
    d.raise n =
      if 1 ≤ n ∧ n ≤ 321 then
        (d.setF (r1 .BRK_PENDING (n / 32)) Fld.BRK_PENDING_PENDING
          (Nat.lor (d.getF (r1 .BRK_PENDING (n / 32)) Fld.BRK_PENDING_PENDING) (2 ^ (n % 32)))).addF
            (r1 .BRK_RAISED n) Fld.BRK_RAISED_RAISED 1
      else d := rfl

end Sys2Proof.Machine
end

