-- ==== Sys2Proof/Laws/Shared.lean ====
section
/-! SUPPORT. What the operations that many meanings share can do, each said once: a bus access, an instruction of a core, the start of
an engine command, a stage of a point change, a command of a session. -/

namespace Sys2Proof.Machine

/-! ## Bus accesses -/

/-- All that an access can do. -/
theorem Dev.onBus_spec (d : Dev) (c : BusAccess) (f : Dev → Dev) :
    d.onBus c f =
      if d.hasMaster = false then d
      else if (!d.busHeld.isEmpty || d.rmPaused) = true then { d with busHeld := d.busHeld ++ [c] }
      else if d.fenced c.addr = true then (match c with | .write _ _ => d | .read _ => { d with busData := 0 })
      else if d.stopped c.addr = true then { d with busHeld := [c] }
      else f d := by
  unfold Dev.onBus
  cases d.hasMaster <;> cases d.busHeld.isEmpty <;> cases d.rmPaused <;> rfl

/-- An access that nothing holds is carried out. -/
theorem Dev.onBus_reaches {d : Dev} {c : BusAccess} (f : Dev → Dev) (h : d.reaches c.addr = true) : d.onBus c f = f d := by
  simp only [Dev.reaches, Bool.and_eq_true, Bool.not_eq_true'] at h
  obtain ⟨⟨⟨⟨h1, h2⟩, h3⟩, h4⟩, h5⟩ := h
  simp [Dev.onBus, h1, h2, h3, h4, h5]

theorem Dev.busPutWith_reaches {d : Dev} {r : Reg} (v adds : W32) (h : d.reaches r.addr = true) :
    d.busPutWith r v adds = d.writeReg r v adds := by
  unfold Dev.busPutWith; rw [Dev.onBus_reaches (c := .write r.addr v) _ h]

theorem Dev.busPut_reaches {d : Dev} {r : Reg} (v : W32) (h : d.reaches r.addr = true) : d.busPut r v = d.writeReg r v 0 :=
  Dev.busPutWith_reaches v 0 h

theorem Dev.busGet_reaches {d : Dev} {r : Reg} (h : d.reaches r.addr = true) :
    d.busGet r = { d.regReadDone r 0 with busData := d.regRead r } := by
  unfold Dev.busGet; rw [Dev.onBus_reaches (c := .read r.addr) _ h]

/-- A write by address, where a register lies. -/
theorem Dev.putWord_register {d : Dev} {a : Nat} {r : Reg} (v adds : W32) (h : isRegister a = true) (ha : d.aperture a = none)
    (hr : Reg.ofAddr a = some r) : d.putWord a v adds = d.writeReg r v adds := by
  simp only [isRegister, Bool.and_eq_true, Bool.not_eq_true'] at h
  obtain ⟨⟨⟨h1, h2⟩, h3⟩, h4⟩ := h
  simp [Dev.putWord, h1, h2, h3, h4, ha, hr]

/-- A read by address, where a register lies. -/
theorem Dev.takeWord_register {d : Dev} {a : Nat} {r : Reg} (adds : W32) (h : isRegister a = true) (ha : d.aperture a = none)
    (hr : Reg.ofAddr a = some r) : d.takeWord a adds = (d.regRead r, d.regReadDone r adds) := by
  simp only [isRegister, Bool.and_eq_true, Bool.not_eq_true'] at h
  obtain ⟨⟨⟨h1, h2⟩, h3⟩, h4⟩ := h
  simp [Dev.takeWord, h1, h2, h3, h4, ha, hr]

theorem Dev.busWriteWith_register {d : Dev} {a : Nat} {r : Reg} (v adds : W32) (hb : d.reaches a = true)
    (h : isRegister a = true) (ha : d.aperture a = none) (hr : Reg.ofAddr a = some r) :
    d.busWriteWith a v adds = d.writeReg r v adds := by
  unfold Dev.busWriteWith
  rw [Dev.onBus_reaches (c := .write a v) _ hb, Dev.putWord_register v adds h ha hr]

theorem Dev.busReadWith_register {d : Dev} {a : Nat} {r : Reg} (adds : W32) (hb : d.reaches a = true)
    (h : isRegister a = true) (ha : d.aperture a = none) (hr : Reg.ofAddr a = some r) :
    d.busReadWith a adds = { d.regReadDone r adds with busData := d.regRead r } := by
  unfold Dev.busReadWith
  rw [Dev.onBus_reaches (c := .read a) _ hb, Dev.takeWord_register adds h ha hr]

/-! ## Cores -/

/-- All that an instruction can do. -/
theorem Dev.instruction_spec (d : Dev) (b x : Nat) (form : Form) (extra : Bool) (f : Dev → Dev) :
    d.instruction b x form extra f =
      if d.coreReady b x = true then
        match d.fetchException b x with
        | some c => d.takeException b x c (d.tile b x).pc (d.tile b x).pc
        | none =>
          if neverWord (d.tile b x).fetchWord.toNat = true then (d.issued b x).illegal b x
          else if (!form.spells (d.tile b x).fetchWord.toNat) = true then d
          else if (extra || form.spare (d.tile b x).fetchWord.toNat) = true then (d.issued b x).illegal b x
          else f (d.issued b x)
      else d := rfl

/-- An instruction that issues has its effect. -/
theorem Dev.instruction_issues {d : Dev} {b x : Nat} {form : Form} (f : Dev → Dev) (h : d.issues b x form = true) :
    d.instruction b x form false f = f (d.issued b x) := by
  simp only [Dev.issues, Bool.and_eq_true, Option.isNone_iff_eq_none, Bool.not_eq_true'] at h
  obtain ⟨⟨⟨⟨h1, h2⟩, h3⟩, h4⟩, h5⟩ := h
  simp [Dev.instruction_spec, h1, h2, h3, h4, h5]

/-- A form that is not assigned is illegal (R84). -/
theorem Dev.instruction_illegal {d : Dev} {b x : Nat} {form : Form} (f : Dev → Dev) (h : d.issues b x form = true) :
    d.instruction b x form true f = (d.issued b x).illegal b x := by
  simp only [Dev.issues, Bool.and_eq_true, Option.isNone_iff_eq_none, Bool.not_eq_true'] at h
  obtain ⟨⟨⟨⟨h1, h2⟩, h3⟩, h4⟩, h5⟩ := h
  simp [Dev.instruction_spec, h1, h2, h3, h4]

/-- A word that is none is illegal whatever the row (R84). -/
theorem Dev.instruction_never {d : Dev} {b x : Nat} (form : Form) (extra : Bool) (f : Dev → Dev) (h : d.coreReady b x = true)
    (hf : d.fetchException b x = none) (hw : neverWord (d.tile b x).fetchWord.toNat = true) :
    d.instruction b x form extra f = (d.issued b x).illegal b x := by
  simp [Dev.instruction_spec, h, hf, hw]

/-- A core that is not ready does nothing. -/
theorem Dev.instruction_idle {d : Dev} {b x : Nat} (form : Form) (extra : Bool) (f : Dev → Dev) (h : d.coreReady b x = false) :
    d.instruction b x form extra f = d := by
  simp [Dev.instruction_spec, h]

/-! ## Engines -/

/-- A command that starts with every check passed runs. -/
theorem Dev.startCmd_runs {d : Dev} {b x q : Nat} {e : QEntry} {mine : Nat → Bool} {checks : Dev → W128 → List Fail}
    (run : Dev → QEntry → Dev) (he : d.enginesRun b x = true) (hs : startable ((d.tile b x).queue q) = some e)
    (hm : mine (opOf e.cmd) = true) (hv : verdict (checks d e.cmd) = none) :
    d.startCmd b x q mine checks run = run (d.beginCmd b x q e) e := by
  simp [Dev.startCmd, hs, he, hm, hv, Dev.when]

/-- A command that a check stops ends whole (R92, R129). -/
theorem Dev.startCmd_rejects {d : Dev} {b x q : Nat} {e : QEntry} {f : Fail} {mine : Nat → Bool} {checks : Dev → W128 → List Fail}
    (run : Dev → QEntry → Dev) (he : d.enginesRun b x = true) (hs : startable ((d.tile b x).queue q) = some e)
    (hm : mine (opOf e.cmd) = true) (hv : verdict (checks d e.cmd) = some f) :
    d.startCmd b x q mine checks run = d.rejectCmd b x q e f := by
  simp [Dev.startCmd, hs, he, hm, hv, Dev.when]

/-! ## Point changes and sessions -/

theorem Dev.onChange_some {d : Dev} {h : Nat} {c : Change} {cond : Change → Bool} (f : Change → Dev → Dev)
    (hc : (d.half h).change = some c) (ht : cond c = true) : d.onChange h cond f = f c d := by
  simp [Dev.onChange, hc, ht, Dev.when]

/-- The command of a session whose turn it is, with its entry in order. -/
theorem Dev.command_takes {d : Dev} {s : Nat} {v : Svc} {k : Session} {mine : Nat → Bool} (f : Dev → SvcCmd → Dev)
    (hv : d.svc = some v) (hk : v.session s = some k) (hb : v.busy = none) (ht : d.nextSession v = some s)
    (hm : mine (cCode (d.nextEntry v s k)) = true) (he : (d.consume s k).entryOk (d.nextEntry v s k) = true) :
    d.command s mine f = f (d.consume s k) (d.nextEntry v s k) := by
  simp [Dev.command, hv, hk, hb, ht, hm, he, Dev.when]

end Sys2Proof.Machine
end

