-- ==== Sys2Proof/Laws/Tiles.lean ====
section
/-! SUPPORT. Tiles: a tile set is the tile read, another stays; and what a trace record and an exception do to the tile. -/

namespace Sys2Proof.Machine

variable (d : Dev) (b x : Nat)

@[simp] theorem Dev.tile_setTile_same (t : Tile) : (d.setTile b x t).tile b x = t :=
  Sparse.get_set_same (fun _ => ({} : Tile)) d.tiles (b * 768 + x) t

theorem Dev.tile_setTile_other (t : Tile) {c y : Nat} (h : b * 768 + x ≠ c * 768 + y) : (d.setTile b x t).tile c y = d.tile c y :=
  Sparse.get_set_other (fun _ => ({} : Tile)) d.tiles t h

@[simp] theorem Dev.tile_updTile_same (f : Tile → Tile) : (d.updTile b x f).tile b x = f (d.tile b x) := by
  unfold Dev.updTile; simp

theorem Dev.tile_updTile_other (f : Tile → Tile) {c y : Nat} (h : b * 768 + x ≠ c * 768 + y) : (d.updTile b x f).tile c y = d.tile c y := by
  unfold Dev.updTile; exact Dev.tile_setTile_other d b x _ h

/-- Two sites of the device are one key only if they are one site. -/
theorem site_key_ne {b x c y : Nat} (h : okSite b x = true) (k : okSite c y = true) (hne : (c, y) ≠ (b, x)) :
    b * 768 + x ≠ c * 768 + y := by
  simp [okSite] at h k
  intro e
  exact hne (by ext <;> simp <;> omega)

@[simp] theorem Dev.tile_wr (r : Reg) (v : W32) : (d.wr r v).tile b x = d.tile b x := rfl
@[simp] theorem Dev.tile_setF (r : Reg) (f : Field) (v : Nat) : (d.setF r f v).tile b x = d.tile b x := rfl
@[simp] theorem Dev.tile_addF (r : Reg) (f : Field) (v : Nat) : (d.addF r f v).tile b x = d.tile b x := rfl
@[simp] theorem Dev.tile_write (a : Nat) (l : List Byte) : (d.write a l).tile b x = d.tile b x := rfl
@[simp] theorem Dev.tile_raise (n : Nat) : (d.raise n).tile b x = d.tile b x := by
  unfold Dev.raise; split <;> rfl

/-- Two tiles that differ in their trace buffers only. -/
def Tile.sameBut (t u : Tile) : Prop :=
  { t with trace := u.trace, traceOldest := u.traceOldest, traceMem := u.traceMem, traceDropped := u.traceDropped,
           traceFirstDrop := u.traceFirstDrop, traceRing := u.traceRing } = u

theorem Tile.sameBut_refl (t : Tile) : t.sameBut t := rfl

theorem Tile.sameBut_trans {t u v : Tile} (h : t.sameBut u) (k : u.sameBut v) : t.sameBut v := by
  unfold Tile.sameBut at *
  rw [← k, ← h]

theorem Tile.sameBut_append (t : Tile) (w : BitVec 128) : (t.traceAppend w).sameBut t := rfl

theorem Tile.sameBut_drop (t : Tile) (beat : Nat) : (t.traceDrop beat).sameBut t := rfl

theorem Tile.sameBut_flush (t : Tile) (hold : Nat) : (t.flushLost hold).sameBut t := by
  unfold Tile.flushLost
  split
  · exact Tile.sameBut_trans (u := t.traceAppend (t.lostWord hold)) rfl rfl
  · rfl

/-- The record in MODE 2 moves the ring's count on. -/
theorem Dev.traceRing_tile (w : BitVec 128) : ((d.traceRingWrite b x w).tile b x).sameBut (d.tile b x) := by
  unfold Dev.traceRingWrite
  rw [Dev.tile_updTile_same]
  rfl

/-- A record in the buffer changes nothing of its tile but the buffer. -/
theorem Dev.traceBuffer_tile (hold : Nat) (w : BitVec 128) : ((d.traceBuffer b x hold w).tile b x).sameBut (d.tile b x) := by
  unfold Dev.traceBuffer
  extract_lets t
  have h : t.sameBut (d.tile b x) := Tile.sameBut_flush _ _
  split
  · rw [Dev.tile_setTile_same]
    exact Tile.sameBut_trans (Tile.sameBut_append _ _) h
  · rw [Dev.tile_addF, Dev.tile_addF, Dev.tile_setTile_same]
    exact Tile.sameBut_trans (Tile.sameBut_drop _ _) h

theorem Dev.traceBuffer_otherTile (hold : Nat) (w : BitVec 128) {c y : Nat} (h : b * 768 + x ≠ c * 768 + y) :
    (d.traceBuffer b x hold w).tile c y = d.tile c y := by
  unfold Dev.traceBuffer
  extract_lets t
  split
  · rw [Dev.tile_setTile_other _ _ _ _ h]
  · rw [Dev.tile_addF, Dev.tile_addF, Dev.tile_setTile_other _ _ _ _ h]

/-- A trace record changes the device in one of three ways. -/
theorem Dev.trace_cases (kind unit status info arg : Nat) :
    (∃ w, d.trace b x kind unit status info arg = d.traceRingWrite b x w) ∨
    (∃ hold w, d.trace b x kind unit status info arg = d.traceBuffer b x hold w) ∨ d.trace b x kind unit status info arg = d := by
  unfold Dev.trace
  by_cases h : d.traceOn b x kind unit = true
  · rw [if_pos h]
    by_cases h2 : d.getF (r2 .TRC_TILE_CTRL b x) Fld.TRC_TILE_CTRL_MODE = 2
    · exact .inl ⟨_, if_pos h2⟩
    · exact .inr (.inl ⟨_, _, if_neg h2⟩)
  · exact .inr (.inr (if_neg h))

/-- A trace record changes nothing of its tile but the trace buffer. -/
theorem Dev.trace_tile (kind unit status info arg : Nat) : ((d.trace b x kind unit status info arg).tile b x).sameBut (d.tile b x) := by
  rcases Dev.trace_cases d b x kind unit status info arg with ⟨w, h⟩ | ⟨hold, w, h⟩ | h <;> rw [h]
  · exact Dev.traceRing_tile d b x w
  · exact Dev.traceBuffer_tile d b x hold w
  · exact Tile.sameBut_refl _

/-- A trace record changes no other tile. -/
theorem Dev.trace_otherTile (kind unit status info arg : Nat) {c y : Nat} (h : b * 768 + x ≠ c * 768 + y) :
    (d.trace b x kind unit status info arg).tile c y = d.tile c y := by
  rcases Dev.trace_cases d b x kind unit status info arg with ⟨w, e⟩ | ⟨hold, w, e⟩ | e <;> rw [e]
  · unfold Dev.traceRingWrite
    rw [Dev.tile_updTile_other _ _ _ _ h]; rfl
  · exact Dev.traceBuffer_otherTile d b x _ _ h

end Sys2Proof.Machine
end

