-- ==== Sys2Proof/Laws/Writes.lean ====
section
/-! SUPPORT. What a write to each register with a row of its own does once the bus carries it out: the block's own operation. -/

namespace Sys2Proof.Machine

variable (d : Dev) (v adds : W32)

/-- Where hardware sets no bit, a write is what its block does with it. -/
theorem Dev.writeReg_plain (r : Reg) (h : (r.name == .BRK_PENDING) = false) (hw : w1cFields r.name.fields = []) :
    d.writeReg r v adds = d.writeBlock r v adds := by
  have h' : ¬ r.name = .BRK_PENDING := by simpa using h
  simp [Dev.writeReg, Dev.setSame, h', hw]

theorem Dev.writeReg_BEAT_CTRL : d.writeReg (r0 .BEAT_CTRL) v adds = d.writeBeatCtrl v :=
  (d.writeReg_plain v adds _ rfl rfl).trans rfl
theorem Dev.writeReg_HALF_OPP (h : Nat) : d.writeReg (r1 .HALF_OPP h) v adds = d.writeHalfOpp h v :=
  (d.writeReg_plain v adds _ rfl rfl).trans rfl
theorem Dev.writeReg_REGION_CLK_CTRL (r : Nat) : d.writeReg (r1 .REGION_CLK_CTRL r) v adds = d.writeRegionCtrl r v :=
  (d.writeReg_plain v adds _ rfl rfl).trans rfl
theorem Dev.writeReg_EVENT_POST (b x : Nat) : d.writeReg (r2 .EVENT_POST b x) v adds =
    d.updTile b x fun t => { t with evtPending := Nat.lor t.evtPending (v.toNat % 16) } :=
  (d.writeReg_plain v adds _ rfl rfl).trans rfl
theorem Dev.writeReg_TILE_CTRL (b x : Nat) : d.writeReg (r2 .TILE_CTRL b x) v adds = d.writeTileCtrl b x v :=
  (d.writeReg_plain v adds _ rfl rfl).trans rfl
theorem Dev.writeReg_AC (b x i : Nat) : d.writeReg (r3 .AC b x i) v adds = d.updTile b x fun t => t.setAc i (v + adds) :=
  (d.writeReg_plain v adds _ rfl rfl).trans rfl
theorem Dev.writeReg_CC (b x i : Nat) : d.writeReg (r3 .CC b x i) v adds = d.updTile b x fun t => t.setCc i (v + adds) :=
  (d.writeReg_plain v adds _ rfl rfl).trans rfl
theorem Dev.writeReg_GREG_LO (b x n : Nat) : d.writeReg (r3 .GREG_LO b x n) v adds = d.writeGreg b x n false v :=
  (d.writeReg_plain v adds _ rfl rfl).trans rfl
theorem Dev.writeReg_GREG_HI (b x n : Nat) : d.writeReg (r3 .GREG_HI b x n) v adds = d.writeGreg b x n true v :=
  (d.writeReg_plain v adds _ rfl rfl).trans rfl
theorem Dev.writeReg_RTR_CTRL (b x : Nat) : d.writeReg (r2 .RTR_CTRL b x) v adds = d.writeRtrCtrl b x v :=
  (d.writeReg_plain v adds _ rfl rfl).trans rfl
theorem Dev.writeReg_FLOW_AC (b x f : Nat) : d.writeReg (r3 .FLOW_AC b x f) v adds = d.writeFlowAc b x f v :=
  (d.writeReg_plain v adds _ rfl rfl).trans rfl
theorem Dev.writeReg_SINK_CTR (b x k : Nat) : d.writeReg (r3 .SINK_CTR b x k) v adds = d.writeSinkCtr b x k v :=
  (d.writeReg_plain v adds _ rfl rfl).trans rfl
theorem Dev.writeReg_RT_PARENT (b x : Nat) : d.writeReg (r2 .RT_PARENT b x) v adds = d.writeLoader (r2 .RT_PARENT b x) v :=
  (d.writeReg_plain v adds _ rfl rfl).trans rfl
theorem Dev.writeReg_RT_MAP (b t : Nat) : d.writeReg (r2 .RT_MAP b t) v adds = d.writeLoader (r2 .RT_MAP b t) v :=
  (d.writeReg_plain v adds _ rfl rfl).trans rfl
theorem Dev.writeReg_RT_CTRL (b : Nat) : d.writeReg (r1 .RT_CTRL b) v adds = d.writeLoader (r1 .RT_CTRL b) v :=
  (d.writeReg_plain v adds _ rfl rfl).trans rfl
theorem Dev.writeReg_loft (b x which : Nat) (h : which < 5) :
    d.writeReg (loftReg b x which) v adds = d.writeLoft (loftReg b x which) v := by
  match which, h with
  | 0, _ => exact (d.writeReg_plain v adds _ rfl rfl).trans rfl
  | 1, _ => exact (d.writeReg_plain v adds _ rfl rfl).trans rfl
  | 2, _ => exact (d.writeReg_plain v adds _ rfl rfl).trans rfl
  | 3, _ => exact (d.writeReg_plain v adds _ rfl rfl).trans rfl
  | 4, _ => exact (d.writeReg_plain v adds _ rfl rfl).trans rfl
theorem Dev.writeReg_LOFT_INV (b x : Nat) : d.writeReg (r2 .LOFT_INV b x) v adds =
    if Fld.LOFT_INV_INV.get v = 1 then d.invalidate b x else d :=
  (d.writeReg_plain v adds _ rfl rfl).trans rfl
theorem Dev.writeReg_HBM_CTRL (n : Nat) : d.writeReg (r1 .HBM_CTRL n) v adds =
    if Fld.HBM_CTRL_RETIRE.get v = 1 then (d.store (r1 .HBM_CTRL n) v).hbmRetire n else d.store (r1 .HBM_CTRL n) v :=
  (d.writeReg_plain v adds _ rfl rfl).trans rfl
theorem Dev.writeReg_WIN_CTRL : d.writeReg (r0 .WIN_CTRL) v adds =
    if Fld.WIN_CTRL_COMMIT.get v = 1 then d.winCommit else d :=
  (d.writeReg_plain v adds _ rfl rfl).trans rfl
theorem Dev.writeReg_MOD_CTRL (k : Nat) : d.writeReg (r1 .MOD_CTRL k) v adds =
    if Fld.MOD_CTRL_RELEASE.get v = 1 then d.releaseModule k else d :=
  (d.writeReg_plain v adds _ rfl rfl).trans rfl
theorem Dev.writeReg_LANT_I2C : d.writeReg (r0 .LANT_I2C) v adds = d.writeI2c v :=
  (d.writeReg_plain v adds _ rfl rfl).trans rfl
theorem Dev.writeReg_yard (r : Reg) (h : r.name.block = .yard) : d.writeReg r v adds = (d.writeYard r v).setSame r adds := by
  simp only [Dev.writeReg, Dev.writeBlock, h]
theorem Dev.writeYard_CTRL (h : d.yardBounds (r0 .YARD_CTRL) v = false) : d.writeYard (r0 .YARD_CTRL) v = d.writeYardCtrl v := by
  unfold Dev.writeYard; rw [h]; rfl
theorem Dev.writeYard_YLINK (l : Nat) (h : d.yardBounds (r1 .YLINK_CTRL l) v = false) :
    d.writeYard (r1 .YLINK_CTRL l) v = d.writeYlinkCtrl l v := by
  unfold Dev.writeYard; rw [h]; rfl
theorem Dev.writeYard_MCAST (g : Nat) (h : d.yardBounds (r1 .MCAST_GROUP g) v = false) :
    d.writeYard (r1 .MCAST_GROUP g) v = d.store (r1 .MCAST_GROUP g) v := by
  unfold Dev.writeYard; rw [h]; rfl
theorem Dev.writeReg_PORT_CTRL (p : Nat) : d.writeReg (r1 .PORT_CTRL p) v adds = d.writePortCtrl p v :=
  (d.writeReg_plain v adds _ rfl rfl).trans rfl
theorem Dev.writeReg_ETH_CTRL (p : Nat) : d.writeReg (r1 .ETH_CTRL p) v adds = d.writeEth (r1 .ETH_CTRL p) v :=
  (d.writeReg_plain v adds _ rfl rfl).trans rfl
theorem Dev.writeReg_CAL_CTRL : d.writeReg (r0 .CAL_CTRL) v adds = d.writeCalCtrl v :=
  (d.writeReg_plain v adds _ rfl rfl).trans rfl
theorem Dev.writeReg_TACK_CTRL : d.writeReg (r0 .TACK_CTRL) v adds = d.writeTack (r0 .TACK_CTRL) v :=
  (d.writeReg_plain v adds _ rfl rfl).trans rfl
theorem Dev.writeReg_RM_KICK : d.writeReg (r0 .RM_KICK) v adds = d.kick :=
  (d.writeReg_plain v adds _ rfl rfl).trans rfl
theorem Dev.writeReg_RM_CTRL : d.writeReg (r0 .RM_CTRL) v adds = d.store (r0 .RM_CTRL) v :=
  (d.writeReg_plain v adds _ rfl rfl).trans rfl
theorem Dev.writeReg_RM_SWAP_CHECK : d.writeReg (r0 .RM_SWAP_CHECK) v adds = d.swapCheck v :=
  (d.writeReg_plain v adds _ rfl rfl).trans rfl
theorem Dev.writeReg_RM_UPDATE : d.writeReg (r0 .RM_UPDATE) v adds =
    let d := if Fld.RM_UPDATE_GO.get v = 1 then d.updateGo else d
    if Fld.RM_UPDATE_ABORT.get v = 1 then d.updateAbort else d :=
  (d.writeReg_plain v adds _ rfl rfl).trans rfl
theorem Dev.writeReg_TRC_TILE_CTRL (b x : Nat) : d.writeReg (r2 .TRC_TILE_CTRL b x) v adds = d.writeTraceCtrl b x v :=
  (d.writeReg_plain v adds _ rfl rfl).trans rfl
theorem Dev.writeReg_BRK_CLAIM : d.writeReg (r0 .BRK_CLAIM) v adds = d.claim :=
  (d.writeReg_plain v adds _ rfl rfl).trans rfl
theorem Dev.writeReg_BRK_COMPLETE : d.writeReg (r0 .BRK_COMPLETE) v adds = d.complete v.toNat :=
  (d.writeReg_plain v adds _ rfl rfl).trans rfl
theorem Dev.writeReg_BRK_SET (w : Nat) : d.writeReg (r1 .BRK_SET w) v adds = d.raiseWord w v :=
  (d.writeReg_plain v adds _ rfl rfl).trans rfl
/-- A raise of the cycle of a clear leaves its source pending (R11, R459). -/
theorem Dev.writeReg_BRK_PENDING (w : Nat) : d.writeReg (r1 .BRK_PENDING w) v adds =
    ((List.range 32).filter (bitOf adds.toNat)).foldl (fun d k => d.raise (32 * w + k)) (d.store (r1 .BRK_PENDING w) v) := by
  unfold Dev.writeReg Dev.setSame
  exact if_pos rfl

end Sys2Proof.Machine
end

