-- ==== Sys2Proof/Machine/Select.lean ====
section
/-! DEFINITION. Block selection (R319, R320, R322): which blocks of a sequence are the window, which are candidates, what each tile of
a head's barn scores, and which candidates are selected. -/

namespace Sys2Proof.Machine

/-- The current block of position p (R319). -/
def currentBlock (p : Nat) : Nat := p / 64

/-- The number of candidates: blocks 0 to c - WINDOW_BLOCKS (R319). -/
def candidateCount (p window : Nat) : Nat := currentBlock p + 1 - window

/-- The blocks of the window (R319). -/
def windowBlocks (p window : Nat) : List Nat := (List.range (currentBlock p + 1)).drop (candidateCount p window)

/-- NBLK of the SCORE that logical tile t issues: the candidates b with b mod 704 = t (R320). -/
def tileNblk (count t : Nat) : Nat := (count + 703 - t) / 704

/-- TOPK of that SCORE (R320). -/
def tileTopk (select count t : Nat) : Nat := min select (tileNblk count t)

/-- The block of an entry of logical tile t's list, by the list's index (R318, R322). -/
def blockOfEntry (t i : Nat) : Nat := 704 * i + t

/-- Two lists merged: the first k entries, the higher score first, then the lower block (R322). -/
def mergeScores (k : Nat) (u v : List (Nat × Nat)) : List (Nat × Nat) := (sortBy scoreBefore (u ++ v)).take k

/-- The blocks that a layer and head select at position p, from each candidate's BF16 score (R322). -/
def selectBlocks (select window p : Nat) (score : Nat → Nat) : List Nat :=
  let c := candidateCount p window
  (mergeScores (min select c) ((List.range c).map fun b => (b, score b)) []).map (·.1)

/-- Whether position p attends to position x (R319). -/
def attends (select window p : Nat) (score : Nat → Nat) (x : Nat) : Bool :=
  decide (x ≤ p) && ((windowBlocks p window).contains (x / 64) || (selectBlocks select window p score).contains (x / 64))

end Sys2Proof.Machine
end

