-- ==== Sys2Proof/Tests/Slice0.lean ====
section
/-! SUPPORT. Tests: ill-formed commands, a witness of the hypotheses of each statement, and small tests of single steps against the
worked examples and tables of the spec. The table gives no row bits, so there is no word to decode. -/

namespace Sys2Proof.Tests

open Sys2Proof Sys2Proof.Machine

set_option maxRecDepth 20000

/-! ## Small devices -/

/-- A device in service: one tile out of reset, every region's clock running, a Ringmaster active, beat 1000 × 2^20. -/
def up : Dev :=
  { ((({} : Dev).setF (r0 .RM_STATUS) Fld.RM_STATUS_ACTIVE 1).setF (r0 .YARD_STATUS) Fld.YARD_STATUS_MEMBERS 1) with
    beat := 1048576000, counting := true, start := { out := true }, barnsIn := 255
    tiles := [(0, { logical := some 0, inReset := false, halted := false })]
    regions := (List.range 64).map fun r => (r, { started := true }) }

/-- `up` with its tile changed. -/
def tileUp (f : Tile → Tile) : Dev := up.updTile 0 0 f

/-- A command that waits, pushed first. -/
def entry (c : W128) : QEntry := { cmd := c, idx := 0 }

/-- `up` with one command in a queue of its tile. -/
def queued (q : Nat) (c : W128) : Dev := tileUp fun t => { t with queues := [(q, [entry c])] }

/-- `up` with a change of the point of half 0. -/
def moving (c : Change) : Dev := up.setHalf 0 { change := some c }

/-- A word of a form, with SUB 1 (the values of SUB stand in the Argil reference, which the spec does not give). -/
def wordOf (f : Form) : Nat :=
  f.cls + 16 + (f.a.getD 0) * 2 ^ 8 + (match f.tail with
    | .reg c => (f.b.getD 0) * 2 ^ 13 + (c.getD 0) * 2 ^ 18
    | .imm14 v => (f.b.getD 0) * 2 ^ 13 + v.toNat * 2 ^ 18
    | .imm19 v => v.toNat * 2 ^ 13)

/-- A device whose tile has a word of a form at its PC, which is 0. -/
def holding (f : Form) (d : Dev) : Dev := d.updTile 0 0 fun t => { t with fetchImg := writeCells [] 0 (bytesLE (wordOf f) 4) }

/-- `up` with that word. -/
def running (f : Form) : Dev := holding f up

/-- `up` with its core waiting. -/
def waiting (w : Wait) : Dev := tileUp fun t => { t with wait := some w }

/-- A packet of a type, all else 0. -/
def packet (ty : Nat) : Packet := { hdr := BitVec.ofNat 256 ty, data := [] }

/-- An operation that holds a slot since beat 0. -/
def oneSlot : Slot := { queue := 3, idx := 0, pkt := packet 2, dest := 0, issue := 0, sent := 0 }

/-- A queue pair. -/
def qp0 : Qp := { port := 0, peer := 0, mtu := 0, rate := 100, rateAt := 0, heard := 0, last := some .ack }

/-- `up` with port 0 up and a queue pair on it. -/
def etherUp : Dev :=
  { (up.setF (r1 .ETH_CTRL 0) Fld.ETH_CTRL_ENABLE 1).setF (r1 .ETH_STATUS 0) Fld.ETH_STATUS_LINK_UP 1 with qps := [(0, some qp0)] }

/-- A request message. -/
def request (code : Byte) : List Byte := code :: List.replicate 127 0

/-- An act that runs. -/
def anAct (vocab tiles : Byte) : Act :=
  { image := [], headerAddr := 0, running := true
    header := (List.range 0x206).map fun i => if i = 0x14 then vocab else if i = 0x4C then tiles else if i = 0x205 then 4 else 0 }

/-- A session with one command rung. -/
def sess0 : Session := { qp := 0, ring := { entries := 4 }, rung := 1 }

/-- A service with that session. -/
def svc0 : Svc := { sessions := [(0, some sess0)] }

/-- `etherUp` with that service; bytes of the command at its place in the area. -/
def served (entry : List (Nat × Byte)) : Dev :=
  { entry.foldl (fun d e => d.write (localBase 0 0 + 0x1000 + e.1) [e.2]) etherUp with svc := some svc0, act := some (anAct 1 0) }

/-- Further bytes that an OPEN needs: ring records, TOP_P 1, PENALTY 1, TOP_K 1. -/
def opener : List (Nat × Byte) := [(0x2C, 1), (0x46, 0x80), (0x47, 0x3F), (0x4E, 0x80), (0x4F, 0x3F), (0x50, 1)]

/-- A stack that has stopped accepting, with one read waiting. -/
def leaving : HbmSt := { fetches := [{ line := 0, waits := [packet 2] }], closedAt := some 1048575000 }

/-- An image with a list of configuration records. -/
def image0 (l : List CfgRecord) : SlotImage :=
  { sfdpOk := true, magic := 0, format := 0, seq := 0, fwVersion := 0, sectionCount := 0, bytes := 0, zeros := true, sections := []
    firmware := [], certs := [], seed := [], check := [], deviceSigned := true
    cert4 := { format := 0, kind := 0, serial := 0, key := [], id := [], minVersion := 0, deviceCount := 0, deviceIds := [], rest := []
               signature := [], signedOk := true }
    spareHeadOk := true, spares := [], calSigned := true, calHeadOk := true, calDevice := 0
    cal := { chains := [], sense := [], holdover := 0, holdoverTemp := [], nodes := [], edges := [], sf := [], sfl := 0, sfh := 0
             weights := [], rings := [], replicas := [], margins := [] }
    calHash := [], vendorSigned := true, ownerSigned := true, vendorManifest := [], ownerManifest := [], configHeadOk := true
    actMinVersion := 0, records := l, fields := [], fieldSlots := 0 }

/-- A frame of no bytes, and a connection request. -/
def ethFrame0 : EthFrame := { ipBytes := 0, fcsOk := true, tags := [], kind := .other }
def cmReq0 : CmReq := { v6 := false, src := 0, qp := 0, mtu := 0 }

/-- `up` in a phase of the start. -/
def phased (n : Nat) (st : StartSt) : Dev :=
  { up.setF (r0 .TACK_STATUS) Fld.TACK_STATUS_START_PHASE n with start := { st with out := true } }

/-- Phase 2 with a record of a kind at hand. -/
def recorded (kind : Nat) : Dev := phased 2 { begun := true, image := some (image0 [{ kind := kind }]) }

/-- `up` with a mask of stacks in the window in force. -/
def window (mask : Nat) : Dev := up.setF (r0 .WIN_IN_FORCE) Fld.WIN_IN_FORCE_MASK mask

/-! ## Ill-formed commands: for each check of each command a term that only that check refuses -/

theorem test_ill_formed_BusAccesses : ([
    .registerWrite 0x10000000000 0 0, .loRead 0x10000000000, .rcRead 0x10000000000 0, .slotEntryRead 8 0 0, .slotEntryRead 0 768 0,
    .slotEntryRead 0 0 64] :
    List Instr).all (fun c => !c.wf) = true := by decide

theorem test_ill_formed_PointChanges : ([
    .halfCommit 16 0, .changeVcoreStart 16, .standbyLockStart 16, .readinessCheck 16 false false, .halfSwitch 16, .loweringVcoreStart 16,
    .changeBusyClear 16, .pllLoss 16, .pllLockResume 16 false, .pllRelockAttempt 16 false false] :
    List Instr).all (fun c => !c.wf) = true := by decide

theorem test_ill_formed_RegionClockCommands : ([
    .stretch 64 0, .replicaTrim 64, .gate 64 0, .gateRelease 64 0] :
    List Instr).all (fun c => !c.wf) = true := by decide

theorem test_ill_formed_CoreComputeAndControl : ([
    .alu 8 0 false .add false 0 0 0, .alu 0 768 false .add false 0 0 0, .alu 0 0 false .add false 32 0 0, .alu 0 0 false .add false 0 32 0,
    .alu 0 0 false .add false 0 0 32, .aluImm 8 0 false .add false 0 0 0, .aluImm 0 768 false .add false 0 0 0, .aluImm 0 0 false .add false
    32 0 0, .aluImm 0 0 false .add false 0 32 0, .lui 8 0 0 0, .lui 0 768 0 0, .lui 0 0 32 0, .branch 8 0 .eq 0 0 0, .branch 0 768 .eq 0 0
    0, .branch 0 0 .eq 32 0 0, .branch 0 0 .eq 0 32 0, .jal 8 0 0 0, .jal 0 768 0 0, .jal 0 0 32 0, .jalr 8 0 0 0 0, .jalr 0 768 0 0 0,
    .jalr 0 0 32 0 0, .jalr 0 0 0 32 0, .csrr 8 0 false 0 0, .csrr 0 768 false 0 0, .csrr 0 0 false 32 0, .csrw 8 0 false 0 0 0, .csrw 0 768
    false 0 0 0, .csrw 0 0 false 32 0 0, .yield 8 0 false, .yield 0 768 false, .iflush 8 0 false, .iflush 0 768 false, .trap 8 0 false,
    .trap 0 768 false, .eret 8 0 false, .eret 0 768 false, .halt 8 0 false, .halt 0 768 false, .nop 8 0 false, .nop 0 768 false] :
    List Instr).all (fun c => !c.wf) = true := by decide

theorem test_ill_formed_CoreMemoryAndQueues : ([
    .load 8 0 .b8 false 0 0 0, .load 0 768 .b8 false 0 0 0, .load 0 0 .b8 false 32 0 0, .load 0 0 .b8 false 0 32 0, .store 8 0 .b8 0 0 0,
    .store 0 768 .b8 0 0 0, .store 0 0 .b8 32 0 0, .store 0 0 .b8 0 32 0, .push 8 0 false 0 0, .push 0 768 false 0 0, .push 0 0 false 32 0,
    .push 0 0 false 0 32, .pushUnstall 8 0, .pushUnstall 0 768, .pusht 8 0 false 0 0 0, .pusht 0 768 false 0 0 0, .pusht 0 0 false 32 0 0,
    .pusht 0 0 false 0 32 0, .pusht 0 0 false 0 0 32, .waita 8 0 false 0 0 0, .waita 0 768 false 0 0 0, .waita 0 0 false 32 0 0, .waita 0 0
    false 0 32 0, .waita 0 0 false 0 0 32, .waitc 8 0 false 0 0 0, .waitc 0 768 false 0 0 0, .waitc 0 0 false 32 0 0, .waitc 0 0 false 0 32
    0, .waitc 0 0 false 0 0 32, .waitb 8 0 false 0 0, .waitb 0 768 false 0 0, .waitb 0 0 false 32 0, .waitb 0 0 false 0 32, .waitSatisfied 8
    0, .waitSatisfied 0 768, .waitTimeout 8 0, .waitTimeout 0 768, .acrd 8 0 false 0 0, .acrd 0 768 false 0 0, .acrd 0 0 false 32 0, .acrd 0
    0 false 0 32, .acwr 8 0 false 0 0 0, .acwr 0 768 false 0 0 0, .acwr 0 0 false 32 0 0, .acwr 0 0 false 0 32 0, .acadd 8 0 false 0 0,
    .acadd 0 768 false 0 0, .acadd 0 0 false 32 0, .acadd 0 0 false 0 32, .ccrd 8 0 false 0 0, .ccrd 0 768 false 0 0, .ccrd 0 0 false 32 0,
    .ccrd 0 0 false 0 32, .ccwr 8 0 false 0 0 0, .ccwr 0 768 false 0 0 0, .ccwr 0 0 false 32 0 0, .ccwr 0 0 false 0 32 0] :
    List Instr).all (fun c => !c.wf) = true := by decide

theorem test_ill_formed_MatrixCommands : ([
    .engineNop 8 0 0, .engineNop 0 768 0, .engineNop 0 0 6, .commandCompletion 8 0 0, .commandCompletion 0 768 0, .commandCompletion 0 0 6,
    .mma 8 0, .mma 0 768, .mmaSparse 8 0, .mmaSparse 0 768, .accZero 8 0, .accZero 0 768, .accLoad 8 0, .accLoad 0 768, .accStore 8 0,
    .accStore 0 768, .streamUnitArrival 8 0 0, .streamUnitArrival 0 768 0, .streamUnitArrival 0 0 4] :
    List Instr).all (fun c => !c.wf) = true := by decide

theorem test_ill_formed_VectorCommands : ([
    .vecAdd 8 0, .vecAdd 0 768, .vecMul 8 0, .vecMul 0 768, .vecFma 8 0, .vecFma 0 768, .vecMax 8 0, .vecMax 0 768, .vecMin 8 0, .vecMin 0
    768, .scale 8 0, .scale 0 768, .exp 8 0, .exp 0 768, .recip 8 0, .recip 0 768, .rsqrt 8 0, .rsqrt 0 768, .cvt 8 0, .cvt 0 768, .sum 8 0,
    .sum 0 768, .rmax 8 0, .rmax 0 768, .rng 8 0, .rng 0 768] :
    List Instr).all (fun c => !c.wf) = true := by decide

theorem test_ill_formed_TransfersAndMessages : ([
    .copy 8 0 [], .copy 0 768 [], .copyd 8 0 [], .copyd 0 768 [], .heldPacketIssue 8 0, .heldPacketIssue 0 768, .msgLoad 8 0, .msgLoad 0
    768, .msgStore 8 0, .msgStore 0 768, .atomic 8 0, .atomic 0 768, .reduce 8 0, .reduce 0 768, .reduceAck 8 0, .reduceAck 0 768, .mcast 8
    0, .mcast 0 768, .signal 8 0, .signal 0 768, .event 8 0, .event 0 768, .loftRead 8 0 [], .loftRead 0 768 [], .loftWrite 8 0 [],
    .loftWrite 0 768 [], .loftStream 8 0 [], .loftStream 0 768 [], .score 8 0 [], .score 0 768 []] :
    List Instr).all (fun c => !c.wf) = true := by decide

theorem test_ill_formed_TileArrivalsAndControl : ([
    .targetTileArrival 8 0 (packet 2) [], .targetTileArrival 0 768 (packet 2) [], .replyArrival 8 0 (packet 2), .replyArrival 0 768 (packet
    2), .slotTimeout 8 0 0, .slotTimeout 0 768 0, .slotTimeout 0 0 64, .eventPost 8 0 0, .eventPost 0 768 0, .tileReset 8 0 0, .tileReset 0
    768 0, .tileResetRelease 8 0, .tileResetRelease 0 768, .tileRun 8 0 0, .tileRun 0 768 0, .tileHalt 8 0 0, .tileHalt 0 768 0, .remapPost
    8 0 0, .remapPost 0 768 0, .counterWrite 8 0 false 0 0 0, .counterWrite 0 768 false 0 0 0, .counterWrite 0 0 false 32 0 0, .counterWrite
    0 0 true 16 0 0, .gregWrite 8 0 0 false 0, .gregWrite 0 768 0 false 0, .gregWrite 0 0 32 false 0] :
    List Instr).all (fun c => !c.wf) = true := by decide

theorem test_ill_formed_RouterAndSchedule : ([
    .routerIngress 8 0 0 (packet 2) .clean [], .routerIngress 0 768 0 (packet 2) .clean [], .routerIngress 0 0 6 (packet 2) .clean [],
    .routerIngress 0 0 0 (packet 2) .clean [], .routerIngress 0 0 5 (packet 2) .clean [], .schedStart 8 0, .schedStart 0 768, .schedSlot 8
    0, .schedSlot 0 768, .frameBoundary 8 0, .frameBoundary 0 768, .addStageResume 8 0 0, .addStageResume 0 768 0, .addStageResume 0 0 5,
    .schedEn 8 0 0, .schedEn 0 768 0, .flowEnable 8 0 0 0, .flowEnable 0 768 0 0, .flowEnable 0 0 32 0, .sinkEnable 8 0 0 0, .sinkEnable 0
    768 0 0, .sinkEnable 0 0 32 0] :
    List Instr).all (fun c => !c.wf) = true := by decide

theorem test_ill_formed_RoutesAndTaps : ([
    .rtParentWrite 8 0 0, .rtParentWrite 0 768 0, .rtMapWrite 8 0 0, .rtMapWrite 0 704 0, .routeLoad 8 0, .routeLoadDone 8, .routeRewrite 8
    0, .routeRewrite 0 768, .tapCrcError 8 352 0, .tapCrcError 0 768 0, .tapCrcError 0 0 0, .tapCrcError 0 352 5, .tapBundleRetire 8 352 0,
    .tapBundleRetire 0 768 0, .tapBundleRetire 0 0 0, .tapBundleRetire 0 352 5] :
    List Instr).all (fun c => !c.wf) = true := by decide

theorem test_ill_formed_LoftControl : ([
    .coilCrcError 8 0 0, .coilCrcError 0 768 0, .coilCrcError 0 0 4, .coilRetire 8 0 0, .coilRetire 0 768 0, .coilRetire 0 0 4, .loftScrub 8
    0 0 .clean, .loftScrub 0 768 0 .clean, .loftScrub 0 0 0x1000000 .clean, .loftCtrlWrite 8 0 0 0, .loftCtrlWrite 0 768 0 0, .loftCtrlWrite
    0 0 5 0, .loftInv 8 0 0, .loftInv 0 768 0, .loftInvDone 8 0, .loftInvDone 0 768] :
    List Instr).all (fun c => !c.wf) = true := by decide

theorem test_ill_formed_PowerEvents : ([
    .faultTermEnd 16, .oppLower 8, .railFault 45 0, .diodeRead 24 0, .diodeRead 0 4096, .trip 24] :
    List Instr).all (fun c => !c.wf) = true := by decide

theorem test_ill_formed_StackEvents : ([
    .hbmTraining 20 false, .hbmTracking 20, .hbmThermalUpdate 20, .hbmReadout 20 0, .hbmReadout 0 256, .hbmScrub 20 0 .clean 0, .hbmScrub 0
    0x1400000000 .clean 0, .hbmRequest 20 (packet 2) [] 0, .prefetchFill 20 0 [] 0, .lineExpire 20 0, .trackerIdle 20 0, .hbmCommandTimeout
    20 0] :
    List Instr).all (fun c => !c.wf) = true := by decide

theorem test_ill_formed_WindowAndShapeChanges : ([
    .hbmRetire 20 0, .stackRetire 20, .stackRetireDrained 20] :
    List Instr).all (fun c => !c.wf) = true := by decide

theorem test_ill_formed_PortRouterEvents : ([
    .portRouterPacket 32 0 (packet 2), .portRouterPacket 0 41 (packet 2), .tagFree 8 0, .tagFree 32 0, .tagFree 0 8192, .creditReturnRelease
    8 0 0 0 0, .creditReturnRelease 0 768 0 0 0, .creditReturnRelease 0 0 16 0 0, .creditReturnRelease 0 0 0 28 0, .ledgerExecute 28 (packet
    2), .ledgerHoldRelease 28, .portReset 32 0, .portResetEnd 32, .portHang 32, .lossReport 32, .portUncorrectableError 32] :
    List Instr).all (fun c => !c.wf) = true := by decide

theorem test_ill_formed_OpticalLinkMessages : ([
    .opticalFlitReceive 502 0 0 [] (.control []), .opticalFlitReceive 0 2 0 [] (.control []), .opticalFlitReceive 0 0 4096 [] (.control []),
    .ack 502 0 0, .ack 0 2 0, .nack 502 0 0, .nack 0 2 0, .credit 502 0 0, .credit 0 2 0, .laneMap 502 0 0, .laneMap 0 2 0, .laneMapAck 502
    0 0, .laneMapAck 0 2 0, .laneReq 502 0 0, .laneReq 0 2 0, .pairFail 502 0, .pairFail 0 2, .pairReturn 502] :
    List Instr).all (fun c => !c.wf) = true := by decide

theorem test_ill_formed_RingAndLaneEvents : ([
    .ringTune 502 0 false 0 0, .ringTune 0 2 false 0 0, .ringTune 0 0 false 16 0, .ringFeedforward 502 0 false 0, .ringFeedforward 0 2 false
    0, .ringFeedforward 0 0 false 16, .ringLockLoss 502 0 false 0, .ringLockLoss 0 2 false 0, .ringLockLoss 0 0 false 16, .ringRelock 502 0
    false 0 0, .ringRelock 0 2 false 0 0, .ringRelock 0 0 false 16 0, .ringRelock 0 0 false 0 50001, .ringRelock 0 0 false 0 (-50001),
    .rehop 502 0 false false, .rehop 0 2 false false, .patternCheckDone 502 0 0 0, .patternCheckDone 0 2 0 0, .patternCheckDone 0 0 16 0,
    .patternRetry 502 0 0, .patternRetry 0 2 0, .patternRetry 0 0 16, .linkTraining 502 0 [] [] [], .linkTraining 0 2 [] [] [],
    .marginReport 502 0 0 0, .marginReport 0 2 0 0, .marginReport 0 0 16 0] :
    List Instr).all (fun c => !c.wf) = true := by decide

theorem test_ill_formed_LaserAndModuleEvents : ([
    .apcUpdate 8 0 0, .apcUpdate 0 60 0, .laserFail 8 0, .laserFail 0 60, .spareSwitchIn 8 0, .spareSwitchIn 0 60, .spareLocked 8 0 false,
    .spareLocked 0 60 false, .spareLocked 0 56 false, .switchInComplete 8 0, .switchInComplete 0 60, .switchInComplete 0 56, .moduleInsert
    8, .moduleResetRelease 8 none, .moduleReady 8 [], .moduleReleaseReq 8 false, .modRelease 8 0, .moduleDark 8, .moduleReleaseTimeout 8,
    .unplannedRemoval 8, .moduleFault 8] :
    List Instr).all (fun c => !c.wf) = true := by decide

theorem test_ill_formed_YardLinkEvents : ([
    .codewordReceive 32 0 [] [], .codewordReceive 0 8 [] [], .yardAck 32 0, .yardNack 32 0, .yardCredit 32 0, .chMap 32 0, .chMapAck 32 0,
    .chReq 32 0, .channelTrain 32 0 false 0, .channelTrain 0 8 false 0, .channelDrop 32 0 false, .channelDrop 0 8 false, .channelRetry 32 0,
    .channelRetry 0 8, .ylinkFail 32, .ylinkRetrain 32 0] :
    List Instr).all (fun c => !c.wf) = true := by decide

theorem test_ill_formed_YardMembership : ([
    .ident 32 0, .heartbeat 32 0, .join 32 0, .leave 32 0, .resetNotice 32 0 0, .resetNotice 0 33 0, .drainReq 32 0, .drained 32 0,
    .joinBeat 16, .memberLoss 16, .flowMove 16, .gateRequest 32 (packet 2), .ystreamSlot 32 0, .ystreamSlot 0 64, .mcastGroupWrite 256 0] :
    List Instr).all (fun c => !c.wf) = true := by decide

theorem test_ill_formed_ManagementRequestsAndDoorbells : ([
    .query 4096 (request 1), .query 0 [], .loadAct 4096 (request 2), .loadAct 0 [], .startAct 4096 (request 3), .startAct 0 [], .stopAct
    4096 (request 4), .stopAct 0 [], .sessionOpen 4096 (request 5), .sessionOpen 0 [], .sessionClose 4096 (request 6), .sessionClose 0 [],
    .doorbell 4096 0, .svcNop 16, .svcOpen 16, .svcAppend 16, .svcCancel 16, .svcClose 16, .loadWeights 16 [], .readStatus 16, .adopt 16] :
    List Instr).all (fun c => !c.wf) = true := by decide

theorem test_ill_formed_GenerationRounds : ([
    .prefillChunk 256, .loftLossReload 8 0, .loftLossReload 0 768, .masterRecopy 20, .kvLoss 20, .sessionLost 16, .adoptHoldExpire 256] :
    List Instr).all (fun c => !c.wf) = true := by decide

theorem test_ill_formed_EthernetEvents : ([
    .ethFrameRx 4 ethFrame0, .ethLinkRetry 4 false, .pfcFrame 4 [], .pfcFrame 0 [(8, 0)], .pfcFrame 0 [(0, 65536)], .pfcXoff 4 0, .pfcXoff 0
    2049, .ceReceive 4 0, .ceReceive 0 4096, .cnpReceive 4096, .rateRecover 4096, .send 4096 [], .rdmaWrite 4096 0 0 [] none, .rdmaRead 4096
    0 0 0, .rdmaReadResponse 4096 false [], .cmReq 4 cmReq0, .cmDreq 4096, .ackTimeout 4096, .ethEnable 4 0, .linkUpChange 4 false] :
    List Instr).all (fun c => !c.wf) = true := by decide

theorem test_ill_formed_StartPhases : ([
    .barnTest 8, .barnTestDone 8 ⟨false, [], [], [], []⟩, .barnEntry 8] :
    List Instr).all (fun c => !c.wf) = true := by decide

theorem test_ill_formed_FarrierAndReentry : ([
    .farrierRegionTest 64 [], .farrierRegionTest 0 [768], .farrierRegionTest 0 [8], .remapForwardEnd 8 0, .remapForwardEnd 0 768,
    .scheduleReplace 8 0 false, .scheduleReplace 0 2 false, .barnExit 45, .barnReentry 8] :
    List Instr).all (fun c => !c.wf) = true := by decide

theorem test_ill_formed_ObservationCommands : ([
    .lostRecord 8 0, .lostRecord 0 768, .trcModeWrite 8 0 0, .trcModeWrite 0 768 0, .chunkSend 8 0, .chunkSend 0 768, .brkSet 16 0,
    .brkPendingClear 16 0 0] :
    List Instr).all (fun c => !c.wf) = true := by decide

/-! ## Statements of results: a state and operands for each clause -/

theorem witness_EmptyQueuePassesOneBeat :
    (∃ d : Dev, d.counting = false) ∧
    (∃ (d : Dev) (n : Nat), d.flag (r0 .BEAT_STATUS) Fld.BEAT_STATUS_HOLD_ACTIVE = true ∧ n ≤ d.holdLeft ∧ 0 < n) ∧
    (∃ (d : Dev) (n : Nat), d.flag (r0 .BEAT_STATUS) Fld.BEAT_STATUS_HOLD_ACTIVE = true ∧ d.holdLeft < n) ∧
    ∃ d : Dev, d.flag (r0 .BEAT_STATUS) Fld.BEAT_STATUS_HOLD_ACTIVE = false :=
  ⟨⟨{}, rfl⟩, ⟨{ up.setF (r0 .BEAT_STATUS) Fld.BEAT_STATUS_HOLD_ACTIVE 1 with holdLeft := 3 }, 3, by decide⟩,
    ⟨{ up.setF (r0 .BEAT_STATUS) Fld.BEAT_STATUS_HOLD_ACTIVE 1 with holdLeft := 3 }, 4, by decide⟩, ⟨up, by decide⟩⟩

theorem witness_CommandsOnUnitsComplete : (∃ c : Instr, c.wf = true) ∧ ∃ c : Instr, c.wf = false :=
  ⟨⟨.halfSwitch 15, by decide⟩, ⟨.halfSwitch 16, by decide⟩⟩

theorem witness_QueueStaysWellFormed : ∃ s : State, s.queueWf ∧ s.pending.length = 2 :=
  ⟨⟨up, [.halfSwitch 15, .beatSyncPulse]⟩,
    fun c h => (by decide : ∀ c ∈ ([.halfSwitch 15, .beatSyncPulse] : List Instr), c.wf = true) c h, rfl⟩

theorem witness_RunNeverStops : ∃ s : State, s.queueWf ∧ s.pending.length = 2 := 
  ⟨⟨up, [.trip 23, .nop 7 767 false]⟩,
    fun c h => (by decide : ∀ c ∈ ([.trip 23, .nop 7 767 false] : List Instr), c.wf = true) c h, rfl⟩

theorem witness_AddressNamesItsRegister : ∃ (a : Nat) (r : Reg), Reg.ofAddr a = some r := ⟨0x100000000, r0 .BEAT_CTRL, by decide⟩

theorem witness_AcceptedWriteFollowsAccessCodes :
    (∃ (r : Reg) (f : Field), f ∈ r.name.fields ∧ f.access = .rw) ∧ (∃ (r : Reg) (f : Field), f ∈ r.name.fields ∧ f.access = .w1c) ∧
    (∃ (r : Reg) (f : Field), f ∈ r.name.fields ∧ f.access = .w1s) ∧
    (∃ (r : Reg) (n : Nat), ∀ f ∈ r.name.fields, n < f.lo ∨ f.lo + f.width ≤ n) ∧ ∃ r q : Reg, r.addr ≠ q.addr :=
  ⟨⟨r0 .BEAT_CTRL, Fld.BEAT_CTRL_SYNC_EN, by decide⟩, ⟨r1 .BRK_PENDING 0, Fld.BRK_PENDING_PENDING, by decide⟩,
    ⟨r1 .HBM_CTRL 0, Fld.HBM_CTRL_RETIRE, by decide⟩, ⟨r0 .BEAT_CTRL, 31, by decide⟩, ⟨r0 .BEAT_CTRL, r0 .RM_STATUS, by decide⟩⟩

theorem witness_UnmappedAccessIsRecorded :
    (∃ (a : Nat) (d : Dev), okAddr a = true ∧ d.reaches a = true ∧ busMaps a = false) ∧
    (∃ (a : Nat) (d : Dev), okAddr a = true ∧ d.reaches a = true ∧ (busMaps a = false ∨ inRom a = true ∨ inFlash a = true)) ∧
    ∃ a : Nat, a < 2 ^ 40 :=
  ⟨⟨2 ^ 40 - 1, up, by decide⟩, ⟨0x3FFFF, up, by decide⟩, ⟨2 ^ 40 - 1, by decide⟩⟩

theorem witness_FencedWindow : ∃ (a b x : Nat) (d : Dev), okAddr a = true ∧ siteOfAddr a = some (b, x) ∧ 2 ≤ d.siteState b x ∧
    d.hasMaster = true ∧ d.rmPaused = false ∧ d.busHeld = [] :=
  ⟨0x172FFFFFFF, 7, 767, up.setF (r2 .FAR_SITE 7 767) Fld.FAR_SITE_STATE 2, by decide⟩

theorem witness_StoppedRegionHoldsAccess :
    (∃ (a b x : Nat) (d : Dev), okAddr a = true ∧ siteOfAddr a = some (b, x) ∧ d.siteState b x < 2 ∧ d.siteRuns b x = false ∧
      d.hasMaster = true ∧ d.rmPaused = false ∧ d.busHeld = []) ∧
    ∃ (a b x : Nat) (v : W32) (d : Dev), siteOfAddr a = some (b, x) ∧ d.siteState b x < 2 ∧ d.siteRuns b x = true ∧
      d.hasMaster = true ∧ d.rmPaused = false ∧ d.busHeld = [.write a v] :=
  ⟨⟨0x1000000000, 0, 0, { up with regions := [] }, by decide⟩,
    ⟨0x1000000000, 0, 0, 1, { up with busHeld := [.write 0x1000000000 1] }, by decide⟩⟩

theorem witness_LowReadLatchesHigh :
    (∃ (r : Reg) (h : RegName) (d : Dev), Reg.ofAddr r.addr = some r ∧ okAddr r.addr = true ∧ isRegister r.addr = true ∧
      d.reaches r.addr = true ∧ d.aperture r.addr = none ∧ latchedBy r.name = [h] ∧ readsLatch r.name = false) ∧
    ∃ (r : Reg) (d : Dev), Reg.ofAddr r.addr = some r ∧ okAddr r.addr = true ∧ isRegister r.addr = true ∧
      d.reaches r.addr = true ∧ d.aperture r.addr = none ∧ readsLatch r.name = true :=
  ⟨⟨r0 .BEAT_NOW_LO, .BEAT_NOW_HI, up, by decide⟩, ⟨r0 .BEAT_NOW_HI, up, by decide⟩⟩

theorem witness_ReadAndClearKeepsAdditions :
    (∃ (r : Reg) (f : Field) (d : Dev), Reg.ofAddr r.addr = some r ∧ okAddr r.addr = true ∧ isRegister r.addr = true ∧
      d.reaches r.addr = true ∧ d.aperture r.addr = none ∧ latchedBy r.name = [] ∧ readsLatch r.name = false ∧ r.name ≠ .SLOT_STATUS ∧
      f ∈ r.name.fields ∧ f.access = .rc) ∧
    ∃ (b x : Nat) (d : Dev), okSite b x = true ∧ d.reaches (r2 .SLOT_STATUS b x).addr = true :=
  ⟨⟨r0 .CLK_ERR, Fld.CLK_ERR_BUSY_REJ, up, by decide⟩, ⟨7, 767, up, by decide⟩⟩

theorem witness_RejectedChangeCountsOnce :
    (∃ (h : Nat) (v : W32) (d : Dev), h < 16 ∧ d.reaches (r1 .HALF_OPP h).addr = true ∧ Fld.HALF_OPP_COMMIT.get v = 1 ∧
      d.halfIs h Fld.HALF_STATUS_BUSY = true) ∧
    (∃ (h : Nat) (v : W32) (d : Dev), h < 16 ∧ d.reaches (r1 .HALF_OPP h).addr = true ∧ Fld.HALF_OPP_COMMIT.get v = 1 ∧
      d.halfIs h Fld.HALF_STATUS_BUSY = false ∧ d.changeBeat h < d.beat + 3000) :=
  ⟨⟨15, BitVec.ofNat 32 (2 ^ Fld.HALF_OPP_COMMIT.lo), up.setF (r1 .HALF_STATUS 15) Fld.HALF_STATUS_BUSY 1, by decide⟩,
    ⟨15, BitVec.ofNat 32 (2 ^ Fld.HALF_OPP_COMMIT.lo),
      up.setPair (r1 .HALF_CHANGE_BEAT_LO 15) (r1 .HALF_CHANGE_BEAT_HI 15) 1048578999, by decide⟩⟩

theorem witness_RaiseSetsPendingAndCounts :
    (∃ n : Nat, 1 ≤ n ∧ n ≤ 321) ∧ ∃ n : Nat, n = 0 ∨ 321 < n := ⟨⟨321, by decide⟩, ⟨322, by decide⟩⟩

/-- A Barker with some sources pending. -/
def barking (p : List Nat) : Dev := p.foldl (fun d n => d.raise n) up

theorem witness_ClaimAndCompletion :
    (∃ (n : Nat) (d : Dev), d.reaches (r0 .BRK_CLAIM).addr = true ∧ 1 ≤ n ∧ n < 512 ∧ d.claimable n = true ∧
      ∀ m, n < m → m < 512 → d.claimable m = false) ∧
    (∃ d : Dev, d.reaches (r0 .BRK_CLAIM).addr = true ∧ ∀ m, 1 ≤ m → m < 512 → d.claimable m = false) ∧
    (∃ (v : W32) (d : Dev), d.reaches (r0 .BRK_COMPLETE).addr = true ∧ 1 ≤ v.toNat ∧ v.toNat < 512 ∧
      d.sourceBit .BRK_INSERVICE v.toNat = true) ∧
    ∃ (d : Dev) (n : Nat), 1 ≤ n ∧ n < 512 ∧ d.sourceBit .BRK_PENDING n = true ∧ d.sourceBit .BRK_ENABLE n = true ∧
      d.getF (r0 .BRK_CTRL) Fld.BRK_CTRL_THRESH < n :=
  ⟨⟨321, barking [1, 321], by decide, by decide, by decide, by decide,
      fun m h g => (by decide : ∀ m : Fin 512, 321 < m.val → (barking [1, 321]).claimable m.val = false) ⟨m, g⟩ h⟩,
    ⟨up, by decide, fun m h g => (by decide : ∀ m : Fin 512, 1 ≤ m.val → up.claimable m.val = false) ⟨m, g⟩ h⟩,
    ⟨1, up.setSourceBit .BRK_INSERVICE 1 true, by decide⟩, ⟨barking [321], 321, by decide⟩⟩

theorem witness_CounterWriteThenAdditions :
    (∃ (b x rb c : Nat) (d : Dev), okSite b x = true ∧ rb < 32 ∧ c < 32 ∧ d.issues b x ⟨7, none, some rb, .reg (some c)⟩ = true) ∧
    (∃ (b x rb c : Nat) (d : Dev), okSite b x = true ∧ rb < 32 ∧ c < 16 ∧ d.issues b x ⟨7, none, some rb, .reg (some c)⟩ = true) ∧
    (∃ (b x i : Nat) (d : Dev), okSite b x = true ∧ i < 32 ∧ d.reaches (r3 .AC b x i).addr = true) ∧
    ∃ (b x i : Nat) (d : Dev), okSite b x = true ∧ i < 16 ∧ d.reaches (r3 .CC b x i).addr = true :=
  ⟨⟨0, 0, 31, 31, running ⟨7, none, some 31, .reg (some 31)⟩, by decide⟩, ⟨0, 0, 31, 15, running ⟨7, none, some 31, .reg (some 15)⟩,
    by decide⟩, ⟨7, 767, 31, up, by decide⟩, ⟨7, 767, 15, up, by decide⟩⟩

theorem witness_GregNeedsHaltedCore :
    (∃ (b x n : Nat) (d : Dev), okSite b x = true ∧ n < 32 ∧ d.reaches (r3 .GREG_LO b x n).addr = true ∧
      d.reaches (r3 .GREG_HI b x n).addr = true ∧ (d.tile b x).halted = false) ∧
    ∃ (b x n : Nat) (d : Dev), okSite b x = true ∧ n < 32 ∧ d.reaches (r3 .GREG_LO b x n).addr = true ∧
      d.reaches (r3 .GREG_HI b x n).addr = true ∧ (d.tile b x).halted = true :=
  ⟨⟨0, 0, 0, up, by decide⟩, ⟨7, 767, 31, up, by decide⟩⟩

/-- The tile of `up` with one general register set. -/
def regUp (n : Nat) (v : W64) : Dev := tileUp fun t => { t.put n v with pc := 0 }

theorem witness_DivisionCorners :
    (∃ (b x a rb c : Nat) (op : AluOp) (d : Dev), okSite b x = true ∧ a < 32 ∧ rb < 32 ∧ c < 32 ∧
      d.issues b x ⟨0, some a, some rb, .reg (some c)⟩ = true ∧ (d.tile b x).reg c = 0 ∧ (op = .div ∨ op = .divu)) ∧
    (∃ (b x a rb c : Nat) (op : AluOp) (d : Dev), okSite b x = true ∧ a < 32 ∧ rb < 32 ∧ c < 32 ∧
      d.issues b x ⟨0, some a, some rb, .reg (some c)⟩ = true ∧ (d.tile b x).reg c = 0 ∧ (op = .rem ∨ op = .remu)) ∧
        ∃ q : W64, q.setWidth 32 = (0 : W32) ∧ q ≠ 0 :=
  ⟨⟨0, 0, 31, 1, 0, .div, holding ⟨0, some 31, some 1, .reg (some 0)⟩ (regUp 1 7), by decide⟩,
    ⟨0, 0, 31, 1, 0, .remu, holding ⟨0, some 31, some 1, .reg (some 0)⟩ (regUp 1 7), by decide⟩, ⟨0x100000000, by decide⟩⟩

theorem witness_LoadStoreExceptions :
    (∃ (b x a rb : Nat) (size : MemSize) (d : Dev), okSite b x = true ∧ a < 32 ∧ rb < 32 ∧ size ≠ .unassigned ∧
      d.issues b x ⟨2, some a, some rb, .imm14 0⟩ = true ∧
      let ea := (((d.issued b x).tile b x).reg rb + (0 : BitVec 14).signExtend 64).toNat
      0x200000 < ea + sizeBytes size) ∧
    (∃ (b x a rb : Nat) (size : MemSize) (d : Dev), okSite b x = true ∧ a < 32 ∧ rb < 32 ∧ size ≠ .unassigned ∧
      d.issues b x ⟨3, some a, some rb, .imm14 0⟩ = true ∧
      let ea := (((d.issued b x).tile b x).reg rb + (0 : BitVec 14).signExtend 64).toNat
      0x200000 < ea + sizeBytes size) ∧
    (∃ (b x a rb : Nat) (size : MemSize) (d : Dev), okSite b x = true ∧ a < 32 ∧ rb < 32 ∧ size ≠ .unassigned ∧
      d.issues b x ⟨2, some a, some rb, .imm14 0⟩ = true ∧
      let ea := (((d.issued b x).tile b x).reg rb + (0 : BitVec 14).signExtend 64).toNat
      ea + sizeBytes size ≤ 0x200000 ∧ ea % sizeBytes size ≠ 0) ∧
    (∃ (b x a rb : Nat) (size : MemSize) (d : Dev), okSite b x = true ∧ a < 32 ∧ rb < 32 ∧ size ≠ .unassigned ∧
      d.issues b x ⟨3, some a, some rb, .imm14 0⟩ = true ∧
      let ea := (((d.issued b x).tile b x).reg rb + (0 : BitVec 14).signExtend 64).toNat
      ea + sizeBytes size ≤ 0x200000 ∧ ea % sizeBytes size ≠ 0) :=
  ⟨⟨0, 0, 1, 2, .b4, holding ⟨2, some 1, some 2, .imm14 0⟩ (regUp 2 0x1FFFFD), by decide⟩,
    ⟨0, 0, 1, 2, .b4, holding ⟨3, some 1, some 2, .imm14 0⟩ (regUp 2 0x1FFFFD), by decide⟩,
    ⟨0, 0, 1, 2, .b4, holding ⟨2, some 1, some 2, .imm14 0⟩ (regUp 2 0x1FFFFB), by decide⟩,
    ⟨0, 0, 1, 2, .b4, holding ⟨3, some 1, some 2, .imm14 0⟩ (regUp 2 0x1FFFFB), by decide⟩⟩

theorem witness_StoreFrame :
    ∃ (b x a rb : Nat) (size : MemSize) (imm : BitVec 14) (d : Dev), okSite b x = true ∧ a < 32 ∧ rb < 32 ∧
      d.issues b x ⟨3, some a, some rb, .imm14 imm⟩ = true ∧
      size ≠ .unassigned ∧ ((d.tile b x).reg rb + imm.signExtend 64).toNat + sizeBytes size ≤ 0x200000 ∧
      ((d.tile b x).reg rb + imm.signExtend 64).toNat % sizeBytes size = 0 :=
  ⟨0, 0, 1, 2, .b8, -8, holding ⟨3, some 1, some 2, .imm14 (-8)⟩ (regUp 2 0x200000), by decide⟩

theorem witness_RegisterInstructionFrame :
    (∃ (op : AluOp) (cond : Cond), aluAssigned op = true ∧ aluUnary op = false ∧ cond ≠ .unassigned) ∧
    (∃ (b x a rb c : Nat) (d : Dev), okSite b x = true ∧ a < 32 ∧ rb < 32 ∧ c < 32 ∧ d.issues b x ⟨0, some a, some rb, .reg (some c)⟩ = true) ∧
    (∃ (b x a : Nat) (rb : Nat) (imm : BitVec 14) (d : Dev), okSite b x = true ∧ a < 32 ∧ rb < 32 ∧
      d.issues b x ⟨1, some a, some rb, .imm14 imm⟩ = true) ∧
    (∃ (b x a : Nat) (long : BitVec 19) (d : Dev), okSite b x = true ∧ a < 32 ∧ d.issues b x ⟨1, some a, none, .imm19 long⟩ = true) ∧
    (∃ (b x a : Nat) (long : BitVec 19) (d : Dev), okSite b x = true ∧ a < 32 ∧ d.issues b x ⟨5, some a, none, .imm19 long⟩ = true) ∧
    (∃ (b x a : Nat) (rb : Nat) (imm : BitVec 14) (d : Dev), okSite b x = true ∧ a < 32 ∧ rb < 32 ∧
      d.issues b x ⟨4, some a, some rb, .imm14 imm⟩ = true) :=
  ⟨⟨.mulhu, .eq, by decide⟩,
    ⟨0, 0, 0, 31, 31, running ⟨0, some 0, some 31, .reg (some 31)⟩, by decide⟩,
    ⟨0, 0, 31, 31, -1, running ⟨1, some 31, some 31, .imm14 (-1)⟩, by decide⟩,
    ⟨0, 0, 31, -1, running ⟨1, some 31, none, .imm19 (-1)⟩, by decide⟩,
    ⟨0, 0, 31, -1, running ⟨5, some 31, none, .imm19 (-1)⟩, by decide⟩,
    ⟨0, 0, 31, 31, -1, running ⟨4, some 31, some 31, .imm14 (-1)⟩, by decide⟩⟩

theorem witness_ExceptionEntryAndReturn :
    (∃ (b x : Nat) (d : Dev), (d.tile b x).inExc = false) ∧ ∃ (b x : Nat) (d : Dev), okSite b x = true ∧
      d.issues b x ⟨8, none, none, .reg none⟩ = true :=
  ⟨⟨0, 0, up, by decide⟩, ⟨0, 0, running ⟨8, none, none, .reg none⟩, by decide⟩⟩

theorem witness_SecondExceptionHalts : ∃ (b x : Nat) (d : Dev), b < 8 ∧ (d.tile b x).inExc = true :=
  ⟨0, 0, tileUp fun t => { t with inExc := true }, by decide⟩

/-- The tile of `up` with its wait timeout enabled, and g1 set. -/
def timedUp (limit : Nat) : Dev := tileUp fun t => { t.put 1 1 with pc := 0, waitToEn := true, waitTimeout := limit }

theorem witness_WaitEndsOrHolds :
    (∃ (b x a rb c : Nat) (d : Dev), okSite b x = true ∧ a < 32 ∧ rb < 32 ∧ c < 32 ∧ d.issues b x ⟨7, some a, some rb, .reg (some c)⟩ = true ∧
      0 ≤ (((d.issued b x).tile b x).acOf c - (((d.issued b x).tile b x).reg rb).setWidth 32).toInt) ∧
    (∃ (b x a rb c : Nat) (d : Dev), okSite b x = true ∧ a < 32 ∧ rb < 32 ∧ c < 32 ∧ d.issues b x ⟨7, some a, some rb, .reg (some c)⟩ = true ∧
      ¬ 0 ≤ (((d.issued b x).tile b x).acOf c - (((d.issued b x).tile b x).reg rb).setWidth 32).toInt ∧
      ((d.issued b x).tile b x).waitToEn = true ∧ ((d.issued b x).tile b x).waitTimeout = 0) ∧
    ∃ (b x a rb c : Nat) (d : Dev), okSite b x = true ∧ a < 32 ∧ rb < 32 ∧ c < 32 ∧ d.issues b x ⟨7, some a, some rb, .reg (some c)⟩ = true ∧
      ¬ 0 ≤ (((d.issued b x).tile b x).acOf c - (((d.issued b x).tile b x).reg rb).setWidth 32).toInt ∧
      (((d.issued b x).tile b x).waitToEn = false ∨ ((d.issued b x).tile b x).waitTimeout ≠ 0) :=
  ⟨⟨0, 0, 2, 0, 31, running ⟨7, some 2, some 0, .reg (some 31)⟩, by decide⟩,
    ⟨0, 0, 2, 1, 31, holding ⟨7, some 2, some 1, .reg (some 31)⟩ (timedUp 0), by decide⟩,
    ⟨0, 0, 2, 1, 31, holding ⟨7, some 2, some 1, .reg (some 31)⟩ (timedUp 1), by decide⟩⟩

/-- A command that has ended with a status. -/
def endedWith (st : Nat) : QEntry := { entry 0 with phase := .ended, status := st }

theorem witness_CompletionAddsOne :
    ∃ (b x q : Nat) (e : QEntry) (rest : List QEntry) (d : Dev), okSite b x = true ∧ q < 6 ∧ (d.tile b x).queue q = e :: rest ∧
      d.enginesRun b x = true ∧ e.phase = .ended ∧ d.copyUnderWay e = false :=
  ⟨0, 0, 5, endedWith stPoison, [entry 1], tileUp fun t => { t with queues := [(5, [endedWith stPoison, entry 1])] }, by decide⟩

theorem witness_MemoryOperationsKeepForm : ∃ d : Dev, Memory.wf d.mem ∧ d.mem ≠ [] := ⟨up.write 5 [1, 0, 2], by decide⟩

theorem witness_WindowMapIsOneToOne :
    (∃ (d : Dev) (o : Nat), o < d.windowBytes) ∧
    (∃ (d : Dev) (o p : Nat), o < d.windowBytes ∧ p < d.windowBytes ∧ d.windowMap o = d.windowMap p) ∧
    ∃ (d : Dev) (n a : Nat), n ∈ d.windowStacks ∧ a < stackBytes :=
  ⟨⟨window 0xFFFFF, 20 * 85899345920 - 1, by decide⟩, ⟨window 0xFFFFF, 0, 0, by decide⟩, ⟨window 0xFF7FF, 19, 85899345919, by decide⟩⟩

/-- A complete entry of the ledger. -/
def answered : LedgerEntry := { req := packet 4, pending := false, beat := 0 }

theorem witness_RepeatedAtomicIsNotAppliedAgain :
    ∃ (p : Nat) (pkt : Packet) (e : LedgerEntry) (d : Dev), p < 28 ∧ ledgered pkt = true ∧ d.inReset p = false ∧
      d.isFront (.ledger p) pkt = true ∧ d.expired pkt = false ∧
      (d.port p).ledger.find? (fun e => sameKey e.req pkt) = some e ∧ e.pending = false :=
  ⟨27, packet 4, answered, { up with ports := [(27, { ledger := [answered] })], beat := 5 }, by decide⟩

/-! ## Statements of completion: a state and operands for each command -/

theorem witness_BusAccessesComplete :
    (∃ (addr : Nat) (r : Reg) (d : Dev), okAddr addr = true ∧ d.reaches addr = true ∧ isRegister addr = true ∧ d.aperture addr = none ∧
      Reg.ofAddr addr = some r) ∧
    (∃ (addr : Nat) (r : Reg) (d : Dev), okAddr addr = true ∧ d.reaches addr = true ∧ isRegister addr = true ∧ d.aperture addr = none ∧
      Reg.ofAddr addr = some r) ∧
    (∃ (addr : Nat) (r : Reg) (d : Dev), okAddr addr = true ∧ d.reaches addr = true ∧ isRegister addr = true ∧ d.aperture addr = none ∧
      Reg.ofAddr addr = some r) ∧
    (∃ (b : Nat) (x : Nat) (i : Nat) (d : Dev), okSite b x = true ∧ i < 64 ∧ d.reaches (r3 .SLOT_ENTRY0 b x i).addr = true) :=
  ⟨⟨(r0 .YARD_TIMING).addr, r0 .YARD_TIMING, up, by decide⟩,
    ⟨(r0 .YARD_TIMING).addr, r0 .YARD_TIMING, up, by decide⟩,
    ⟨(r0 .YARD_TIMING).addr, r0 .YARD_TIMING, up, by decide⟩,
    ⟨0, 0, 0, up, by decide⟩⟩

theorem witness_BeatCommandsComplete :
    (∃ (d : Dev), d.start.out = true ∧ d.counting = false) ∧
    (∃ (d : Dev), d.syncOn = true) ∧
    (∃ (d : Dev), d.syncOn = true ∧ d.aligned = true) ∧
    (∃ (d : Dev), d.reaches (r0 .BEAT_CTRL).addr = true) ∧
    (∃ (d : Dev), d.reaches (r0 .BEAT_CTRL).addr = true) ∧
    (∃ (d : Dev), d.flag (r0 .BEAT_STATUS) Fld.BEAT_STATUS_HOLD_ACTIVE = true ∧ d.holdLeft = 0) ∧
    (∃ (d : Dev), d.counting = true) ∧
    (∃ (d : Dev), d.inHoldover = true ∧ d.flag (r0 .BEAT_CTRL) Fld.BEAT_CTRL_HOLDOVER_FORCE = false) :=
  ⟨⟨{ up with counting := false }, by decide⟩,
    ⟨(up.setF (r0 .BEAT_CTRL) Fld.BEAT_CTRL_SYNC_EN 1), by decide⟩,
    ⟨{ (up.setF (r0 .BEAT_CTRL) Fld.BEAT_CTRL_SYNC_EN 1) with aligned := true }, by decide⟩,
    ⟨up, by decide⟩,
    ⟨up, by decide⟩,
    ⟨up.setF (r0 .BEAT_STATUS) Fld.BEAT_STATUS_HOLD_ACTIVE 1, by decide⟩,
    ⟨up, by decide⟩,
    ⟨up.setF (r0 .BEAT_STATUS) Fld.BEAT_STATUS_HOLDOVER 1, by decide⟩⟩

theorem witness_PointChangesComplete :
    (∃ (h : Nat) (d : Dev), h < 16 ∧ d.reaches (r1 .HALF_OPP h).addr = true) ∧
    (∃ (h : Nat) (c : Change) (d : Dev), h < 16 ∧ (d.half h).change = some c ∧ (c.raise && !c.vcoreStarted && decide (c.c ≤ d.beat +
      3000)) = true) ∧
    (∃ (h : Nat) (c : Change) (d : Dev), h < 16 ∧ (d.half h).change = some c ∧ (!c.lockStarted && (!c.raise || c.vcoreStarted) && decide
      (c.c ≤ d.beat + 2000)) = true) ∧
    (∃ (h : Nat) (c : Change) (d : Dev), h < 16 ∧ (d.half h).change = some c ∧ (c.lockStarted && c.ready.isNone && decide (c.c ≤ d.beat +
      1)) = true) ∧
    (∃ (h : Nat) (c : Change) (d : Dev), h < 16 ∧ (d.half h).change = some c ∧ (!c.switched && decide (c.c ≤ d.beat) && (d.sameBeat
      c.c).all d.checked) = true) ∧
    (∃ (h : Nat) (c : Change) (d : Dev), h < 16 ∧ (d.half h).change = some c ∧ (!c.raise && c.switched && c.ready == some true &&
      !c.lowering && decide (c.c + 1 ≤ d.beat)) = true) ∧
    (∃ (h : Nat) (c : Change) (d : Dev), h < 16 ∧ (d.half h).change = some c ∧ d.changeOver c = true) ∧
    (∃ (h : Nat) (d : Dev), h < 16 ∧
      let p := d.driving h
      d.locked h p = true) ∧
    (∃ (h : Nat) (pll : Bool) (d : Dev), h < 16 ∧
      let target := d.changing h
      (d.half h).pllStop = true ∧ (if pll then (d.half h).failedB else (d.half h).failedA) = false ∧ (!target || pll != d.driving h) =
      true) ∧
    (∃ (h : Nat) (pll : Bool) (d : Dev), h < 16 ∧
      let v := d.half h
      d.hasMaster = true ∧ d.locked h pll = false ∧ v.failed pll = false ∧ d.changing h = false) :=
  ⟨⟨0, up, by decide⟩,
    ⟨0, { next := 0, old := 1, c := 1048579000, raise := true }, moving { next := 0, old := 1, c := 1048579000, raise := true }, by decide⟩,
    ⟨0, { next := 1, old := 0, c := 1048578000, raise := false }, moving { next := 1, old := 0, c := 1048578000, raise := false }, by decide⟩,
    ⟨0, { next := 1, old := 0, c := 1048576001, raise := false, lockStarted := true },
      moving { next := 1, old := 0, c := 1048576001, raise := false, lockStarted := true }, by decide⟩,
    ⟨0, { next := 1, old := 0, c := 1048576000, raise := false, ready := some true },
      moving { next := 1, old := 0, c := 1048576000, raise := false, ready := some true }, by decide⟩,
    ⟨0, { next := 1, old := 0, c := 1048575999, raise := false, ready := some true, switched := true },
      moving { next := 1, old := 0, c := 1048575999, raise := false, ready := some true, switched := true }, by decide⟩,
    ⟨0,
      { next := 0, old := 1, c := 1048574000, raise := true, vcoreStarted := true, lockStarted := true, ready := some true, switched := true },
      moving { next := 0, old := 1, c := 1048574000, raise := true, vcoreStarted := true, lockStarted := true, ready := some true, switched := true },
      by decide⟩,
    ⟨0, up.setLock 0 false true, by decide⟩,
    ⟨0, false, up.setHalf 0 { pllStop := true }, by decide⟩,
    ⟨0, false, up, by decide⟩⟩

theorem witness_RegionClockCommandsComplete :
    (∃ (r : Nat) (depth : Nat) (d : Dev), r < 64 ∧ d.running r = true ∧ depth ≠ 0) ∧
    (∃ (r : Nat) (d : Dev), r < 64 ∧ d.beat % 1000 = 0) ∧
    (∃ (r : Nat) (d : Dev), r < 64 ∧ d.reaches (r1 .REGION_CLK_CTRL r).addr = true) ∧
    (∃ (r : Nat) (d : Dev), r < 64 ∧ d.reaches (r1 .REGION_CLK_CTRL r).addr = true) :=
  ⟨⟨0, 1, up, by decide⟩,
    ⟨0, up, by decide⟩,
    ⟨0, up, by decide⟩,
    ⟨0, up, by decide⟩⟩

theorem witness_CoreComputeAndControlComplete :
    (∃ (b : Nat) (x : Nat) (op : AluOp) (a : Nat) (rb : Nat) (c : Nat) (d : Dev), okSite b x = true ∧ a < 32 ∧ rb < 32 ∧ c < 32 ∧ d.issues
      b x ⟨0, some a, some rb, .reg (some c)⟩ = true ∧ (!aluAssigned op || (aluUnary op && c != 0)) = false) ∧
    (∃ (b : Nat) (x : Nat) (op : AluOp) (a : Nat) (rb : Nat) (imm : BitVec 14) (d : Dev), okSite b x = true ∧ a < 32 ∧ rb < 32 ∧ d.issues
      b x ⟨1, some a, some rb, .imm14 imm⟩ = true ∧ (!aluAssigned op || (aluUnary op && imm != 0)) = false) ∧
    (∃ (b : Nat) (x : Nat) (a : Nat) (imm : BitVec 19) (d : Dev), okSite b x = true ∧ a < 32 ∧ d.issues b x ⟨1, some a, none, .imm19 imm⟩
      = true) ∧
    (∃ (b : Nat) (x : Nat) (cond : Cond) (a : Nat) (rb : Nat) (imm : BitVec 14) (d : Dev), okSite b x = true ∧ a < 32 ∧ rb < 32 ∧ d.issues
      b x ⟨4, some a, some rb, .imm14 imm⟩ = true ∧ (cond == .unassigned) = false) ∧
    (∃ (b : Nat) (x : Nat) (a : Nat) (imm : BitVec 19) (d : Dev), okSite b x = true ∧ a < 32 ∧ d.issues b x ⟨5, some a, none, .imm19 imm⟩
      = true) ∧
    (∃ (b : Nat) (x : Nat) (a : Nat) (rb : Nat) (imm : BitVec 14) (d : Dev), okSite b x = true ∧ a < 32 ∧ rb < 32 ∧ d.issues b x ⟨5, some
      a, some rb, .imm14 imm⟩ = true ∧
      let t := (d.issued b x).tile b x
      let target := t.reg rb + imm.signExtend 64
      target.toNat % 4 = 0) ∧
    (∃ (b : Nat) (x : Nat) (a : Nat) (num : BitVec 14) (d : Dev) (v : W64) (t : Tile), okSite b x = true ∧ a < 32 ∧ d.issues b x ⟨8, some
      a, none, .imm14 num⟩ = true ∧ (d.issued b x).csrRead b x num.toNat = some (v, t)) ∧
    (∃ (b : Nat) (x : Nat) (rb : Nat) (num : BitVec 14) (d : Dev) (t : Tile), okSite b x = true ∧ rb < 32 ∧ d.issues b x ⟨8, none, some
      rb, .imm14 num⟩ = true ∧ ((d.issued b x).tile b x).csrWrite num.toNat (((d.issued b x).tile b x).reg rb) = some t) ∧
    (∃ (b : Nat) (x : Nat) (d : Dev), okSite b x = true ∧ d.issues b x ⟨8, none, none, .reg none⟩ = true) ∧
    (∃ (b : Nat) (x : Nat) (d : Dev), okSite b x = true ∧ (d.tile b x).yieldWait = true ∧ d.canWake b x = true ∧ (d.tile b x).quiescent =
      true) ∧
    (∃ (b : Nat) (x : Nat) (d : Dev), okSite b x = true ∧ d.issues b x ⟨8, none, none, .reg none⟩ = true) ∧
    (∃ (b : Nat) (x : Nat) (d : Dev), okSite b x = true ∧ d.issues b x ⟨8, none, none, .reg none⟩ = true) ∧
    (∃ (b : Nat) (x : Nat) (d : Dev), okSite b x = true ∧ d.issues b x ⟨8, none, none, .reg none⟩ = true) ∧
    (∃ (b : Nat) (x : Nat) (d : Dev), okSite b x = true ∧ d.issues b x ⟨8, none, none, .reg none⟩ = true) ∧
    (∃ (b : Nat) (x : Nat) (d : Dev), okSite b x = true ∧ d.issues b x ⟨8, none, none, .reg none⟩ = true) :=
  ⟨⟨0, 0, .add, 0, 0, 0, (running ⟨0, some 0, some 0, .reg (some 0)⟩), by decide⟩,
    ⟨0, 0, .add, 0, 0, 0, (running ⟨1, some 0, some 0, .imm14 0⟩), by decide⟩,
    ⟨0, 0, 0, 0, (running ⟨1, some 0, none, .imm19 0⟩), by decide⟩,
    ⟨0, 0, .eq, 0, 0, 0, (running ⟨4, some 0, some 0, .imm14 0⟩), by decide⟩,
    ⟨0, 0, 0, 0, (running ⟨5, some 0, none, .imm19 0⟩), by decide⟩,
    ⟨0, 0, 0, 0, 0, (running ⟨5, some 0, some 0, .imm14 0⟩), by decide⟩,
    ⟨0, 0, 0, 0x20, (running ⟨8, some 0, none, .imm14 0x20⟩), 0, ((running ⟨8, some 0, none, .imm14 0x20⟩).issued 0 0).tile 0 0, by decide⟩,
    ⟨0, 0, 0, 0x20, (running ⟨8, none, some 0, .imm14 0x20⟩), { ((running ⟨8, none, some 0,
      .imm14 0x20⟩).issued 0 0).tile 0 0 with evec := 0 }, by decide⟩,
    ⟨0, 0, (running ⟨8, none, none, .reg none⟩), by decide⟩,
    ⟨0, 0, tileUp fun t => { t with yieldWait := true }, by decide⟩,
    ⟨0, 0, (running ⟨8, none, none, .reg none⟩), by decide⟩,
    ⟨0, 0, (running ⟨8, none, none, .reg none⟩), by decide⟩,
    ⟨0, 0, (running ⟨8, none, none, .reg none⟩), by decide⟩,
    ⟨0, 0, (running ⟨8, none, none, .reg none⟩), by decide⟩,
    ⟨0, 0, (running ⟨8, none, none, .reg none⟩), by decide⟩⟩

theorem witness_CoreMemoryAndQueuesComplete :
    (∃ (b : Nat) (x : Nat) (size : MemSize) (a : Nat) (rb : Nat) (imm : BitVec 14) (d : Dev), okSite b x = true ∧ a < 32 ∧ rb < 32 ∧
      d.issues b x ⟨2, some a, some rb, .imm14 imm⟩ = true ∧ (size == .unassigned) = false ∧
      let t := (d.issued b x).tile b x
      let ea := t.reg rb + imm.signExtend 64
      accessException ea (sizeBytes size) = none ∧ (d.issued b x).poisoned (localBase b x + ea.toNat) (sizeBytes size) = false) ∧
    (∃ (b : Nat) (x : Nat) (size : MemSize) (a : Nat) (rb : Nat) (imm : BitVec 14) (d : Dev), okSite b x = true ∧ a < 32 ∧ rb < 32 ∧
      d.issues b x ⟨3, some a, some rb, .imm14 imm⟩ = true ∧ (size == .unassigned) = false ∧
      let t := (d.issued b x).tile b x
      let ea := t.reg rb + imm.signExtend 64
      accessException ea (sizeBytes size) = none) ∧
    (∃ (b : Nat) (x : Nat) (rb : Nat) (c : Nat) (d : Dev), okSite b x = true ∧ rb < 32 ∧ c < 32 ∧ d.issues b x ⟨6, none, some rb, .reg
      (some c)⟩ = true ∧ pushIllegal rb c = false ∧
      let t := (d.issued b x).tile b x
      (t.queue c).length < queueDepth c) ∧
    (∃ (b : Nat) (x : Nat) (d : Dev) (w : _), okSite b x = true ∧ (d.tile b x).wait = some w ∧ d.canWake b x = true ∧ w.kind = 4 ∧
      d.waitMet b x w = true) ∧
    (∃ (b : Nat) (x : Nat) (a : Nat) (rb : Nat) (c : Nat) (d : Dev), okSite b x = true ∧ a < 32 ∧ rb < 32 ∧ c < 32 ∧ d.issues b x ⟨6, some
      a, some rb, .reg (some c)⟩ = true ∧ pushIllegal rb c = false) ∧
    (∃ (b : Nat) (x : Nat) (a : Nat) (rb : Nat) (c : Nat) (d : Dev), okSite b x = true ∧ a < 32 ∧ rb < 32 ∧ c < 32 ∧ d.issues b x ⟨7, some
      a, some rb, .reg (some c)⟩ = true) ∧
    (∃ (b : Nat) (x : Nat) (a : Nat) (rb : Nat) (c : Nat) (d : Dev), okSite b x = true ∧ a < 32 ∧ rb < 32 ∧ c < 32 ∧ d.issues b x ⟨7, some
      a, some rb, .reg (some c)⟩ = true ∧ c < 16) ∧
    (∃ (b : Nat) (x : Nat) (a : Nat) (rb : Nat) (d : Dev), okSite b x = true ∧ a < 32 ∧ rb < 32 ∧ d.issues b x ⟨7, some a, some rb, .reg
      none⟩ = true) ∧
    (∃ (b : Nat) (x : Nat) (d : Dev) (w : _), okSite b x = true ∧ (d.tile b x).wait = some w ∧ d.canWake b x = true ∧ w.kind ≠ 4 ∧
      d.waitMet b x w = true) ∧
    (∃ (b : Nat) (x : Nat) (d : Dev) (w : _), okSite b x = true ∧
      let t := d.tile b x
      t.wait = some w ∧ d.canWake b x = true ∧ w.kind ≠ 4 ∧ t.waitToEn = true ∧ d.waitMet b x w = false ∧ w.start + t.waitTimeout ≤
      d.siteBeat b x) ∧
    (∃ (b : Nat) (x : Nat) (a : Nat) (c : Nat) (d : Dev), okSite b x = true ∧ a < 32 ∧ c < 32 ∧ d.issues b x ⟨7, some a, none, .reg (some
      c)⟩ = true) ∧
    (∃ (b : Nat) (x : Nat) (rb : Nat) (c : Nat) (d : Dev), okSite b x = true ∧ rb < 32 ∧ c < 32 ∧ d.issues b x ⟨7, none, some rb, .reg
      (some c)⟩ = true) ∧
    (∃ (b : Nat) (x : Nat) (rb : Nat) (c : Nat) (d : Dev), okSite b x = true ∧ rb < 32 ∧ c < 32 ∧ d.issues b x ⟨7, none, some rb, .reg
      (some c)⟩ = true) ∧
    (∃ (b : Nat) (x : Nat) (a : Nat) (c : Nat) (d : Dev), okSite b x = true ∧ a < 32 ∧ c < 32 ∧ d.issues b x ⟨7, some a, none, .reg (some
      c)⟩ = true ∧ c < 16) ∧
    (∃ (b : Nat) (x : Nat) (rb : Nat) (c : Nat) (d : Dev), okSite b x = true ∧ rb < 32 ∧ c < 32 ∧ d.issues b x ⟨7, none, some rb, .reg
      (some c)⟩ = true ∧ c < 16) :=
  ⟨⟨0, 0, .b8, 0, 0, 0, (running ⟨2, some 0, some 0, .imm14 0⟩), by decide⟩,
    ⟨0, 0, .b8, 0, 0, 0, (running ⟨3, some 0, some 0, .imm14 0⟩), by decide⟩,
    ⟨0, 0, 0, 0, (running ⟨6, none, some 0, .reg (some 0)⟩), by decide⟩,
    ⟨0, 0, waiting { kind := 4, index := 0, target := 0, start := 0, dest := 0 },
      { kind := 4, index := 0, target := 0, start := 0, dest := 0 }, by decide⟩,
    ⟨0, 0, 0, 0, 0, (running ⟨6, some 0, some 0, .reg (some 0)⟩), by decide⟩,
    ⟨0, 0, 0, 0, 0, (running ⟨7, some 0, some 0, .reg (some 0)⟩), by decide⟩,
    ⟨0, 0, 0, 0, 0, (running ⟨7, some 0, some 0, .reg (some 0)⟩), by decide⟩,
    ⟨0, 0, 0, 0, (running ⟨7, some 0, some 0, .reg none⟩), by decide⟩,
    ⟨0, 0, waiting { kind := 1, index := 0, target := 0, start := 0, dest := 0 },
      { kind := 1, index := 0, target := 0, start := 0, dest := 0 }, by decide⟩,
    ⟨0, 0, tileUp fun t => { t with wait := some { kind := 1, index := 0, target := 1, start := 0, dest := 0 }, waitToEn := true },
      { kind := 1, index := 0, target := 1, start := 0, dest := 0 }, by decide⟩,
    ⟨0, 0, 0, 0, (running ⟨7, some 0, none, .reg (some 0)⟩), by decide⟩,
    ⟨0, 0, 0, 0, (running ⟨7, none, some 0, .reg (some 0)⟩), by decide⟩,
    ⟨0, 0, 0, 0, (running ⟨7, none, some 0, .reg (some 0)⟩), by decide⟩,
    ⟨0, 0, 0, 0, (running ⟨7, some 0, none, .reg (some 0)⟩), by decide⟩,
    ⟨0, 0, 0, 0, (running ⟨7, none, some 0, .reg (some 0)⟩), by decide⟩⟩

theorem witness_MatrixCommandsComplete :
    (∃ (b : Nat) (x : Nat) (q : Nat) (e : QEntry) (d : Dev), okSite b x = true ∧ q < 6 ∧ d.enginesRun b x = true ∧ startable ((d.tile b
      x).queue q) = some e ∧ opOf e.cmd = 0 ∧ verdict (nonZeroFields e.cmd (restFields q)) = none) ∧
    (∃ (b : Nat) (x : Nat) (q : Nat) (e : QEntry) (rest : List QEntry) (d : Dev), okSite b x = true ∧ q < 6 ∧ (d.tile b x).queue q = e ::
      rest ∧ d.enginesRun b x = true ∧ e.phase = .ended ∧ d.copyUnderWay e = false) ∧
    (∃ (b : Nat) (x : Nat) (e : QEntry) (d : Dev), okSite b x = true ∧ d.enginesRun b x = true ∧ startable ((d.tile b x).queue 0) = some e
      ∧ opOf e.cmd = 1 ∧ verdict (mmaChecks d e.cmd) = none) ∧
    (∃ (b : Nat) (x : Nat) (e : QEntry) (d : Dev), okSite b x = true ∧ d.enginesRun b x = true ∧ startable ((d.tile b x).queue 0) = some e
      ∧ opOf e.cmd = 2 ∧ verdict (mmaChecks d e.cmd) = none) ∧
    (∃ (b : Nat) (x : Nat) (e : QEntry) (d : Dev), okSite b x = true ∧ d.enginesRun b x = true ∧ startable ((d.tile b x).queue 0) = some e
      ∧ opOf e.cmd = 3 ∧ verdict (accZeroChecks d e.cmd) = none) ∧
    (∃ (b : Nat) (x : Nat) (e : QEntry) (d : Dev), okSite b x = true ∧ d.enginesRun b x = true ∧ startable ((d.tile b x).queue 0) = some e
      ∧ opOf e.cmd = 4 ∧ verdict (accLoadChecks d e.cmd) = none) ∧
    (∃ (b : Nat) (x : Nat) (e : QEntry) (d : Dev), okSite b x = true ∧ d.enginesRun b x = true ∧ startable ((d.tile b x).queue 0) = some e
      ∧ opOf e.cmd = 5 ∧ verdict (accStoreChecks d e.cmd) = none) ∧
    (∃ (b : Nat) (x : Nat) (ch : Nat) (idx : Nat) (u : ChanUnit) (rest : List (Nat × ChanUnit)) (d : Dev), okSite b x = true ∧ ch < 4 ∧
      (d.tile b x).streamOf ch = (idx, u) :: rest ∧ d.enginesRun b x = true ∧ unitBytes ((d.tile b x).channel ch) + u.data.length ≤ 4096) :=
  ⟨⟨0, 0, 0, entry 0, queued 0 0, by decide⟩,
    ⟨0, 0, 0, { entry 0 with phase := .ended }, [], tileUp fun t => { t with queues := [(0, [{ entry 0 with phase := .ended }])] }, by decide⟩,
    ⟨0, 0, entry 0x1110001, queued 0 0x1110001, by decide⟩,
    ⟨0, 0, entry 0x1110002, queued 0 0x1110002, by decide⟩,
    ⟨0, 0, entry 3, queued 0 3, by decide⟩,
    ⟨0, 0, entry 4, queued 0 4, by decide⟩,
    ⟨0, 0, entry 5, queued 0 5, by decide⟩,
    ⟨0, 0, 0, 0, { data := [0], mark := false }, [], tileUp fun t => { t with streaming := [(0, [(0, { data := [0], mark := false })])] },
      by decide⟩⟩

theorem witness_VectorCommandsComplete :
    (∃ (b : Nat) (x : Nat) (e : QEntry) (d : Dev), okSite b x = true ∧ d.enginesRun b x = true ∧ startable ((d.tile b x).queue 1) = some e
      ∧ opOf e.cmd = 1 ∧ verdict (vecChecks twoSources d e.cmd) = none) ∧
    (∃ (b : Nat) (x : Nat) (e : QEntry) (d : Dev), okSite b x = true ∧ d.enginesRun b x = true ∧ startable ((d.tile b x).queue 1) = some e
      ∧ opOf e.cmd = 2 ∧ verdict (vecChecks twoSources d e.cmd) = none) ∧
    (∃ (b : Nat) (x : Nat) (e : QEntry) (d : Dev), okSite b x = true ∧ d.enginesRun b x = true ∧ startable ((d.tile b x).queue 1) = some e
      ∧ opOf e.cmd = 3 ∧ verdict (vecChecks twoSources d e.cmd) = none) ∧
    (∃ (b : Nat) (x : Nat) (e : QEntry) (d : Dev), okSite b x = true ∧ d.enginesRun b x = true ∧ startable ((d.tile b x).queue 1) = some e
      ∧ opOf e.cmd = 4 ∧ verdict (vecChecks twoSources d e.cmd) = none) ∧
    (∃ (b : Nat) (x : Nat) (e : QEntry) (d : Dev), okSite b x = true ∧ d.enginesRun b x = true ∧ startable ((d.tile b x).queue 1) = some e
      ∧ opOf e.cmd = 5 ∧ verdict (vecChecks twoSources d e.cmd) = none) ∧
    (∃ (b : Nat) (x : Nat) (e : QEntry) (d : Dev), okSite b x = true ∧ d.enginesRun b x = true ∧ startable ((d.tile b x).queue 1) = some e
      ∧ opOf e.cmd = 6 ∧ verdict (vecChecks { twoSources with bElems := fun n => some (min n 1) } d e.cmd) = none) ∧
    (∃ (b : Nat) (x : Nat) (e : QEntry) (d : Dev), okSite b x = true ∧ d.enginesRun b x = true ∧ startable ((d.tile b x).queue 1) = some e
      ∧ opOf e.cmd = 7 ∧ verdict (vecChecks oneSource d e.cmd) = none) ∧
    (∃ (b : Nat) (x : Nat) (e : QEntry) (d : Dev), okSite b x = true ∧ d.enginesRun b x = true ∧ startable ((d.tile b x).queue 1) = some e
      ∧ opOf e.cmd = 8 ∧ verdict (vecChecks oneSource d e.cmd) = none) ∧
    (∃ (b : Nat) (x : Nat) (e : QEntry) (d : Dev), okSite b x = true ∧ d.enginesRun b x = true ∧ startable ((d.tile b x).queue 1) = some e
      ∧ opOf e.cmd = 9 ∧ verdict (vecChecks oneSource d e.cmd) = none) ∧
    (∃ (b : Nat) (x : Nat) (e : QEntry) (d : Dev), okSite b x = true ∧ d.enginesRun b x = true ∧ startable ((d.tile b x).queue 1) = some e
      ∧ opOf e.cmd = 10 ∧ verdict (vecChecks { ins := codes 0 14, outs := codes 0 14 } d e.cmd) = none) ∧
    (∃ (b : Nat) (x : Nat) (e : QEntry) (d : Dev), okSite b x = true ∧ d.enginesRun b x = true ∧ startable ((d.tile b x).queue 1) = some e
      ∧ opOf e.cmd = 11 ∧ verdict (vecChecks { ins := vecIns, outs := [0], dstBytes := fun _ n => 4 * min n 1 } d e.cmd) = none) ∧
    (∃ (b : Nat) (x : Nat) (e : QEntry) (d : Dev), okSite b x = true ∧ d.enginesRun b x = true ∧ startable ((d.tile b x).queue 1) = some e
      ∧ opOf e.cmd = 12 ∧ verdict (vecChecks { ins := vecIns, outs := [0], dstBytes := fun _ n => 8 * min n 1 } d e.cmd) = none) ∧
    (∃ (b : Nat) (x : Nat) (e : QEntry) (d : Dev), okSite b x = true ∧ d.enginesRun b x = true ∧ startable ((d.tile b x).queue 1) = some e
      ∧ opOf e.cmd = 13 ∧ verdict (vecChecks { readsA := false, ins := [0], outs := codes 0 2 } d e.cmd) = none) :=
  ⟨⟨0, 0, entry 0x30000100000400000100001, queued 1 0x30000100000400000100001, by decide⟩,
    ⟨0, 0, entry 0x30000100000400000100002, queued 1 0x30000100000400000100002, by decide⟩,
    ⟨0, 0, entry 0x30000100000400000100003, queued 1 0x30000100000400000100003, by decide⟩,
    ⟨0, 0, entry 0x30000100000400000100004, queued 1 0x30000100000400000100004, by decide⟩,
    ⟨0, 0, entry 0x30000100000400000100005, queued 1 0x30000100000400000100005, by decide⟩,
    ⟨0, 0, entry 0x30000100000400000100006, queued 1 0x30000100000400000100006, by decide⟩,
    ⟨0, 0, entry 0x30000000000400000100007, queued 1 0x30000000000400000100007, by decide⟩,
    ⟨0, 0, entry 0x30000000000400000100008, queued 1 0x30000000000400000100008, by decide⟩,
    ⟨0, 0, entry 0x30000000000400000100009, queued 1 0x30000000000400000100009, by decide⟩,
    ⟨0, 0, entry 0x3000000000040000010000a, queued 1 0x3000000000040000010000a, by decide⟩,
    ⟨0, 0, entry 0x3000000000040000010000b, queued 1 0x3000000000040000010000b, by decide⟩,
    ⟨0, 0, entry 0x3000000000040000010000c, queued 1 0x3000000000040000010000c, by decide⟩,
    ⟨0, 0, entry 0x3000000000000000010000d, queued 1 0x3000000000000000010000d, by decide⟩⟩

theorem witness_TransfersAndMessagesComplete :
    (∃ (b : Nat) (x : Nat) (found : List (Nat × Ecc)) (e : QEntry) (dev : Dev),
      let d := dev.find b x found
      okSite b x = true ∧ d.enginesRun b x = true ∧ startable ((d.tile b x).queue 2) = some e ∧ opOf e.cmd = 1 ∧ verdict (copyChecks b x d
      e.cmd) = none) ∧
    (∃ (b : Nat) (x : Nat) (found : List (Nat × Ecc)) (e : QEntry) (dev : Dev),
      let d := dev.find b x found
      okSite b x = true ∧ d.enginesRun b x = true ∧ startable ((d.tile b x).queue 2) = some e ∧ opOf e.cmd = 2 ∧ verdict (copydChecks b x
      d e.cmd) = none) ∧
    (∃ (b : Nat) (x : Nat) (d : Dev), okSite b x = true ∧ d.enginesRun b x = true) ∧
    (∃ (b : Nat) (x : Nat) (e : QEntry) (d : Dev), okSite b x = true ∧ d.enginesRun b x = true ∧ startable ((d.tile b x).queue 3) = some e
      ∧ opOf e.cmd = 1 ∧ verdict (msgChecks b x d e.cmd) = none) ∧
    (∃ (b : Nat) (x : Nat) (e : QEntry) (d : Dev), okSite b x = true ∧ d.enginesRun b x = true ∧ startable ((d.tile b x).queue 3) = some e
      ∧ opOf e.cmd = 2 ∧ verdict (msgChecks b x d e.cmd) = none) ∧
    (∃ (b : Nat) (x : Nat) (e : QEntry) (d : Dev), okSite b x = true ∧ d.enginesRun b x = true ∧ startable ((d.tile b x).queue 3) = some e
      ∧ opOf e.cmd = 3 ∧ verdict (msgChecks b x d e.cmd) = none) ∧
    (∃ (b : Nat) (x : Nat) (e : QEntry) (d : Dev), okSite b x = true ∧ d.enginesRun b x = true ∧ startable ((d.tile b x).queue 3) = some e
      ∧ opOf e.cmd = 4 ∧ verdict (msgChecks b x d e.cmd) = none) ∧
    (∃ (b : Nat) (x : Nat) (e : QEntry) (d : Dev), okSite b x = true ∧ d.enginesRun b x = true ∧ startable ((d.tile b x).queue 3) = some e
      ∧ opOf e.cmd = 5 ∧ verdict (msgChecks b x d e.cmd) = none) ∧
    (∃ (b : Nat) (x : Nat) (e : QEntry) (d : Dev), okSite b x = true ∧ d.enginesRun b x = true ∧ startable ((d.tile b x).queue 3) = some e
      ∧ opOf e.cmd = 6 ∧ verdict (msgChecks b x d e.cmd) = none) ∧
    (∃ (b : Nat) (x : Nat) (e : QEntry) (d : Dev), okSite b x = true ∧ d.enginesRun b x = true ∧ startable ((d.tile b x).queue 3) = some e
      ∧ opOf e.cmd = 7 ∧ verdict (msgChecks b x d e.cmd) = none) ∧
    (∃ (b : Nat) (x : Nat) (e : QEntry) (d : Dev), okSite b x = true ∧ d.enginesRun b x = true ∧ startable ((d.tile b x).queue 3) = some e
      ∧ opOf e.cmd = 8 ∧ verdict (msgChecks b x d e.cmd) = none) ∧
    (∃ (b : Nat) (x : Nat) (found : List (Nat × Ecc)) (e : QEntry) (dev : Dev),
      let d := dev.find b x found
      okSite b x = true ∧ d.enginesRun b x = true ∧ startable ((d.tile b x).queue 4) = some e ∧ opOf e.cmd = 1 ∧ verdict (loftChecks b x d
      e.cmd) = none) ∧
    (∃ (b : Nat) (x : Nat) (found : List (Nat × Ecc)) (e : QEntry) (dev : Dev),
      let d := dev.find b x found
      okSite b x = true ∧ d.enginesRun b x = true ∧ startable ((d.tile b x).queue 4) = some e ∧ opOf e.cmd = 2 ∧ verdict (loftChecks b x d
      e.cmd) = none) ∧
    (∃ (b : Nat) (x : Nat) (found : List (Nat × Ecc)) (e : QEntry) (dev : Dev),
      let d := dev.find b x found
      okSite b x = true ∧ d.enginesRun b x = true ∧ startable ((d.tile b x).queue 4) = some e ∧ opOf e.cmd = 3 ∧ verdict (loftChecks b x d
      e.cmd) = none) ∧
    (∃ (b : Nat) (x : Nat) (found : List (Nat × Ecc)) (e : QEntry) (dev : Dev),
      let d := dev.find b x found
      okSite b x = true ∧ d.enginesRun b x = true ∧ startable ((d.tile b x).queue 5) = some e ∧ opOf e.cmd = 1 ∧ verdict (scoreChecks b x
      d e.cmd) = none) :=
  ⟨⟨0, 0, [], entry 0x800001000001, queued 2 0x800001000001, by decide⟩,
    ⟨0, 0, [], entry 2, queued 2 2, by decide⟩,
    ⟨0, 0, up, by decide⟩,
    ⟨0, 0, entry 0x80000000001, queued 3 0x80000000001, by decide⟩,
    ⟨0, 0, entry 0x80000000002, queued 3 0x80000000002, by decide⟩,
    ⟨0, 0, entry 0x8000000003, queued 3 0x8000000003, by decide⟩,
    ⟨0, 0, entry 0x10000000004, queued 3 0x10000000004, by decide⟩,
    ⟨0, 0, entry 0x10000000005, queued 3 0x10000000005, by decide⟩,
    ⟨0, 0, entry 0x6, (queued 3 6).setF (r1 .MCAST_GROUP 0) Fld.MCAST_GROUP_VALID 1, by decide⟩,
    ⟨0, 0, entry 0x8000000007, queued 3 0x8000000007, by decide⟩,
    ⟨0, 0, entry 0x8, queued 3 0x8, by decide⟩,
    ⟨0, 0, [], entry 1, queued 4 1, by decide⟩,
    ⟨0, 0, [], entry 2, queued 4 2, by decide⟩,
    ⟨0, 0, [], entry 3, queued 4 3, by decide⟩,
    ⟨0, 0, [], entry 1, queued 5 1, by decide⟩⟩

theorem witness_TileArrivalsAndControlComplete :
    (∃ (b : Nat) (x : Nat) (pkt : Packet) (d : Dev), okSite b x = true ∧ d.siteRuns b x = true ∧ isReply pkt = false) ∧
    (∃ (b : Nat) (x : Nat) (pkt : Packet) (d : Dev), okSite b x = true ∧ d.siteRuns b x = true ∧ isReply pkt = true) ∧
    (∃ (b : Nat) (x : Nat) (i : Nat) (d : Dev) (sl : _), okSite b x = true ∧ i < 64 ∧ (d.tile b x).slot i = some sl ∧ d.siteRuns b x =
      true ∧ sl.sent + d.getF (r0 .YARD_TIMING) Fld.YARD_TIMING_REMOTE_TO ≤ d.beat) ∧
    (∃ (b : Nat) (x : Nat) (d : Dev), okSite b x = true ∧ d.reaches (r2 .EVENT_POST b x).addr = true) ∧
    (∃ (b : Nat) (x : Nat) (d : Dev), okSite b x = true ∧ d.reaches (r2 .TILE_CTRL b x).addr = true) ∧
    (∃ (b : Nat) (x : Nat) (d : Dev), okSite b x = true ∧
      let t := d.tile b x
      t.inReset = true ∧ t.resetPend = false ∧ d.flag (r2 .TILE_CTRL b x) Fld.TILE_CTRL_RESET = false ∧ t.resetBeat < d.beat) ∧
    (∃ (b : Nat) (x : Nat) (d : Dev), okSite b x = true ∧ d.reaches (r2 .TILE_CTRL b x).addr = true) ∧
    (∃ (b : Nat) (x : Nat) (d : Dev), okSite b x = true ∧ d.reaches (r2 .TILE_CTRL b x).addr = true) ∧
    (∃ (b : Nat) (x : Nat) (d : Dev), okSite b x = true ∧ d.reaches (r2 .TILE_CTRL b x).addr = true) ∧
    (∃ (b : Nat) (x : Nat) (cc : Bool) (i : Nat) (d : Dev), okSite b x = true ∧ i < (if cc then 16 else 32) ∧ d.reaches (if cc then r3 .CC
      b x i else r3 .AC b x i).addr = true) ∧
    (∃ (b : Nat) (x : Nat) (n : Nat) (hi : Bool) (d : Dev), okSite b x = true ∧ n < 32 ∧ d.reaches (if hi then r3 .GREG_HI b x n else r3
      .GREG_LO b x n).addr = true) :=
  ⟨⟨0, 0, packet 2, up, by decide⟩,
    ⟨0, 0, packet 6, up, by decide⟩,
    ⟨0, 0, 0, tileUp fun t => { t with slots := [(0, some oneSlot)] }, oneSlot, by decide⟩,
    ⟨0, 0, up, by decide⟩,
    ⟨0, 0, up, by decide⟩,
    ⟨0, 0, (tileUp fun t => { t with inReset := true }).setF (r2 .TILE_CTRL 0 0) Fld.TILE_CTRL_RESET 0, by decide⟩,
    ⟨0, 0, up, by decide⟩,
    ⟨0, 0, up, by decide⟩,
    ⟨0, 0, up, by decide⟩,
    ⟨0, 0, false, 0, up, by decide⟩,
    ⟨0, 0, 0, false, up, by decide⟩⟩

theorem witness_RouterAndScheduleComplete :
    (∃ (b : Nat) (x : Nat) (port : Nat) (d : Dev), okSite b x = true ∧ hasPort x port = true ∧ d.siteRuns b x = true ∧ d.hole b x = false) ∧
    (∃ (b : Nat) (x : Nat) (d : Dev), okSite b x = true ∧
      let st := r2 .RTR_STATUS b x
      let t := d.siteBeat b x
      d.siteRuns b x = true ∧ d.flag (r2 .RTR_CTRL b x) Fld.RTR_CTRL_SCHED_EN = true ∧ d.flag st Fld.RTR_STATUS_SCHED_ACTIVE = false ∧ t %
      128 = 0 ∧ d.pair (r2 .SCHED_START_LO b x) (r2 .SCHED_START_HI b x) ≤ t) ∧
    (∃ (b : Nat) (x : Nat) (d : Dev),
      let t := d.siteBeat b x
      okSite b x = true ∧ d.siteRuns b x = true ∧ d.hole b x = false ∧ d.flag (r2 .RTR_STATUS b x) Fld.RTR_STATUS_SCHED_ACTIVE = true ∧ t
      % 2 = 0 ∧ (d.router b x).nextSlot ≤ t / 2) ∧
    (∃ (b : Nat) (x : Nat) (d : Dev), okSite b x = true ∧ d.siteRuns b x = true ∧ d.siteBeat b x % 128 = 0) ∧
    (∃ (b : Nat) (x : Nat) (out : Nat) (d : Dev), okSite b x = true ∧ out < 5 ∧ d.siteRuns b x = true) ∧
    (∃ (b : Nat) (x : Nat) (d : Dev), okSite b x = true ∧ d.reaches (r2 .RTR_CTRL b x).addr = true) ∧
    (∃ (b : Nat) (x : Nat) (f : Nat) (d : Dev), okSite b x = true ∧ f < 32 ∧ d.reaches (r3 .FLOW_AC b x f).addr = true) ∧
    (∃ (b : Nat) (x : Nat) (k : Nat) (d : Dev), okSite b x = true ∧ k < 32 ∧ d.reaches (r3 .SINK_CTR b x k).addr = true) :=
  ⟨⟨7, 352, 5, up, by decide⟩,
    ⟨0, 0, { up.setF (r2 .RTR_CTRL 0 0) Fld.RTR_CTRL_SCHED_EN 1 with beat := 128 }, by decide⟩,
    ⟨0, 0, (up.setF (r2 .RTR_STATUS 0 0) Fld.RTR_STATUS_SCHED_ACTIVE 1), by decide⟩,
    ⟨0, 0, up, by decide⟩,
    ⟨0, 0, 0, up, by decide⟩,
    ⟨0, 0, up, by decide⟩,
    ⟨0, 0, 0, up, by decide⟩,
    ⟨0, 0, 0, up, by decide⟩⟩

theorem witness_RoutesAndTapsComplete :
    (∃ (b : Nat) (x : Nat) (v : W32) (d : Dev), okSite b x = true ∧ d.reaches (r2 .RT_PARENT b x).addr = true ∧ Fld.RT_PARENT_PARENT.get v
      < 768) ∧
    (∃ (b : Nat) (t : Nat) (v : W32) (d : Dev), b < 8 ∧ t < 704 ∧ d.reaches (r2 .RT_MAP b t).addr = true ∧ Fld.RT_MAP_SITE.get v < 768) ∧
    (∃ (b : Nat) (v : W32) (d : Dev), b < 8 ∧ d.reaches (r1 .RT_CTRL b).addr = true ∧ Fld.RT_CTRL_LOAD.get v = 1 ∧ bitOf d.barnsIn b =
      false) ∧
    (∃ (b : Nat) (d : Dev), b < 8 ∧ d.flag (r1 .RT_STATUS b) Fld.RT_STATUS_BUSY = true) ∧
    (∃ (b : Nat) (x : Nat) (d : Dev), okSite b x = true ∧
      let going := d.rewriting.get (fun _ => none) b == some x
      let begins := bitOf d.barnsIn b && parentIn (d.parentWord b x)
      d.hasMaster = true ∧ (going || begins) = true) ∧
    (∃ (b : Nat) (x : Nat) (bundle : Nat) (d : Dev), okSite b x = true ∧ isTap x = true ∧ bundle < 5 ∧ bitOf (d.getF (r2 .TAP_STATUS b x)
      Fld.TAP_STATUS_IN_SERVICE) bundle = true) ∧
    (∃ (b : Nat) (x : Nat) (bundle : Nat) (d : Dev), okSite b x = true ∧ isTap x = true ∧ bundle < 5 ∧
      let r := r2 .TAP_STATUS b x
      let l := (d.tapErrs.get (fun _ => []) ((b * 768 + x) * 8 + bundle)).filter fun t => d.beat ≤ t + 100000
      16 ≤ l.length ∧ bitOf (d.getF r Fld.TAP_STATUS_IN_SERVICE) bundle = true) :=
  ⟨⟨0, 0, 0, up, by decide⟩,
    ⟨0, 0, 0, up, by decide⟩,
    ⟨0, 1, { up with barnsIn := 0 }, by decide⟩,
    ⟨0, up.setF (r1 .RT_STATUS 0) Fld.RT_STATUS_BUSY 1, by decide⟩,
    ⟨0, 0, { up with rewriting := [(0, some 0)] }, by decide⟩,
    ⟨0, 352, 0, (up.setF (r2 .TAP_STATUS 0 352) Fld.TAP_STATUS_IN_SERVICE 31), by decide⟩,
    ⟨0, 352, 0, { (up.setF (r2 .TAP_STATUS 0 352) Fld.TAP_STATUS_IN_SERVICE 31) with tapErrs := [(2816, List.replicate 16 1048576000)] },
      by decide⟩⟩

theorem witness_LoftControlComplete :
    (∃ (b : Nat) (x : Nat) (die : Nat) (d : Dev), okSite b x = true ∧ die < 4 ∧ bitOf (d.lostDies b x) die = false) ∧
    (∃ (b : Nat) (x : Nat) (die : Nat) (d : Dev), okSite b x = true ∧ die < 4 ∧
      let l := (d.coilErrs.get (fun _ => []) ((b * 768 + x) * 4 + die)).filter fun t => d.beat ≤ t + 100000
      16 ≤ l.length ∧ bitOf (d.lostDies b x) die = false) ∧
    (∃ (b : Nat) (x : Nat) (off : Nat) (d : Dev), okSite b x = true ∧ off < 2 ^ 24 ∧ d.flag (r2 .LOFT_CTRL b x) Fld.LOFT_CTRL_SCRUB_EN =
      true ∧ lostByte (d.lostDies b x) (loftBase + off) = false) ∧
    (∃ (b : Nat) (x : Nat) (which : Nat) (d : Dev), okSite b x = true ∧ which < 5 ∧ d.reaches (loftReg b x which).addr = true) ∧
    (∃ (b : Nat) (x : Nat) (v : W32) (d : Dev), okSite b x = true ∧ d.reaches (r2 .LOFT_INV b x).addr = true ∧ Fld.LOFT_INV_INV.get v = 1) ∧
    (∃ (b : Nat) (x : Nat), okSite b x = true) :=
  ⟨⟨0, 0, 0, up, by decide⟩,
    ⟨0, 0, 0, { up with coilErrs := [(0, List.replicate 16 1048576000)] }, by decide⟩,
    ⟨0, 0, 0, up.setF (r2 .LOFT_CTRL 0 0) Fld.LOFT_CTRL_SCRUB_EN 1, by decide⟩,
    ⟨0, 0, 0, up, by decide⟩,
    ⟨0, 0, 1, up, by decide⟩,
    ⟨0, 0, by decide⟩⟩

theorem witness_PowerEventsComplete :
    (∃ (d : Dev), d.counting = true ∧ d.beat % 1000 = 0 ∧ 1000 ≤ d.beat ∧ d.pwr.closedAt ≠ some d.beat) ∧
    (∃ (h : Nat) (d : Dev), h < 16 ∧ d.pwr.termLeft.get (fun _ => 0) h = 0) ∧
    (∃ (b : Nat) (d : Dev), b < 8 ∧ d.hasMaster = true ∧ 100 ≤ d.pwr.satRun.get (fun _ => 0) b) ∧
    (∃ (r : Nat) (uv : Nat) (d : Dev), r < 45 ∧ d.outsideBounds r uv = true ∧ d.vcoreMoves r = false) ∧
    (∃ (d : Dev), d.flag (r0 .PWR_CTRL) Fld.PWR_CTRL_COOL_EN = true ∧ d.dueEvery 100000 d.pwr.coolAt = true) ∧
    (∃ (i : Nat) (t : Nat) (d : Dev), i < 24 ∧ t < 4096 ∧ d.dueEvery 100000 (d.pwr.diodeAt.get (fun _ => none) i) = true) ∧
    (∃ (unit : Nat), unit < 24) :=
  ⟨⟨up, by decide⟩,
    ⟨0, up, by decide⟩,
    ⟨0, { up with pwr := { satRun := [(0, 100)] } }, by decide⟩,
    ⟨44, 0, up, by decide⟩,
    ⟨up.setF (r0 .PWR_CTRL) Fld.PWR_CTRL_COOL_EN 1, by decide⟩,
    ⟨23, 4095, up, by decide⟩,
    ⟨0, by decide⟩⟩

theorem witness_StackEventsComplete :
    (∃ (n : Nat) (d : Dev), n < 20 ∧
      let st := r1 .HBM_STATUS n
      d.phase = 3 ∧ d.flag st Fld.HBM_STATUS_TRAINED = false ∧ d.flag st Fld.HBM_STATUS_RETIRED = false) ∧
    (∃ (n : Nat) (d : Dev), n < 20 ∧ d.stackIn n = true ∧ d.beat % 2 ^ 20 = 0) ∧
    (∃ (n : Nat) (d : Dev), n < 20 ∧ d.stackIn n = true ∧ d.beat % 1000 = 0) ∧
    (∃ (n : Nat) (t : Nat) (d : Dev), n < 20 ∧ t < 256 ∧ d.stackIn n = true ∧ d.beat % 2 ^ 20 = 0) ∧
    (∃ (n : Nat) (addr : Nat) (d : Dev), n < 20 ∧ addr < stackBytes ∧ d.stackIn n = true ∧ d.flag (r1 .HBM_CTRL n) Fld.HBM_CTRL_SCRUB_EN =
      true) ∧
    (∃ (n : Nat) (pkt : Packet) (d : Dev), n < 20 ∧ isReply pkt = false ∧ d.inTurn (.hbm n) pkt = true) ∧
    (∃ (n : Nat) (line : Nat) (d : Dev) (f : _), n < 20 ∧ ((d.hbm n).fetches.find? fun f => f.line == line) = some f ∧ d.flag (r1
      .HBM_STATUS n) Fld.HBM_STATUS_RETIRED = false) ∧
    (∃ (n : Nat) (line : Nat) (d : Dev) (b : _), n < 20 ∧ ((d.hbm n).lines.find? fun b => b.line == line) = some b ∧ b.fill + d.getF (r1
      .TRK_TIME n) Fld.TRK_TIME_LINE_TTL ≤ d.beat) ∧
    (∃ (n : Nat) (i : Nat) (d : Dev) (t : _), n < 20 ∧ (d.hbm n).trackers[i]? = some t ∧ t.last + d.getF (r1 .TRK_TIME n)
      Fld.TRK_TIME_IDLE ≤ d.beat) ∧
    (∃ (n : Nat) (i : Nat) (d : Dev) (p : _) (c : _), n < 20 ∧
      let h := d.hbm n
      (h.fetches.flatMap Fetch.waits)[i]? = some p ∧ h.closedAt = some c ∧ d.flag (r1 .HBM_CTRL n) Fld.HBM_CTRL_ACCEPT = false ∧ c + 1000
      ≤ d.beat) :=
  ⟨⟨0, (up.setF (r0 .TACK_STATUS) Fld.TACK_STATUS_START_PHASE 3), by decide⟩,
    ⟨0, (up.setF (r1 .HBM_STATUS 0) Fld.HBM_STATUS_TRAINED 1), by decide⟩,
    ⟨0, (up.setF (r1 .HBM_STATUS 0) Fld.HBM_STATUS_TRAINED 1), by decide⟩,
    ⟨0, 0, (up.setF (r1 .HBM_STATUS 0) Fld.HBM_STATUS_TRAINED 1), by decide⟩,
    ⟨0, 0, up.setF (r1 .HBM_STATUS 0) Fld.HBM_STATUS_TRAINED 1 |>.setF (r1 .HBM_CTRL 0) Fld.HBM_CTRL_SCRUB_EN 1, by decide⟩,
    ⟨0, packet 2, { up with net := [{ place := .hbm 0, pkt := packet 2 }, { place := .hbm 0, pkt := packet 3 }] }, by decide⟩,
    ⟨0, 0, { up with hbms := [(0, { fetches := [{ line := 0 }] })] }, { line := 0 }, by decide⟩,
    ⟨0, 0, { up with hbms := [(0, { lines := [{ line := 0, fill := 0 }] })] }, { line := 0, fill := 0 }, by decide⟩,
    ⟨0, 0, { up with hbms := [(0, { trackers := [{ key := { member := 0, port := 0, site := 0 }, line := 0, last := 0 }] })] },
      { key := { member := 0, port := 0, site := 0 }, line := 0, last := 0 }, by decide⟩,
    ⟨0, 0, ({ up with hbms := [(0, leaving)] }).setF (r1 .HBM_CTRL 0) Fld.HBM_CTRL_ACCEPT 0,
      packet 2, 1048575000, by decide⟩⟩

theorem witness_WindowAndShapeChangesComplete :
    (∃ (n : Nat) (v : W32) (d : Dev), n < 20 ∧ d.reaches (r1 .HBM_CTRL n).addr = true ∧ Fld.HBM_CTRL_RETIRE.get v = 1) ∧
    (∃ (n : Nat) (d : Dev), n < 20 ∧ d.hasMaster = true ∧ d.stackIn n = true ∧ (d.hbm n).retiring.isNone = true ∧ d.winNext.isNone = true) ∧
    (∃ (n : Nat) (d : Dev), n < 20 ∧
      let h := d.hbm n
      d.hasMaster = true ∧ h.retiring.isSome = true ∧ d.flag (r1 .HBM_CTRL n) Fld.HBM_CTRL_ACCEPT = false ∧ h.outstanding = 0) ∧
    (∃ (v : W32) (d : Dev), d.reaches (r0 .WIN_CTRL).addr = true ∧ Fld.WIN_CTRL_COMMIT.get v = 1) ∧
    (∃ (d : Dev) (mask : _) (c : _), d.winNext = some (mask, c) ∧ c ≤ d.beat) :=
  ⟨⟨0, 8, up, by decide⟩,
    ⟨0, (up.setF (r1 .HBM_STATUS 0) Fld.HBM_STATUS_TRAINED 1), by decide⟩,
    ⟨0, ({ up with hbms := [(0, { retiring := some 0 })] }).setF (r1 .HBM_CTRL 0) Fld.HBM_CTRL_ACCEPT 0, by decide⟩,
    ⟨1, up, by decide⟩,
    ⟨{ up with winNext := some (1, 0) }, 1, 0, by decide⟩⟩

theorem witness_PortRouterEventsComplete :
    (∃ (p : Nat) (inp : Nat) (d : Dev), p < 32 ∧ inp ≤ 40 ∧ d.inReset p = false) ∧
    (∃ (p : Nat) (tag : Nat) (d : Dev) (i : _) (k : _), (p < 8 || (28 ≤ p && p < 32)) ∧ tag < 8192 ∧ d.inReset p = false ∧ (d.waitingAt p
      fun k => isReply k && pTag k == tag) = some (i, k)) ∧
    (∃ (b : Nat) (x : Nat) (member : Nat) (target : Nat) (d : Dev), okSite b x = true ∧ member < 16 ∧ target < 28 ∧ d.siteRuns b x = true) ∧
    (∃ (p : Nat) (pkt : Packet) (d : Dev), p < 28 ∧ ledgered pkt = true ∧ d.inReset p = false ∧ d.isFront (.ledger p) pkt = true) ∧
    (∃ (p : Nat) (d : Dev), p < 28 ∧ d.flag (r1 .PORT_STATUS p) Fld.PORT_STATUS_LEDGER_HOLD = true ∧ d.ledgerFull p = false) ∧
    (∃ (p : Nat) (d : Dev), p < 32 ∧ d.reaches (r1 .PORT_CTRL p).addr = true) ∧
    (∃ (p : Nat) (d : Dev), p < 32 ∧ d.inReset p = true) ∧
    (∃ (p : Nat) (d : Dev), p < 32 ∧
      let limit := d.getF (r0 .FAR_LIMITS) Fld.FAR_LIMITS_PORT_HANG_LIMIT
      let stuck := (List.range 41).any fun i => d.net.any (fun f => f.place == .port p i) && decide ((d.port p).moved.get (fun _ => 0) i +
      limit ≤ d.beat)
      d.hasMaster = true ∧ stuck = true ∧ d.inReset p = false) ∧
    (∃ (p : Nat) (d : Dev), p < 32 ∧
      let valid := (List.range 16).filter fun i => d.flag (r2 .PORT_LOSS0 p i) Fld.PORT_LOSS0_VALID
      d.hasMaster = true ∧ valid.isEmpty = false) ∧
    (∃ (p : Nat) (d : Dev), p < 32 ∧ d.hasMaster = true ∧ d.inReset p = false) :=
  ⟨⟨0, 0, up, by decide⟩,
    ⟨0, 0, { up with net := [{ place := .port 0 0, pkt := packet 6 }] }, 0, packet 6, by decide⟩,
    ⟨0, 0, 0, 0, up, by decide⟩,
    ⟨0, packet 4, up, by decide⟩,
    ⟨0, ({ up with ports := [(0, { ledger := [{ req := packet 4, beat := 0 }] })] }).setF (r1 .PORT_STATUS 0) Fld.PORT_STATUS_LEDGER_HOLD 1,
      by decide⟩,
    ⟨0, up, by decide⟩,
    ⟨0, { up with ports := [(0, { resetAt := some 0 })] }, by decide⟩,
    ⟨0, { up with net := [{ place := .port 0 0, pkt := packet 2 }] }, by decide⟩,
    ⟨0, up.setF (r2 .PORT_LOSS0 0 0) Fld.PORT_LOSS0_VALID 1, by decide⟩,
    ⟨0, up, by decide⟩⟩

theorem witness_OpticalLinkMessagesComplete :
    (∃ (wg : Nat) (dir : Nat) (seq : Nat) (words : List (BitVec 68)) (flit : Flit) (d : Dev), okWg wg dir = true ∧ seq < 4096 ∧ d.inReset
      (dirEnds (linkOf wg) dir).2 = false ∧ wordsAre words flit = true ∧ (isControlFlit flit = true ∨ d.lanesFor (linkOf wg) dir seq ≠ [])) ∧
    (∃ (wg : Nat) (dir : Nat) (msg : W128) (d : Dev), okWg wg dir = true ∧ msgBits msg 7 0 = 1 ∧ d.inReset (dirEnds (linkOf wg) dir).2 =
      false) ∧
    (∃ (wg : Nat) (dir : Nat) (msg : W128) (d : Dev), okWg wg dir = true ∧ msgBits msg 7 0 = 2 ∧ d.inReset (dirEnds (linkOf wg) dir).2 =
      false) ∧
    (∃ (wg : Nat) (dir : Nat) (msg : W128) (d : Dev), okWg wg dir = true ∧ msgBits msg 7 0 = 3 ∧ d.inReset (dirEnds (linkOf wg) dir).2 =
      false) ∧
    (∃ (wg : Nat) (dir : Nat) (msg : W128) (d : Dev), okWg wg dir = true ∧ msgBits msg 7 0 = 4 ∧ d.inReset (dirEnds (linkOf wg) dir).2 =
      false) ∧
    (∃ (wg : Nat) (dir : Nat) (msg : W128) (d : Dev), okWg wg dir = true ∧ msgBits msg 7 0 = 5 ∧ d.inReset (dirEnds (linkOf wg) dir).2 =
      false) ∧
    (∃ (wg : Nat) (dir : Nat) (msg : W128) (d : Dev), okWg wg dir = true ∧ msgBits msg 7 0 = 6 ∧ d.inReset (dirEnds (linkOf wg) dir).2 =
      false) ∧
    (∃ (wg : Nat) (dir : Nat) (d : Dev) (t : _), okWg wg dir = true ∧
      let e := linkOf wg
      (d.olink e dir).zeroSince = some t ∧ d.linkFailed e = false ∧ t + (d.rd (r0 .LANE_LINKDOWN)).toNat ≤ d.beat) ∧
    (∃ (wg : Nat) (d : Dev), okWg wg 0 = true ∧
      let e := linkOf wg
      d.linkFailed e = true ∧ d.hasLane e 0 = true ∧ d.hasLane e 1 = true) :=
  ⟨⟨501, 1, 4095, [], .control [1], up, by decide⟩,
    ⟨0, 0, 1, up, by decide⟩,
    ⟨0, 0, 2, up, by decide⟩,
    ⟨0, 0, 3, up, by decide⟩,
    ⟨0, 0, 4, up, by decide⟩,
    ⟨0, 0, 5, up, by decide⟩,
    ⟨0, 0, 6, up, by decide⟩,
    ⟨0, 0, { up with olinks := [(0, { zeroSince := some 0 })] }, 0, by decide⟩,
    ⟨0, { up.setF (r1 .WG_STATUS 0) Fld.WG_STATUS_FAILED 1 with lanes := [(0, { sent := 1 }), (1, { sent := 1 })] }, by decide⟩⟩

theorem witness_RingAndLaneEventsComplete :
    (∃ (wg : Nat) (dir : Nat) (n : Nat), okRing wg dir n = true) ∧
    (∃ (wg : Nat) (dir : Nat) (n : Nat) (d : Dev), okRing wg dir n = true ∧ d.beat % 1000 = 0) ∧
    (∃ (wg : Nat) (dir : Nat) (tx : Bool) (n : Nat) (d : Dev), okRing wg dir n = true ∧
      let k := d.ring (d.ringOf wg dir tx n)
      k.locked = true ∧ 16 ≤ k.loose) ∧
    (∃ (wg : Nat) (dir : Nat) (tx : Bool) (n : Nat) (off : Int) (d : Dev), okRing wg dir n = true ∧ -50000 ≤ off ∧ off ≤ 50000 ∧
      let key := d.ringOf wg dir tx n
      (d.ring key).locked = false ∧ d.laneDark wg dir tx n = false) ∧
    (∃ (wg : Nat) (dir : Nat) (tx : Bool) (up : Bool) (d : Dev), okWg wg dir = true ∧
      let bank := bankKey wg dir tx
      let t := d.bankTemp bank
      let far : Bool := (match d.banks.get (fun _ => none) bank with | some t0 => decide (20 ≤ (if t < t0 then t0 - t else t - t0)) | none => false)
      d.flag (r0 .LANE_CTRL) Fld.LANE_CTRL_REHOP_EN = true ∧ (d.rehops.get (fun _ => none) bank).isNone = true ∧ far = true ∧ d.heaterOut
      wg dir tx up = true) ∧
    (∃ (wg : Nat) (dir : Nat) (lane : Nat) (d : Dev) (t : _), okRing wg dir lane = true ∧ ((d.lane wg dir).checks.get (fun _ => none)
      lane) = some t ∧ t + 4000 ≤ d.beat) ∧
    (∃ (wg : Nat) (dir : Nat) (lane : Nat) (d : Dev) (t : _), okRing wg dir lane = true ∧ ((d.lane wg dir).retry.get (fun _ => none) lane)
      = some t ∧ t + 100000 ≤ d.beat) ∧
    (∃ (wg : Nat) (dir : Nat) (d : Dev) (t : _), okWg wg dir = true ∧ d.trainAt = some t ∧ (d.lane wg dir).trained = false) ∧
    (∃ (wg : Nat) (dir : Nat) (lane : Nat), okRing wg dir lane = true) :=
  ⟨⟨0, 0, 0, by decide⟩,
    ⟨501, 1, 15, up, by decide⟩,
    ⟨0, 0, false, 0, { up with rings := [(up.ringOf 0 0 false 0, { locked := true, loose := 16 })] }, by decide⟩,
    ⟨0, 0, false, 0, -50000, up, by decide⟩,
    ⟨0, 0, false, true, { up with banks := [(bankKey 0 0 false, some 100)] }, by decide +kernel⟩,
    ⟨0, 0, 0, { up with lanes := [(0, { checks := [(0, some 0)] })] }, 0, by decide⟩,
    ⟨0, 0, 0, { up with lanes := [(0, { retry := [(0, some 0)] })] }, 0, by decide⟩,
    ⟨0, 0, { up with trainAt := some 0 }, 0, by decide⟩,
    ⟨0, 0, 0, by decide⟩⟩

theorem witness_LaserAndModuleEventsComplete :
    (∃ (k : Nat) (j : Nat) (yard : Nat) (d : Dev) (m : _), okLaser k j = true ∧
      let st := d.feed k j Fld.FEED_STATE
      d.beat % 10000 = 0 ∧ d.flag (r0 .LANT_CTRL) Fld.LANT_CTRL_APC_EN = true ∧ (st == 1 || st == 2) = true ∧ (if 56 ≤ j then some yard
      else (d.laserGroup k j).bind fun g => d.feedMargin (laserWave k j) g) = some m) ∧
    (∃ (k : Nat) (j : Nat) (d : Dev), okLaser k j = true ∧ d.feed k j Fld.FEED_STATE ≠ 5 ∧ d.feed k j Fld.FEED_STATE ≠ 6) ∧
    (∃ (k : Nat) (j : Nat) (d : Dev), okLaser k j = true ∧ (d.atReplace k j && d.feed k j Fld.FEED_STATE != 0 || d.feed k j Fld.FEED_STATE
      == 5) = true) ∧
    (∃ (k : Nat) (j : Nat) (d : Dev) (g : _) (w : _), okLaser k j = true ∧ j < 56 ∧ d.switchOf k j = some (g, w) ∧ w.step = 1) ∧
    (∃ (k : Nat) (j : Nat) (d : Dev) (g : _) (w : _), okLaser k j = true ∧ j < 56 ∧ d.switchOf k j = some (g, w) ∧ w.step = 4 ∧
      d.groupChecked (laserWave k j) g = true) ∧
    (∃ (k : Nat) (d : Dev), k < 8 ∧ d.modIs k Fld.MOD_STATUS_PRESENT = false) ∧
    (∃ (k : Nat) (d : Dev) (t : _), k < 8 ∧ (d.modSt k).insertedAt = some t ∧ t + 10000000 ≤ d.beat ∧ (d.modSt k).resetHigh = false) ∧
    (∃ (k : Nat) (d : Dev), k < 8 ∧ (d.modSt k).lasersOn = true ∧ d.modIs k Fld.MOD_STATUS_READY = false) ∧
    (∃ (k : Nat), k < 8) ∧
    (∃ (k : Nat) (v : W32) (d : Dev), k < 8 ∧ d.reaches (r1 .MOD_CTRL k).addr = true ∧ Fld.MOD_CTRL_RELEASE.get v = 1) ∧
    (∃ (k : Nat) (d : Dev), k < 8 ∧ (d.modSt k).releaseAt.isSome = true ∧ (d.modSt k).lateLight = false) ∧
    (∃ (k : Nat) (d : Dev) (t : _), k < 8 ∧ (d.modSt k).releaseAt = some t ∧ t + 150000 ≤ d.beat ∧ d.modIs k Fld.MOD_STATUS_OK = false ∧
      (d.modSt k).lateLight = false) ∧
    (∃ (k : Nat) (d : Dev), k < 8 ∧ d.modIs k Fld.MOD_STATUS_PRESENT = true) ∧
    (∃ (d : Dev), d.reaches (r0 .LANT_I2C).addr = true) ∧
    (∃ (d : Dev),
      let r := r0 .LANT_I2C
      d.flag r Fld.LANT_I2C_GO = true) ∧
    (∃ (k : Nat) (d : Dev), k < 8 ∧ d.modIs k Fld.MOD_STATUS_PRESENT = true) :=
  ⟨⟨0, 56, 5, { up.setF (r2 .FEED 0 56) Fld.FEED_STATE 1 with beat := 1048580000 }, 5, by decide⟩,
    ⟨0, 0, up, by decide⟩,
    ⟨0, 0, up.setF (r2 .FEED 0 0) Fld.FEED_STATE 5, by decide⟩,
    ⟨0, 0, { up with switches := [(0, some { spare := 0, laser := 0, since := 0 })] }, 0, { spare := 0, laser := 0, since := 0 }, by decide⟩,
    ⟨0, 0, { up with switches := [(0, some { spare := 0, laser := 0, since := 0, step := 4 })] }, 0,
      { spare := 0, laser := 0, since := 0, step := 4 }, by decide⟩,
    ⟨0, up.setF (r1 .MOD_STATUS 0) Fld.MOD_STATUS_PRESENT 0, by decide⟩,
    ⟨0, { up with mods := [(0, { insertedAt := some 0 })] }, 0, by decide⟩,
    ⟨0, { up with mods := [(0, { lasersOn := true })] }, by decide⟩,
    ⟨0, by decide⟩,
    ⟨0, 1, up, by decide⟩,
    ⟨0, { up with mods := [(0, { releaseAt := some 0 })] }, by decide⟩,
    ⟨0, ({ up with mods := [(0, { releaseAt := some 0 })] }).setF (r1 .MOD_STATUS 0) Fld.MOD_STATUS_OK 0, 0, by decide⟩,
    ⟨0, up.setF (r1 .MOD_STATUS 0) Fld.MOD_STATUS_PRESENT 1, by decide⟩,
    ⟨up, by decide⟩,
    ⟨up.setF (r0 .LANT_I2C) Fld.LANT_I2C_GO 1, by decide⟩,
    ⟨0, up.setF (r1 .MOD_STATUS 0) Fld.MOD_STATUS_PRESENT 1, by decide⟩⟩

/-- The symbols of levels that are all 0. -/
theorem symbols_of_zeros : natSymbols (pamBits (List.replicate 2720 0)) 544 = List.replicate 544 0 := by decide +kernel

/-- Levels of zeros carry CSEQ 0 and five data flits of zeros, under a scrambler state of zeros. -/
theorem flits_of_zeros : flitsAre (descramble 0 (symbolsNat ((List.replicate 544 0).take 514)) 5140).1
    (List.replicate 5 (.head { hdr := 0, data := [] })) = true := by decide +kernel

theorem witness_codeword :
    (∃ (l : Nat) (k : Nat) (levels : List Nat) (flits : List Flit) (d : Dev), okChannel l k = true ∧ d.ylinkOn l = true ∧ d.inReset
      (gateOf l) = false ∧ bitOf (d.ylink l).good k = true ∧ d.levelsAre l k levels flits = true) :=
  ⟨31, 7, List.replicate 2720 0, List.replicate 5 (.head { hdr := 0, data := [] }),
    { ((up.setF (r1 .YLINK_CTRL 31) Fld.YLINK_CTRL_ENABLE 1).setF (r0 .YARD_CTRL) Fld.YARD_CTRL_JOIN_EN 1) with yard := { links := [(31,
      { good := 128 })] } },
    by decide, by decide, by decide, by decide,
    Dev.levelsAre_of _ 31 7 0 0 _ (List.replicate 544 0) _ (by decide) (by rw [symbols_of_zeros, rsDecode_zeros]) flits_of_zeros⟩

theorem witness_YardLinkEventsComplete :
    (∃ (l : Nat) (k : Nat) (levels : List Nat) (flits : List Flit) (d : Dev), okChannel l k = true ∧ d.ylinkOn l = true ∧ d.inReset
      (gateOf l) = false ∧ bitOf (d.ylink l).good k = true ∧ d.levelsAre l k levels flits = true) ∧
    (∃ (l : Nat) (msg : W128) (d : Dev), l < 32 ∧ msgBits msg 7 0 = 1 ∧ d.ylinkOn l = true ∧ d.inReset (gateOf l) = false) ∧
    (∃ (l : Nat) (msg : W128) (d : Dev), l < 32 ∧ msgBits msg 7 0 = 2 ∧ d.ylinkOn l = true ∧ d.inReset (gateOf l) = false) ∧
    (∃ (l : Nat) (msg : W128) (d : Dev), l < 32 ∧ msgBits msg 7 0 = 3 ∧ d.ylinkOn l = true ∧ d.inReset (gateOf l) = false) ∧
    (∃ (l : Nat) (msg : W128) (d : Dev), l < 32 ∧ msgBits msg 7 0 = 4 ∧ d.ylinkOn l = true ∧ d.inReset (gateOf l) = false) ∧
    (∃ (l : Nat) (msg : W128) (d : Dev), l < 32 ∧ msgBits msg 7 0 = 5 ∧ d.ylinkOn l = true ∧ d.inReset (gateOf l) = false) ∧
    (∃ (l : Nat) (msg : W128) (d : Dev), l < 32 ∧ msgBits msg 7 0 = 6 ∧ d.ylinkOn l = true ∧ d.inReset (gateOf l) = false) ∧
    (∃ (l : Nat) (k : Nat) (d : Dev) (t : _), okChannel l k = true ∧ (d.ylink l).training.get (fun _ => none) k = some t ∧ t + 4000 ≤
      d.beat) ∧
    (∃ (l : Nat) (k : Nat) (dark : Bool) (d : Dev), okChannel l k = true ∧ bitOf (d.ylink l).good k = true ∧ (dark || d.failsOften l k) =
      true) ∧
    (∃ (l : Nat) (k : Nat) (d : Dev) (t : _), okChannel l k = true ∧ ((d.ylink l).retry.get (fun _ => none) k) = some t ∧ t + 100000 ≤
      d.beat ∧ d.ylinkOn l = true) ∧
    (∃ (l : Nat) (d : Dev) (t : _), l < 32 ∧ (d.ylink l).zeroSince = some t ∧ t + (d.rd (r0 .LANE_LINKDOWN)).toNat ≤ d.beat ∧
      d.ylinkStatus l Fld.YLINK_STATUS_FAILED = 0) ∧
    (∃ (l : Nat) (v : W32) (d : Dev), l < 32 ∧ d.reaches (r1 .YLINK_CTRL l).addr = true ∧ d.yardBounds (r1 .YLINK_CTRL l) v = false) :=
  ⟨witness_codeword,
    ⟨0, 1, ((up.setF (r1 .YLINK_CTRL 0) Fld.YLINK_CTRL_ENABLE 1).setF (r0 .YARD_CTRL) Fld.YARD_CTRL_JOIN_EN 1), by decide +kernel⟩,
    ⟨0, 2, ((up.setF (r1 .YLINK_CTRL 0) Fld.YLINK_CTRL_ENABLE 1).setF (r0 .YARD_CTRL) Fld.YARD_CTRL_JOIN_EN 1), by decide +kernel⟩,
    ⟨0, 3, ((up.setF (r1 .YLINK_CTRL 0) Fld.YLINK_CTRL_ENABLE 1).setF (r0 .YARD_CTRL) Fld.YARD_CTRL_JOIN_EN 1), by decide +kernel⟩,
    ⟨0, 4, ((up.setF (r1 .YLINK_CTRL 0) Fld.YLINK_CTRL_ENABLE 1).setF (r0 .YARD_CTRL) Fld.YARD_CTRL_JOIN_EN 1), by decide +kernel⟩,
    ⟨0, 5, ((up.setF (r1 .YLINK_CTRL 0) Fld.YLINK_CTRL_ENABLE 1).setF (r0 .YARD_CTRL) Fld.YARD_CTRL_JOIN_EN 1), by decide +kernel⟩,
    ⟨0, 6, ((up.setF (r1 .YLINK_CTRL 0) Fld.YLINK_CTRL_ENABLE 1).setF (r0 .YARD_CTRL) Fld.YARD_CTRL_JOIN_EN 1), by decide +kernel⟩,
    ⟨0, 7, { up with yard := { links := [(0, { training := [(7, some 0)] })] } }, 0, by decide +kernel⟩,
    ⟨0, 0, false, { up with yard := { links := [(0, { good := 1, fails := [(0, List.replicate 16 1048476000)] })] } }, by decide +kernel⟩,
    ⟨0, 0,
      { ((up.setF (r1 .YLINK_CTRL 0) Fld.YLINK_CTRL_ENABLE 1).setF (r0 .YARD_CTRL) Fld.YARD_CTRL_JOIN_EN 1) with yard := { links := [(0,
        { retry := [(0, some 0)] })] } },
      0, by decide +kernel⟩,
    ⟨0, { up with yard := { links := [(0, { zeroSince := some 0 })] } }, 0, by decide +kernel⟩,
    ⟨0, 0, up, by decide +kernel⟩⟩

theorem witness_YardMembershipComplete :
    (∃ (l : Nat) (msg : W128) (d : Dev), l < 32 ∧ msgBits msg 7 0 = 7 ∧ d.ylinkOn l = true ∧ d.inReset (gateOf l) = false) ∧
    (∃ (l : Nat) (msg : W128) (d : Dev), l < 32 ∧ msgBits msg 7 0 = 8 ∧ d.ylinkOn l = true ∧ d.inReset (gateOf l) = false) ∧
    (∃ (l : Nat) (msg : W128) (d : Dev), l < 32 ∧ msgBits msg 7 0 = 9 ∧ d.ylinkOn l = true ∧ d.inReset (gateOf l) = false) ∧
    (∃ (l : Nat) (msg : W128) (d : Dev), l < 32 ∧ msgBits msg 7 0 = 10 ∧ d.ylinkOn l = true ∧ d.inReset (gateOf l) = false) ∧
    (∃ (p : Nat) (l : Nat) (msg : W128) (d : Dev), p < 32 ∧ l ≤ 32 ∧ msgBits msg 7 0 = 11 ∧ d.inReset p = false) ∧
    (∃ (l : Nat) (msg : W128) (d : Dev), l < 32 ∧ msgBits msg 7 0 = 12 ∧ d.ylinkOn l = true ∧ d.inReset (gateOf l) = false) ∧
    (∃ (l : Nat) (msg : W128) (d : Dev), l < 32 ∧ msgBits msg 7 0 = 13 ∧ d.ylinkOn l = true ∧ d.inReset (gateOf l) = false) ∧
    (∃ (d : Dev), 1 ≤ d.yardState ∧ lapsed d.yard.lastIdent 1000 d.beat = true) ∧
    (∃ (d : Dev), d.hasMaster = true ∧ 2 ≤ d.yardState ∧ lapsed d.yard.lastHeart (d.getF (r0 .YARD_HB) Fld.YARD_HB_HB_PERIOD) d.beat =
      true) ∧
    (∃ (d : Dev) (t : _), d.yard.since = some t ∧
      let first := d.peers.all fun p => p.state == 0 && decide (d.self < p.member)
      d.yardState = 1 ∧ t + (d.rd (r0 .YARD_JOIN)).toNat ≤ d.beat ∧ first = true) ∧
    (∃ (jb : Nat) (d : Dev), d.self < 16 ∧ d.yard.joins.get (fun _ => none) d.self = some jb ∧ jb ≤ d.beat ∧ d.yardState = 2) ∧
    (∃ (m : Nat) (jb : Nat) (d : Dev), m < 16 ∧ m ≠ d.self ∧ d.yard.joins.get (fun _ => none) m = some jb ∧ jb ≤ d.beat ∧ d.yardState = 3) ∧
    (∃ (m : Nat) (d : Dev), m < 16 ∧
      let t := (d.yard.heard.get (fun _ => none) m).getD 0
      m ≠ d.self ∧ bitOf d.members m = true ∧ t + d.getF (r0 .YARD_HB) Fld.YARD_HB_HB_LOSS * 1000 ≤ d.beat) ∧
    (∃ (v : W32) (d : Dev), d.reaches (r0 .YARD_CTRL).addr = true ∧ d.yardBounds (r0 .YARD_CTRL) v = false) ∧
    (∃ (m : Nat) (d : Dev), m < 16 ∧ m ≠ d.self ∧ (d.yard.moves.get (fun _ => none) m).isNone = true) ∧
    (∃ (l : Nat) (pkt : Packet) (d : Dev), l < 32 ∧ isReply pkt = false ∧ d.inReset (gateOf l) = false) ∧
    (∃ (l : Nat) (slot : Nat) (d : Dev), l < 32 ∧ slot < 64 ∧ d.ysched = true ∧ d.streamsRun l = true ∧ d.beat % 128 = 2 * slot ∧
      d.slotStream l slot ≠ 0 ∧ (d.ylink l).slotAt ≠ some d.beat) ∧
    (∃ (g : Nat) (v : W32) (d : Dev), g < 256 ∧ d.reaches (r1 .MCAST_GROUP g).addr = true ∧ d.yardBounds (r1 .MCAST_GROUP g) v = false) :=
  ⟨⟨0, 7, ((up.setF (r1 .YLINK_CTRL 0) Fld.YLINK_CTRL_ENABLE 1).setF (r0 .YARD_CTRL) Fld.YARD_CTRL_JOIN_EN 1), by decide⟩,
    ⟨0, 8, ((up.setF (r1 .YLINK_CTRL 0) Fld.YLINK_CTRL_ENABLE 1).setF (r0 .YARD_CTRL) Fld.YARD_CTRL_JOIN_EN 1), by decide⟩,
    ⟨0, 9, ((up.setF (r1 .YLINK_CTRL 0) Fld.YLINK_CTRL_ENABLE 1).setF (r0 .YARD_CTRL) Fld.YARD_CTRL_JOIN_EN 1), by decide⟩,
    ⟨0, 10, ((up.setF (r1 .YLINK_CTRL 0) Fld.YLINK_CTRL_ENABLE 1).setF (r0 .YARD_CTRL) Fld.YARD_CTRL_JOIN_EN 1), by decide⟩,
    ⟨0, 0, 11, ((up.setF (r1 .YLINK_CTRL 0) Fld.YLINK_CTRL_ENABLE 1).setF (r0 .YARD_CTRL) Fld.YARD_CTRL_JOIN_EN 1), by decide⟩,
    ⟨0, 12, ((up.setF (r1 .YLINK_CTRL 0) Fld.YLINK_CTRL_ENABLE 1).setF (r0 .YARD_CTRL) Fld.YARD_CTRL_JOIN_EN 1), by decide⟩,
    ⟨0, 13, ((up.setF (r1 .YLINK_CTRL 0) Fld.YLINK_CTRL_ENABLE 1).setF (r0 .YARD_CTRL) Fld.YARD_CTRL_JOIN_EN 1), by decide⟩,
    ⟨(up.setF (r0 .YARD_STATUS) Fld.YARD_STATUS_STATE 1), by decide⟩,
    ⟨(up.setF (r0 .YARD_STATUS) Fld.YARD_STATUS_STATE 2), by decide⟩,
    ⟨{ (up.setF (r0 .YARD_STATUS) Fld.YARD_STATUS_STATE 1) with yard := { since := some 0 } }, 0, by decide⟩,
    ⟨0, { (up.setF (r0 .YARD_STATUS) Fld.YARD_STATUS_STATE 2) with yard := { joins := [(0, some 0)] } }, by decide⟩,
    ⟨1, 0, { (up.setF (r0 .YARD_STATUS) Fld.YARD_STATUS_STATE 3) with yard := { joins := [(1, some 0)] } }, by decide⟩,
    ⟨1, up.setF (r0 .YARD_STATUS) Fld.YARD_STATUS_MEMBERS 3, by decide⟩,
    ⟨0, up, by decide⟩,
    ⟨1, up, by decide⟩,
    ⟨0, packet 2, up, by decide⟩,
    ⟨31, 63, { (up.setF (r0 .YSCHED_CTRL) Fld.YSCHED_CTRL_EN 1).setF (r2 .YSCHED 31 63) Fld.YSCHED_STREAM 1 with beat := 126 }, by decide⟩,
    ⟨0, 0, up, by decide⟩⟩

theorem witness_ManagementRequestsAndDoorbellsComplete :
    (∃ (qp : Nat) (msg : List Byte) (d : Dev), qp < 4096 ∧ isRequest 1 msg = true ∧ d.qpUp qp = true) ∧
    (∃ (qp : Nat) (msg : List Byte) (d : Dev), qp < 4096 ∧ isRequest 2 msg = true ∧ d.qpUp qp = true) ∧
    (∃ (qp : Nat) (msg : List Byte) (d : Dev), qp < 4096 ∧ isRequest 3 msg = true ∧ d.qpUp qp = true) ∧
    (∃ (qp : Nat) (msg : List Byte) (d : Dev), qp < 4096 ∧ isRequest 4 msg = true ∧ d.qpUp qp = true) ∧
    (∃ (qp : Nat) (msg : List Byte) (d : Dev), qp < 4096 ∧ isRequest 5 msg = true ∧ d.qpUp qp = true) ∧
    (∃ (qp : Nat) (msg : List Byte) (d : Dev), qp < 4096 ∧ isRequest 6 msg = true ∧ d.qpUp qp = true) ∧
    (∃ (qp : Nat) (d : Dev) (v : _), qp < 4096 ∧ d.qpUp qp = true ∧ d.svc = some v) ∧
    (∃ (sess : Nat) (v : Svc) (k : Session) (d : Dev), sess < 16 ∧ d.svc = some v ∧ v.session sess = some k ∧
      let c := d.nextEntry v sess k
      v.busy = none ∧ d.nextSession v = some sess ∧ (cCode c = 1 ∨ 8 < cCode c ∨ cCode c = 0)) ∧
    (∃ (sess : Nat) (v : Svc) (k : Session) (d : Dev), sess < 16 ∧ d.svc = some v ∧ v.session sess = some k ∧
      let c := d.nextEntry v sess k
      v.busy = none ∧ d.nextSession v = some sess ∧ cCode c = 2 ∧ (d.consume sess k).entryOk c = true) ∧
    (∃ (sess : Nat) (v : Svc) (k : Session) (d : Dev), sess < 16 ∧ d.svc = some v ∧ v.session sess = some k ∧
      let c := d.nextEntry v sess k
      v.busy = none ∧ d.nextSession v = some sess ∧ cCode c = 3 ∧ (d.consume sess k).entryOk c = true) ∧
    (∃ (sess : Nat) (v : Svc) (k : Session) (d : Dev), sess < 16 ∧ d.svc = some v ∧ v.session sess = some k ∧
      let c := d.nextEntry v sess k
      v.busy = none ∧ d.nextSession v = some sess ∧ cCode c = 4 ∧ (d.consume sess k).entryOk c = true) ∧
    (∃ (sess : Nat) (v : Svc) (k : Session) (d : Dev), sess < 16 ∧ d.svc = some v ∧ v.session sess = some k ∧
      let c := d.nextEntry v sess k
      v.busy = none ∧ d.nextSession v = some sess ∧ cCode c = 5 ∧ (d.consume sess k).entryOk c = true) ∧
    (∃ (sess : Nat) (v : Svc) (k : Session) (d : Dev), sess < 16 ∧ d.svc = some v ∧ v.session sess = some k ∧
      let c := d.nextEntry v sess k
      v.busy = none ∧ d.nextSession v = some sess ∧ cCode c = 6 ∧ (d.consume sess k).entryOk c = true) ∧
    (∃ (sess : Nat) (v : Svc) (k : Session) (d : Dev), sess < 16 ∧ d.svc = some v ∧ v.session sess = some k ∧
      let c := d.nextEntry v sess k
      v.busy = none ∧ d.nextSession v = some sess ∧ cCode c = 7 ∧ (d.consume sess k).entryOk c = true) ∧
    (∃ (sess : Nat) (v : Svc) (k : Session) (d : Dev), sess < 16 ∧ d.svc = some v ∧ v.session sess = some k ∧
      let c := d.nextEntry v sess k
      v.busy = none ∧ d.nextSession v = some sess ∧ cCode c = 8 ∧ (d.consume sess k).entryOk c = true) :=
  ⟨⟨0, request 1, etherUp, by decide⟩,
    ⟨0, request 2, etherUp, by decide⟩,
    ⟨0, request 3, etherUp, by decide⟩,
    ⟨0, request 4, etherUp, by decide⟩,
    ⟨0, request 5, etherUp, by decide⟩,
    ⟨0, request 6, etherUp, by decide⟩,
    ⟨0, served [], svc0, by decide⟩,
    ⟨0, svc0, sess0, served [(0, 1)], by decide⟩,
    ⟨0, svc0, sess0, served ((0, 2) :: opener), by decide +kernel⟩,
    ⟨0, svc0, sess0, served ((0, 3) :: opener.drop 1), by decide +kernel⟩,
    ⟨0, svc0, sess0, served [(0, 4)], by decide⟩,
    ⟨0, svc0, sess0, served [(0, 5)], by decide⟩,
    ⟨0, svc0, sess0, served [(0, 6)], by decide⟩,
    ⟨0, svc0, sess0, served [(0, 7)], by decide⟩,
    ⟨0, svc0, sess0, served [(0, 8), (0x2C, 1)], by decide⟩⟩

theorem witness_GenerationRoundsComplete :
    (∃ (outs : List RoundOut) (d : Dev) (v : _), d.svc = some v ∧
      let adm := d.admitted v
      d.canRound = true ∧ d.chunkDue' v = false ∧ adm.isEmpty = false ∧ outs.map (·.seq) = adm ∧ d.outsFit v outs = true) ∧
    (∃ (i : Nat) (d : Dev) (v : _), i < 256 ∧ d.svc = some v ∧ d.canRound = true ∧ v.prefilling = some i ∧ ((d.admitted v).isEmpty ||
      d.chunkDue' v) = true) ∧
    (∃ (b : Nat) (x : Nat) (d : Dev) (v : _) (t : _), okSite b x = true ∧ d.svc = some v ∧ (d.tile b x).logical = some t ∧ bitOf d.barnsIn
      b = true) ∧
    (∃ (n : Nat) (d : Dev) (v : _), n < 20 ∧ d.svc = some v ∧ v.loaded = true ∧ d.flag (r1 .HBM_STATUS n) Fld.HBM_STATUS_RETIRED = true) ∧
    (∃ (n : Nat) (d : Dev) (v : _), n < 20 ∧ d.svc = some v ∧ v.kvStacks.contains n = true ∧ d.stackIn n = false) ∧
    (∃ (d : Dev) (v : _), d.svc = some v ∧ 3 ≤ d.level ∧ v.layoutBarns ≠ d.barnsIn) ∧
    (∃ (d : Dev) (v : _) (a : _) (i : _), d.svc = some v ∧ d.act = some a ∧ d.firstLead = some i ∧
      let here := (nth d.serviceTiles v.lead (0, 0)).1
      d.hasMaster = true ∧ bitOf d.barnsIn here = false ∧ i ≠ v.lead) ∧
    (∃ (sess : Nat) (d : Dev) (k : _), sess < 16 ∧ (d.svc.bind fun v => v.session sess) = some k ∧
      let idle := match d.qp k.qp with | some q => !q.up || decide (q.heard + (d.rd (r0 .ETH_LEASE)).toNat ≤ d.beat) | none => true
      idle = true) ∧
    (∃ (i : Nat) (d : Dev) (v : _), i < 256 ∧ d.svc = some v ∧
      let e := v.seq i
      e.state = 3 ∧ e.owner.isNone = true ∧ e.adoptBy ≤ d.beat) :=
  ⟨⟨[{ seq := 0, target := [[]], draft := [] }],
      { up with
        svc := some { svc0 with seqs := [(0, { state := 2, ring := { entries := 4 } })], layout := 8, layoutBarns := 255 }
        act := some (anAct 0 0) },
      { svc0 with seqs := [(0, { state := 2, ring := { entries := 4 } })], layout := 8, layoutBarns := 255 }, by decide⟩,
    ⟨0, { up with svc := some { svc0 with seqs := [(0, { state := 1 })], layout := 8, layoutBarns := 255 } },
      { svc0 with seqs := [(0, { state := 1 })], layout := 8, layoutBarns := 255 }, by decide⟩,
    ⟨0, 0, served [], svc0, 0, by decide⟩,
    ⟨0, { up.setF (r1 .HBM_STATUS 0) Fld.HBM_STATUS_RETIRED 1 with svc := some { svc0 with loaded := true } }, { svc0 with loaded := true },
      by decide⟩,
    ⟨0, { up with svc := some { sessions := [(0, some sess0)], kvStacks := [0] } }, { sessions := [(0, some sess0)], kvStacks := [0] },
      by decide⟩,
    ⟨{ up.setF (r0 .RM_STATUS) Fld.RM_STATUS_SERVICE_LEVEL 3 with svc := some svc0 }, svc0, by decide⟩,
    ⟨{ up with svc := some { svc0 with lead := 1 }, act := some (anAct 1 2), barnsIn := 1 }, { svc0 with lead := 1 }, anAct 1 2, 0, by decide⟩,
    ⟨0, { etherUp with svc := some { sessions := [(0, some { sess0 with qp := 1 })] } }, { sess0 with qp := 1 }, by decide⟩,
    ⟨0, { up with svc := some { seqs := [(0, { state := 3 })] } }, { seqs := [(0, { state := 3 })] }, by decide⟩⟩

theorem witness_EthernetEventsComplete :
    (∃ (p : Nat) (d : Dev), p < 4 ∧ d.portUp p = true) ∧
    (∃ (p : Nat) (d : Dev), p < 4 ∧
      let due := decide ((d.ethSt p).triedAt + 100000000 ≤ d.beat)
      d.ethF p Fld.ETH_CTRL_ENABLE = 1 ∧ d.ethStatus p Fld.ETH_STATUS_LINK_UP = 0 ∧ due = true) ∧
    (∃ (p : Nat) (pauses : List (Nat × Nat)) (d : Dev), (decide (p < 4) && pauses.all fun e => decide (e.1 < 8) && decide (e.2 < 65536)) =
      true ∧ d.portUp p = true) ∧
    (∃ (p : Nat) (kb : Nat) (d : Dev), p < 4 ∧ kb ≤ 2048 ∧ d.portUp p = true) ∧
    (∃ (p : Nat) (qp : Nat) (d : Dev), p < 4 ∧ qp < 4096 ∧ d.portUp p = true) ∧
    (∃ (qp : Nat) (d : Dev) (q : _), qp < 4096 ∧ d.qp qp = some q ∧ d.qpUp qp = true) ∧
    (∃ (qp : Nat) (d : Dev) (q : _), qp < 4096 ∧ d.qp qp = some q ∧ d.qpUp qp = true ∧ q.rateAt + d.getF (r1 .ETH_CC q.port)
      Fld.ETH_CC_RECOVER ≤ d.beat) ∧
    (∃ (qp : Nat) (d : Dev), qp < 4096 ∧ d.qpUp qp = true) ∧
    (∃ (qp : Nat) (d : Dev), qp < 4096 ∧ d.qpUp qp = true) ∧
    (∃ (qp : Nat) (d : Dev), qp < 4096 ∧ d.qpUp qp = true) ∧
    (∃ (qp : Nat) (ok : Bool) (data : List Byte) (d : Dev) (r : _), qp < 4096 ∧ (d.reads.find? fun r => r.1 == qp) = some r ∧ d.qpUp qp =
      true ∧ (!ok || data.length == r.2.bytes) = true) ∧
    (∃ (p : Nat) (d : Dev), p < 4 ∧ d.portUp p = true) ∧
    (∃ (qp : Nat) (d : Dev) (q : _), qp < 4096 ∧ d.qp qp = some q ∧ d.portUp q.port = true) ∧
    (∃ (qp : Nat) (d : Dev) (q : _) (m : _), qp < 4096 ∧ d.qp qp = some q ∧ q.last = some m ∧ q.up = true ∧ q.sentAt + ackBeats ≤ d.beat) ∧
    (∃ (p : Nat) (v : W32) (d : Dev), p < 4 ∧ d.reaches (r1 .ETH_CTRL p).addr = true ∧ d.ethBad (r1 .ETH_CTRL p) v = false) ∧
    (∃ (p : Nat) (up : Bool) (d : Dev), p < 4 ∧
      let is := d.ethStatus p Fld.ETH_STATUS_LINK_UP == 1
      up ≠ is ∧ (!up || d.ethF p Fld.ETH_CTRL_ENABLE == 1) = true) :=
  ⟨⟨0, etherUp, by decide⟩,
    ⟨0, up.setF (r1 .ETH_CTRL 0) Fld.ETH_CTRL_ENABLE 1, by decide⟩,
    ⟨0, [], etherUp, by decide⟩,
    ⟨0, 0, etherUp, by decide⟩,
    ⟨0, 0, etherUp, by decide⟩,
    ⟨0, etherUp, qp0, by decide⟩,
    ⟨0, etherUp, qp0, by decide⟩,
    ⟨0, etherUp, by decide⟩,
    ⟨0, etherUp, by decide⟩,
    ⟨0, etherUp, by decide⟩,
    ⟨0, false, [], { etherUp with reads := [(0, .act [])] }, (0, .act []), by decide⟩,
    ⟨0, etherUp, by decide⟩,
    ⟨0, etherUp, qp0, by decide⟩,
    ⟨0, etherUp, qp0, .ack, by decide⟩,
    ⟨0, 0, up, by decide⟩,
    ⟨0, true, (Sys2Proof.Tests.up.setF (r1 .ETH_CTRL 0) Fld.ETH_CTRL_ENABLE 1), by decide⟩⟩

theorem witness_CalibrationCommandsComplete :
    (∃ (calref : Nat) (d : Dev), (d.noteCalref calref).reaches (r0 .CAL_CTRL).addr = true) ∧
    (∃ (d : Dev), d.cal.due ≤ d.beat) ∧
    (∃ (d : Dev), d.reaches (r0 .CAL_CTRL).addr = true) ∧
    (∃ (d : Dev), d.reaches (r0 .CAL_CTRL).addr = true) ∧
    (∃ (d : Dev),
      let c := d.pair (r0 .CAL_APPLY_LO) (r0 .CAL_APPLY_HI)
      d.calState = 6 ∧ c ≤ d.beat) ∧
    (∃ (d : Dev), d.hasMaster = true ∧ d.cal.recordDue = true ∧ d.flag (r0 .TACK_STATUS) Fld.TACK_STATUS_ID_READY = true ∧ d.flag (r0
      .TACK_STATUS) Fld.TACK_STATUS_ZEROISED = false) :=
  ⟨⟨0, up, by decide⟩,
    ⟨up, by decide⟩,
    ⟨up, by decide⟩,
    ⟨up, by decide⟩,
    ⟨up.setF (r0 .CAL_STATUS) Fld.CAL_STATUS_STATE 6, by decide⟩,
    ⟨{ up.setF (r0 .TACK_STATUS) Fld.TACK_STATUS_ID_READY 1 with cal := { recordDue := true } }, by decide⟩⟩

theorem witness_StartPhasesComplete :
    (∃ (d : Dev), d.start.out = false) ∧
    (∃ (d : Dev), d.start.out = true) ∧
    (∃ (d : Dev), d.phase = 1 ∧ d.tackFlag Fld.TACK_STATUS_BOOT_HALT = false) ∧
    (∃ (d : Dev) (i : _), d.start.image = some i ∧ d.phase = 2 ∧ d.start.begun = false) ∧
    (∃ (d : Dev), d.cfgTurn 1 = true) ∧
    (∃ (d : Dev), d.cfgTurn 2 = true) ∧
    (∃ (d : Dev), d.cfgTurn 3 = true) ∧
    (∃ (d : Dev), d.cfgTurn 4 = true) ∧
    (∃ (d : Dev), d.phase = 2 ∧ d.configured = true) ∧
    (∃ (d : Dev), d.phase = 3 ∧ (decide (d.phaseBeat 3 + 15000000 ≤ d.beat) || d.trainedAll) = true) ∧
    (∃ (d : Dev),
      let alone := !d.flag (r0 .YARD_CTRL) Fld.YARD_CTRL_JOIN_EN
      let late := decide (d.phaseBeat 4 + 2 * (d.rd (r0 .YARD_JOIN)).toNat ≤ d.beat)
      d.phase = 4 ∧ (alone || decide (2 ≤ d.yardState) || late) = true) ∧
    (∃ (b : Nat) (d : Dev), b < 8 ∧
      let before := (List.range b).all fun k => decide (2 ≤ d.stage k)
      5 ≤ d.phase ∧ before = true ∧ d.stage b = 0 ∧ d.start.testing.isNone = true) ∧
    (∃ (b : Nat) (d : Dev) (t : _) (k : _) (i : _), b < 8 ∧ d.start.testing = some (t, k) ∧ d.start.image = some i ∧ k = b ∧ d.stage b = 0
      ∧ t + 3000 ≤ d.beat) ∧
    (∃ (b : Nat) (d : Dev) (since : _) (k : _), b < 8 ∧ d.start.testing = some (since, k) ∧ k = b ∧ d.stage b = 1 ∧ d.hasMaster = true) :=
  ⟨⟨{ up with start := {} }, by decide⟩,
    ⟨up, by decide⟩,
    ⟨phased 1 {}, by decide⟩,
    ⟨phased 2 { image := some (image0 []) }, image0 [], by decide⟩,
    ⟨recorded 1, by decide⟩,
    ⟨recorded 2, by decide⟩,
    ⟨recorded 3, by decide⟩,
    ⟨recorded 4, by decide⟩,
    ⟨phased 2 { begun := true }, by decide⟩,
    ⟨phased 3 {}, by decide⟩,
    ⟨phased 4 {}, by decide⟩,
    ⟨0, phased 5 {}, by decide⟩,
    ⟨0, phased 5 { image := some (image0 []), testing := some (0, 0) }, 0, 0, image0 [], by decide⟩,
    ⟨0, phased 5 { testing := some (0, 0), stages := [(0, 1)] }, 0, 0, by decide⟩⟩

theorem witness_TackRoomAndTapCommandsComplete :
    (∃ (v : W32) (d : Dev), d.reaches (r0 .TACK_CTRL).addr = true ∧ Fld.TACK_CTRL_ZEROISE.get v = 1 ∧ Fld.TACK_CTRL_SIGN_GO.get v = 0 ∧
      Fld.TACK_CTRL_DOMAIN.get v < 2) ∧
    (∃ (v : W32) (d : Dev), d.reaches (r0 .TACK_CTRL).addr = true ∧ Fld.TACK_CTRL_SIGN_GO.get v = 1 ∧ Fld.TACK_CTRL_ZEROISE.get v = 0 ∧
      Fld.TACK_CTRL_DOMAIN.get v < 2 ∧ d.flag (r0 .TACK_SIGN_STATUS) Fld.TACK_SIGN_STATUS_BUSY = false) ∧
    (∃ (d : Dev),
      let st := r0 .TACK_SIGN_STATUS
      d.flag st Fld.TACK_SIGN_STATUS_BUSY = true) :=
  ⟨⟨1, up, by decide⟩,
    ⟨2, up, by decide⟩,
    ⟨up.setF (r0 .TACK_SIGN_STATUS) Fld.TACK_SIGN_STATUS_BUSY 1, by decide⟩⟩

theorem witness_RingmasterPairEventsComplete :
    (∃ (d : Dev), d.hasMaster = true ∧ d.inStep = true) ∧
    (∃ (d : Dev), d.reaches (r0 .RM_KICK).addr = true) ∧
    (∃ (d : Dev),
      let limit := d.getF (r0 .RM_TIMING) Fld.RM_TIMING_WD_TIMEOUT * 1000
      d.hasMaster = true ∧ d.rm.graceFrom.isNone = true ∧ d.rm.kicked + limit ≤ d.beat) ∧
    (∃ (d : Dev) (g : _), d.rm.graceFrom = some g ∧ d.hasMaster = true ∧ g + d.getF (r0 .RM_TIMING) Fld.RM_TIMING_WD_GRACE * 1000 ≤ d.beat) ∧
    (∃ (d : Dev), d.rmPaused = false ∧ d.hasMaster = true ∧ d.updating = false ∧ d.rm.swap.isNone = true ∧ d.rmState (otherRm d.active) =
      2) ∧
    (∃ (d : Dev), d.rmPaused = true) ∧
    (∃ (d : Dev), d.hasMaster = true ∧ d.rm.swap.isNone = true ∧ d.swapDue = true) ∧
    (∃ (d : Dev), d.reaches (r0 .RM_CTRL).addr = true) ∧
    (∃ (d : Dev), d.reaches (r0 .RM_SWAP_CHECK).addr = true) ∧
    (∃ (d : Dev) (w : _), d.rm.swap = some w ∧ w.beat + 1001 ≤ d.beat) ∧
    (∃ (d : Dev) (t : _), d.rm.returnAt = some t ∧ d.hasMaster = true ∧ d.rm.swap.isNone = true ∧ d.flag (r0 .RM_CTRL)
      Fld.RM_CTRL_SWITCHBACK = true ∧ t ≤ d.beat) ∧
    (∃ (v : W32) (d : Dev), d.reaches (r0 .RM_UPDATE).addr = true ∧ Fld.RM_UPDATE_GO.get v = 1 ∧ Fld.RM_UPDATE_ABORT.get v = 0 ∧
      d.updating = false) ∧
    (∃ (v : W32) (d : Dev), d.reaches (r0 .RM_UPDATE).addr = true ∧ Fld.RM_UPDATE_GO.get v = 0 ∧ Fld.RM_UPDATE_ABORT.get v = 1) ∧
    (∃ (d : Dev), d.hasMaster = true ∧ d.updateStep = 3) ∧
    (∃ (d : Dev), d.hasMaster = true ∧ d.updateStep = 4 ∧ d.beat % 2 ^ 20 = 0 ∧ d.rm.goAt + 2 ^ 20 ≤ d.beat) ∧
    (∃ (d : Dev),
      let limit := d.getF (r0 .RM_CONFIRM) Fld.RM_CONFIRM_UPDATE_CONFIRM * 1000000
      d.hasMaster = true ∧ d.updateStep = 6 ∧ d.rm.goAt + limit ≤ d.beat) ∧
    (∃ (d : Dev), d.rmState 1 = 3 ∧ d.rmState 2 = 3 ∧ d.rmF Fld.RM_STATUS_NO_MASTER = 0) ∧
    (∃ (d : Dev) (t : _), d.rm.noMasterAt = some t ∧ d.flag (r0 .RM_STATUS) Fld.RM_STATUS_NO_MASTER = true ∧ t + 1000000 ≤ d.beat) :=
  ⟨⟨(up.setF (r0 .RM_STATUS) Fld.RM_STATUS_IN_STEP 1), by decide⟩,
    ⟨up, by decide⟩,
    ⟨up, by decide⟩,
    ⟨{ up with rm := { graceFrom := some 0 } }, 0, by decide⟩,
    ⟨(up.setF (r0 .RM_STATUS) Fld.RM_STATUS_B_STATE 2), by decide⟩,
    ⟨(up.setF (r0 .RM_STATUS) Fld.RM_STATUS_B_STATE 1), by decide⟩,
    ⟨up.setF (r0 .RM_CTRL) Fld.RM_CTRL_SWAP_NOW 1, by decide⟩,
    ⟨up, by decide⟩,
    ⟨up, by decide⟩,
    ⟨{ up with rm := { swap := some { beat := 0, former := 1, update := false } } }, { beat := 0, former := 1, update := false }, by decide⟩,
    ⟨{ up.setF (r0 .RM_CTRL) Fld.RM_CTRL_SWITCHBACK 1 with rm := { returnAt := some 0 } }, 0, by decide⟩,
    ⟨1, up, by decide⟩,
    ⟨2, up, by decide⟩,
    ⟨up.setF (r0 .RM_UPDATE) Fld.RM_UPDATE_STEP 3, by decide⟩,
    ⟨up.setF (r0 .RM_UPDATE) Fld.RM_UPDATE_STEP 4, by decide⟩,
    ⟨up.setF (r0 .RM_UPDATE) Fld.RM_UPDATE_STEP 6, by decide⟩,
    ⟨(((up.setF (r0 .RM_STATUS) Fld.RM_STATUS_NO_MASTER 0).setF (r0 .RM_STATUS) Fld.RM_STATUS_A_STATE 3).setF (r0 .RM_STATUS) Fld.RM_STATUS_B_STATE 3),
      by decide⟩,
    ⟨{ (up.setF (r0 .RM_STATUS) Fld.RM_STATUS_NO_MASTER 1) with rm := { noMasterAt := some 0 } }, 0, by decide⟩⟩

theorem witness_FarrierAndReentryComplete :
    (∃ (r : Nat) (failed : List Nat) (d : Dev), (decide (r < 64) && failed.all fun x => decide (x < 768) && regionOf (r / 8) x == r) =
      true ∧ d.flag (r0 .FAR_STATUS) Fld.FAR_STATUS_TEST_BUSY = false ∧ d.farLast + d.getF (r0 .FAR_PERIOD) Fld.FAR_PERIOD_PERIOD * 2 ^ 20
      ≤ d.beat ∧ d.flag (r0 .FAR_CTRL) Fld.FAR_CTRL_INSVC_EN = true ∧ r = d.farTests % 64) ∧
    (∃ (r : Nat) (failed : List Nat) (d : Dev), (decide (r < 64) && failed.all fun x => decide (x < 768) && regionOf (r / 8) x == r) =
      true ∧ d.flag (r0 .FAR_STATUS) Fld.FAR_STATUS_TEST_BUSY = true ∧ d.getF (r0 .FAR_STATUS) Fld.FAR_STATUS_REGION = r) ∧
    (∃ (b : Nat) (x : Nat) (d : Dev) (c : _), okSite b x = true ∧ (d.fwdSince.get (fun _ => none) (b * 768 + x)) = some c ∧ d.hasMaster =
      true ∧ c + 10000 ≤ d.beat) ∧
    (∃ (b : Nat) (half : Nat) (d : Dev) (a : _), b < 8 ∧ half < 2 ∧
      let h := 2 * b + half
      d.act = some a ∧ d.hasMaster = true ∧ a.running = true ∧ d.replaceDue.get (fun _ => false) h = true) ∧
    (∃ (r : Nat) (d : Dev), r < 45 ∧ d.hasMaster = true ∧ d.railWorn r = true) ∧
    (∃ (b : Nat) (d : Dev), b < 8 ∧
      let st := r0 .PWR_STATUS
      let may := d.hasMaster && !d.flag st Fld.PWR_STATUS_PKG_TRIP && !bitOf d.barred b
      may = true ∧ bitOf (d.getF st Fld.PWR_STATUS_TRIPPED) b = true ∧ d.barnCool b = true ∧ 2 ≤ d.stage b) :=
  ⟨⟨0, [], { up.setF (r0 .FAR_CTRL) Fld.FAR_CTRL_INSVC_EN 1 with farTests := 64, beat := 2 ^ 50 }, by decide⟩,
    ⟨63, [], (up.setF (r0 .FAR_STATUS) Fld.FAR_STATUS_TEST_BUSY 1).setF (r0 .FAR_STATUS) Fld.FAR_STATUS_REGION 63, by decide⟩,
    ⟨0, 0, { up with fwdSince := [(0, some 0)] }, 0, by decide⟩,
    ⟨0, 0, { up with act := some (anAct 1 0), replaceDue := [(0, true)] }, anAct 1 0, by decide⟩,
    ⟨0, { up with pwr := { railBeats := [(0, List.replicate 16 1048576000)] } }, by decide⟩,
    ⟨0, { up.setF (r0 .PWR_STATUS) Fld.PWR_STATUS_TRIPPED 1 with start := { out := true, stages := [(0, 3)] } }, by decide +kernel⟩⟩

theorem witness_ObservationCommandsComplete :
    (∃ (b : Nat) (x : Nat) (d : Dev), okSite b x = true ∧ d.traceMode b x ≠ 0 ∧ d.siteRuns b x = true) ∧
    (∃ (b : Nat) (x : Nat) (d : Dev), okSite b x = true ∧ d.reaches (r2 .TRC_TILE_CTRL b x).addr = true) ∧
    (∃ (b : Nat) (x : Nat) (d : Dev), okSite b x = true ∧
      let p := d.chunkPacket b x
      d.chunkDue b x = true ∧ d.hasCredits b x p = true) ∧
    (∃ (d : Dev), d.reaches (r0 .BRK_CLAIM).addr = true) ∧
    (∃ (d : Dev), d.reaches (r0 .BRK_COMPLETE).addr = true) ∧
    (∃ (w : Nat) (d : Dev), w < 16 ∧ d.reaches (r1 .BRK_SET w).addr = true) ∧
    (∃ (w : Nat) (d : Dev), w < 16 ∧ d.reaches (r1 .BRK_PENDING w).addr = true) ∧
    (∃ (d : Dev), d.flag (r0 .TRC_HANG_CTRL) Fld.TRC_HANG_CTRL_EN = true ∧ d.hangLast + 65536 ≤ d.beat) ∧
    (∃ (d : Dev), d.hasMaster = true) :=
  ⟨⟨0, 0, up.setF (r2 .TRC_TILE_CTRL 0 0) Fld.TRC_TILE_CTRL_MODE 1, by decide⟩,
    ⟨0, 0, up, by decide⟩,
    ⟨0, 0, (tileUp fun t => { t with trace := [0] }).setF (r2 .TRC_TILE_CTRL 0 0) Fld.TRC_TILE_CTRL_MODE 1, by decide⟩,
    ⟨up, by decide⟩,
    ⟨up, by decide⟩,
    ⟨0, up, by decide⟩,
    ⟨0, up, by decide⟩,
    ⟨up, by decide⟩,
    ⟨up, by decide⟩⟩

/-! ## Small tests: the expected values are the spec's own worked examples and tables -/

/-- What a command leaves of the device, where it answers a next state. -/
def after (c : Instr) (d : Dev) : Dev := match exec c ⟨d, []⟩ with | .next s => s.dev | _ => {}

/-- Worked example of two addresses (spec/01): the store to the loft slice of T617 in B5 of M3. -/
theorem test_tile_address : mkTileAddr 3 5 617 0x1042A40 = 0x032800 * 2 ^ 40 + 0x04D3042A40 ∧ addrTile 0x03280004D3042A40 = 617 := by decide

/-- Worked examples of the striped window (spec/01, spec/06): with twenty stacks, and after H11 has retired. -/
theorem test_window_address : (window 0xFFFFF).windowMap 0x123456789 = (6, 0xE904789) := by decide
theorem test_window_after_retirement : (window 0xFF7FF).windowMap 0x123456789 = (18, 0xF547789) := by decide

/-- Worked example of a tile CSR address (spec/01). -/
theorem test_tile_window : siteOfAddr 0x161D500000 = some (6, 0x1D5) := by decide

/-- Table 02-1: P0 is 1,800 MHz at 825 mV, P7 800 MHz at 620 mV. -/
theorem test_reset_points :
    ({} : Dev).getF (r2 .OPP_ENTRY 0 0) Fld.OPP_ENTRY_VOLT_MV = 825 ∧ ({} : Dev).getF (r2 .OPP_ENTRY 15 7) Fld.OPP_ENTRY_FREQ_MHZ = 800 := by
  decide

/-- Worked example P4 to P2 on half 7 (spec/02): the commit at beat 1,000,000 is accepted; at 1,001,000 VCORE starts to rise. -/
def atP4 : Dev := { (up.setF (r1 .HALF_OPP 7) Fld.HALF_OPP_CUR 4).setPair (r1 .HALF_CHANGE_BEAT_LO 7) (r1 .HALF_CHANGE_BEAT_HI 7) 1004000 with
  beat := 1000000 }
def toP2 : W32 := Fld.HALF_OPP_COMMIT.put (Fld.HALF_OPP_NEXT.put 0 2) 1
theorem test_commit_accepted : ((after (.halfCommit 7 toP2) atP4).half 7).change = some { next := 2, old := 4, c := 1004000, raise := true } := by
  decide
theorem test_commit_too_near : ((after (.halfCommit 7 toP2) { atP4 with beat := 1001001 }).getF (r0 .CLK_ERR) Fld.CLK_ERR_BOUNDS) = 1 := by decide

/-- Worked example of a token ring of eight records (spec/10). -/
theorem test_ring_room : ringFree 40 35 8 = some 3 ∧ ringFree 40 38 8 = some 6 := by decide

/-- Worked example of stochastic rounding to BF16 (spec/04): x = 0x3F806000 goes up from r = 40,960 on, and to nearest goes down. -/
theorem test_stochastic_bf16 :
    bf16.encode true (.stochastic 40960) (fp32.decode 0x3F806000) = 0x3F81 ∧
    bf16.encode true (.stochastic 40959) (fp32.decode 0x3F806000) = 0x3F80 ∧ bf16.encode true .nearest (fp32.decode 0x3F806000) = 0x3F80 := by
  decide

/-- Worked example of an MSF4 block (spec/04): 6.0 in sub-block 0; 0.4, 0.3 and 0.1 in sub-block 1, here as FP32. -/
def msfRow : List Machine.Num := (List.range 128).map fun i => fp32.decode
  (if i = 0 then 0x40C00000 else if i = 16 then 0x3ECCCCCD else if i = 17 then 0x3E99999A else if i = 18 then 0x3DCCCCCD else 0)
theorem test_msf4_block :
    let b := encodeBlock 14 (fun _ => .nearest) 0 msfRow
    b.1 = 0x7F ∧ b.2.1.take 2 = [0, 4] ∧ (b.2.2.drop 16).take 3 = [7, 6, 3] := by decide +kernel

/-- Table 04-3: 448 is the largest E4M3 value, 57,344 the largest E5M2 value, 6 the largest E2M1 value. -/
theorem test_largest_codes :
    (e4m3.decode 0x7E = .fin false 14 5 ∧ e5m2.decode 0x7B = .fin false 7 13) ∧ e2m1.decode 7 = .fin false 3 1 := by decide

/-- R85: a division by zero; R79: a write of g0 has no effect; addition wraps. -/
theorem test_divide_by_zero : ((after (.alu 0 0 false .remu false 3 1 0) (holding ⟨0, some 3, some 1,
    .reg (some 0)⟩ (regUp 1 7))).tile 0 0).reg 3 = 7 := by decide
theorem test_g0_stays_zero : ((after (.aluImm 0 0 false .add false 0 0 5) (running ⟨1, some 0, some 0, .imm14 5⟩)).tile 0 0).reg 0 = 0 := by decide
theorem test_add_wraps : ((after (.aluImm 0 0 false .add false 1 1 1)
    (holding ⟨1, some 1, some 1, .imm14 1⟩ (regUp 1 0xFFFFFFFFFFFFFFFF))).tile 0 0).reg 1 = 0 := by decide

/-- R81: a store of four bytes puts the low one first; a load of one byte extends its sign. -/
theorem test_store_order : (after (.store 0 0 .b4 1 0 0x100)
    (holding ⟨3, some 1, some 0, .imm14 0x100⟩ (regUp 1 0x11223344))).byte (localBase 0 0 + 0x100) = 0x44 := by decide
theorem test_load_signed :
    ((after (.load 0 0 .b1 true 2 0 0x100) ((running ⟨2, some 2, some 0,
      .imm14 0x100⟩).write (localBase 0 0 + 0x100) [0x80])).tile 0 0).reg 2 = 0xFFFFFFFFFFFFFF80 := by decide

/-- R126: an exception in an exception halts the core. -/
theorem test_double_fault : ((after (.trap 0 0 false) (holding ⟨8, none, none,
    .reg none⟩ (tileUp fun t => { t with inExc := true }))).tile 0 0).haltCause = 3 := by decide

/-- R151: 1.0 + 2.0 in FP32 from 0x40 and 0x80 to 0xC0 of tile SRAM. -/
def twoVectors : Dev := ((queued 1 (BitVec.ofNat 128 (1 + 1 * 2 ^ 20 + 0x40 * 2 ^ 40 + 0x80 * 2 ^ 61 + 0xC0 * 2 ^ 82))).write
  (localBase 0 0 + 0x40) [0, 0, 0x80, 0x3F]).write (localBase 0 0 + 0x80) [0, 0, 0, 0x40]
theorem test_vec_add : (after (.vecAdd 0 0) twoVectors).readNat (localBase 0 0 + 0xC0) 4 = 0x40400000 := by decide

/-- R456: with sources 1 and 321 pending, a claim takes 321. -/
theorem test_claim_highest : (after (.brkClaim 0) (barking [1, 321])).getF (r0 .BRK_CLAIMED) Fld.BRK_CLAIMED_SOURCE = 321 := by decide

/-- R7: the word that a register address names; an unmapped address reads zero and is recorded (R29). -/
theorem test_unmapped_recorded : (after (.loRead 0x50000000) up).getF (r0 .RM_DECODE_CNT) Fld.RM_DECODE_CNT_COUNT = 1 := by decide

/-- R43: the counter wraps at 2^64. -/
theorem test_beat_wraps : ({ up with beat := 2 ^ 64 - 1 } : Dev).passBeats 1 = { up with beat := 0 } := by decide

/-- R323: at the last position a Y32 sequence has 65,504 candidates, of which tile 31 scores 94 and tile 32 scores 93. -/
theorem test_last_position : candidateCount 4194303 32 = 65504 ∧ tileNblk 65504 31 = 94 ∧ tileNblk 65504 32 = 93 := by decide

/-- R322: of the scores 1.0, 2.0 and 2.0 two are selected, the lower block first. -/
theorem test_select_ties : selectBlocks 2 1 255 (fun b => if b = 0 then 0x3F80 else 0x4000) = [1, 2] := by decide

end Sys2Proof.Tests
end

section
/-! SUPPORT. What the register tables give every register: at most three dimensions, and fields that lie within the word and share no
bit; and from it, what a field of a word holds once several fields are put. -/

namespace Sys2Proof.Machine

/-! ## The tables -/

/-- No register has more dimensions than a register word has indices. -/
theorem RegName.dims_length_le (n : RegName) : n.dims.length ≤ 3 := by
  cases n <;> decide

/-- Fields of one word: each within the 32 bits, no two with a bit in common. -/
structure LaidOut (fs : List Field) : Prop where
  fit : ∀ f ∈ fs, f.fits
  apart : fs.Pairwise Field.apart

theorem LaidOut.tail {f : Field} {fs : List Field} (h : LaidOut (f :: fs)) : LaidOut fs :=
  ⟨fun g hg => h.fit g (List.mem_cons_of_mem f hg), h.apart.of_cons⟩

/-- The fields of every register table are laid out apart. -/
theorem RegName.fields_laidOut (n : RegName) : LaidOut n.fields := by
  constructor
  · cases n <;> decide
  · cases n <;> decide

/-! ## Several fields put into a word -/

/-- The word after each field that p picks is put at its value: what a write, a read and a read-and-clear each do with the fields of a
word (`writeWord_eq_putFields`, `readWord_eq_putFields`, `clearWord_eq_putFields`). -/
def putFields (p : Field → Bool) (v : Field → Nat) (fs : List Field) (w : W32) : W32 :=
  fs.foldl (fun w f => if p f then f.put w (v f) else w) w

theorem putFields_cons (p : Field → Bool) (v : Field → Nat) (f : Field) (fs : List Field) (w : W32) :
    putFields p v (f :: fs) w = putFields p v fs (if p f then f.put w (v f) else w) := rfl

theorem writeWord_eq_putFields (fs : List Field) (old new : W32) :
    writeWord fs old new = putFields (fun _ => true) (fun f => f.written old new) fs old := rfl

theorem readWord_eq_putFields (fs : List Field) (w : W32) :
    readWord fs w = putFields (fun f => f.access != .wo) (fun f => f.get w) fs 0 := by
  unfold readWord putFields
  congr 1
  funext acc ⟨_, _, access, _⟩
  cases access <;> rfl

theorem clearWord_eq_putFields (fs : List Field) (w adds : W32) :
    clearWord fs w adds = putFields (fun f => f.access == .rc) (fun f => f.get adds) fs w := by
  unfold clearWord putFields
  congr 1
  funext acc ⟨_, _, access, _⟩
  cases access <;> rfl

/-- A field apart from all those put reads as before. -/
theorem get_putFields_other {f : Field} {fs : List Field} (p : Field → Bool) (v : Field → Nat) (w : W32)
    (hfit : ∀ g ∈ fs, g.fits) (hap : ∀ g ∈ fs, g.apart f) : f.get (putFields p v fs w) = f.get w := by
  induction fs generalizing w with
  | nil => rfl
  | cons g gs ih =>
    obtain ⟨hg, hgs⟩ := List.forall_mem_cons.mp hfit
    obtain ⟨hgf, hgsf⟩ := List.forall_mem_cons.mp hap
    rw [putFields_cons, ih _ hgs hgsf]
    split
    · exact Field.get_put_other hg hgf w (v g)
    · rfl

/-- Of fields laid out apart, one that is put reads as its value modulo its width, and one that is not reads as before. -/
theorem get_putFields {f : Field} {fs : List Field} (p : Field → Bool) (v : Field → Nat) (w : W32)
    (h : LaidOut fs) (hf : f ∈ fs) :
    f.get (putFields p v fs w) = if p f then v f % 2 ^ f.width else f.get w := by
  induction fs generalizing w with
  | nil => exact absurd hf List.not_mem_nil
  | cons g gs ih =>
    obtain ⟨hgap, -⟩ := List.pairwise_cons.mp h.apart
    rw [putFields_cons]
    rcases List.mem_cons.mp hf with rfl | hmem
    · rw [get_putFields_other p v _ h.tail.fit fun g hg => (hgap g hg).symm]
      split
      · exact Field.get_put_same (h.fit f hf) w (v f)
      · rfl
    · rw [ih _ h.tail hmem]
      congr 1
      split
      · exact Field.get_put_other (h.fit g List.mem_cons_self) (hgap f hmem) w (v g)
      · rfl

theorem Field.get_lt (f : Field) (w : W32) : f.get w < 2 ^ f.width := Nat.mod_lt _ (Nat.two_pow_pos _)

/-! ## Writes by the access codes (R8, R10) -/

/-- What a write leaves in a field fits the field. -/
theorem Field.written_lt (f : Field) (old new : W32) : f.written old new < 2 ^ f.width := by
  unfold Field.written
  split
  · exact f.get_lt new
  · exact Nat.lt_of_le_of_lt Nat.and_le_left (f.get_lt old)
  · exact Nat.or_lt_two_pow (f.get_lt old) (f.get_lt new)
  · exact f.get_lt old

theorem RegName.get_writeWord {n : RegName} {f : Field} (hf : f ∈ n.fields) (old new : W32) :
    f.get (writeWord n.fields old new) = f.written old new := by
  rw [writeWord_eq_putFields, get_putFields _ _ _ n.fields_laidOut hf, if_pos rfl, Nat.mod_eq_of_lt (f.written_lt old new)]

/-- Bit n of a word, as a field of one bit. -/
def Field.bit (n : Nat) : Field := ⟨n, 1, .rw, 0⟩

theorem Field.getLsbD_eq_get_bit (n : Nat) (w : W32) : w.getLsbD n = decide ((Field.bit n).get w = 1) :=
  Nat.testBit_eq_decide_div_mod_eq

/-- A bit of no field keeps its value in a write (R8). -/
theorem RegName.getLsbD_writeWord {m : RegName} {n : Nat} (h : ∀ f ∈ m.fields, n < f.lo ∨ f.lo + f.width ≤ n) (old new : W32) :
    (writeWord m.fields old new).getLsbD n = old.getLsbD n := by
  have hap : ∀ f ∈ m.fields, f.apart (Field.bit n) := fun f hf => (h f hf).symm.imp_right fun (hlt : n < f.lo) => hlt
  rw [Field.getLsbD_eq_get_bit, Field.getLsbD_eq_get_bit, writeWord_eq_putFields, get_putFields_other _ _ _ m.fields_laidOut.fit hap]

/-- A field after an accepted write holds what its access code says. -/
theorem Dev.getF_store (d : Dev) {r : Reg} {f : Field} (hf : f ∈ r.name.fields) (v : W32) :
    (d.store r v).getF r f = f.written (d.rd r) v := by
  unfold Dev.getF Dev.store
  rw [Dev.rd_wr_same, RegName.get_writeWord hf]

/-! ## Reads and read-and-clear (Table 00-4, R12) -/

/-- A read shows every field but a write-only one. -/
theorem RegName.get_readWord {n : RegName} {f : Field} (hf : f ∈ n.fields) (hwo : f.access ≠ .wo) (w : W32) :
    f.get (readWord n.fields w) = f.get w := by
  rw [readWord_eq_putFields, get_putFields _ _ _ n.fields_laidOut hf, if_pos (bne_iff_ne.mpr hwo), Nat.mod_eq_of_lt (f.get_lt w)]

/-- A read-and-clear field is left at the additions of the cycle. -/
theorem RegName.get_clearWord {n : RegName} {f : Field} (hf : f ∈ n.fields) (hrc : f.access = .rc) (w adds : W32) :
    f.get (clearWord n.fields w adds) = f.get adds := by
  rw [clearWord_eq_putFields, get_putFields _ _ _ n.fields_laidOut hf, if_pos (beq_iff_eq.mpr hrc), Nat.mod_eq_of_lt (f.get_lt adds)]

theorem hasRc_of_mem {f : Field} {fs : List Field} (hf : f ∈ fs) (hrc : f.access = .rc) : hasRc fs = true :=
  List.any_eq_true.mpr ⟨f, hf, beq_iff_eq.mpr hrc⟩

/-- A read of a register outside any latch pair clears its read-and-clear fields. -/
theorem Dev.regReadDone_rc {d : Dev} {r : Reg} (adds : W32) (hl : latchedBy r.name = []) (hs : r.name ≠ .SLOT_STATUS)
    (hrc : hasRc r.name.fields = true) : d.regReadDone r adds = d.wr r (clearWord r.name.fields (d.rd r) adds) := by
  simp [Dev.regReadDone, hl, hs, hrc]

/-- A read of SLOT_STATUS sets its maximum to the slots in use. -/
theorem Dev.regReadDone_SLOT_STATUS (d : Dev) (b x : Nat) (adds : W32) :
    d.regReadDone (r2 .SLOT_STATUS b x) adds =
      d.setF (r2 .SLOT_STATUS b x) Fld.SLOT_STATUS_HIGH (d.tile b x).slotCount := rfl

/-- A read of the low half of a pair latches the high half as it is then (R9). -/
theorem Dev.regReadDone_latch {d : Dev} {r : Reg} {h : RegName} (adds : W32) (hl : latchedBy r.name = [h]) :
    (d.regReadDone r adds).latch =
      d.latch.set (fun _ => 0) { r with name := h }.addr (readWord h.fields (d.regWord { r with name := h })) := by
  simp only [Dev.regReadDone, hl, List.foldl_cons, List.foldl_nil]
  split
  · rfl
  · split <;> rfl

theorem Dev.regRead_latched {d : Dev} {r : Reg} (h : readsLatch r.name = true) : d.regRead r = d.latch.get (fun _ => 0) r.addr :=
  if_pos h

theorem Dev.regRead_direct {d : Dev} {r : Reg} (h : readsLatch r.name = false) :
    d.regRead r = readWord r.name.fields (d.regWord r) := by
  simp [Dev.regRead, h]

/-! ## Addresses (R27, R28) -/

/-- The indices that an offset splits into are one for each dimension, and give the offset back by the strides. -/
theorem splitDims_spec {dims : List (Nat × Nat)} {o : Nat} {l : List Nat} (h : splitDims dims o = some l) :
    l.length = dims.length ∧ o = (List.zipWith (fun i c => i * c.2) l dims).sum := by
  induction dims generalizing o l with
  | nil =>
    obtain ⟨ho, hl⟩ := Option.ite_none_right_eq_some.mp h
    obtain rfl := Option.some.inj hl
    exact ⟨rfl, ho⟩
  | cons c t ih =>
    obtain ⟨-, hmap⟩ := Option.ite_none_right_eq_some.mp h
    obtain ⟨l', hl', rfl⟩ := Option.map_eq_some_iff.mp hmap
    obtain ⟨hlen, hsum⟩ := ih hl'
    refine ⟨congrArg Nat.succ hlen, ?_⟩
    rw [List.zipWith_cons_cons, List.sum_cons, ← hsum]
    exact (Nat.div_add_mod' o c.2).symm

/-- Up to three indices, each times the stride of its dimension. -/
theorem sum_indices_eq {l : List Nat} {dims : List (Nat × Nat)} (hlen : l.length = dims.length) (h3 : dims.length ≤ 3) :
    (List.zipWith (fun i c => i * c.2) l dims).sum =
      l[0]?.getD 0 * (dims[0]?.getD (0, 0)).2 + l[1]?.getD 0 * (dims[1]?.getD (0, 0)).2 + l[2]?.getD 0 * (dims[2]?.getD (0, 0)).2 := by
  match l, dims, hlen, h3 with
  | [], [], _, _ => rfl
  | [_], [_], _, _ => simp
  | [_, _], [_, _], _, _ => simp
  | [_, _, _], [_, _, _], _, _ => simp [Nat.add_assoc]
  | _ :: _ :: _ :: _ :: _, _, hlen, h3 =>
    rw [← hlen] at h3
    simp only [List.length_cons] at h3
    omega

/-- A register that a name locates at an address lies there. -/
theorem RegName.locate_addr {n : RegName} {a : Nat} {r : Reg} (h : n.locate a = some r) : r.addr = a := by
  unfold RegName.locate at h
  split at h
  · cases h
  · next hbase =>
    split at h
    · next l hl =>
      obtain rfl := Option.some.inj h
      obtain ⟨hlen, hoff⟩ := splitDims_spec hl
      rw [sum_indices_eq hlen n.dims_length_le] at hoff
      simp only [Reg.addr, RegName.stride]
      omega
    · cases h

end Sys2Proof.Machine
end

section
/-! SUPPORT. How a command completes: the dispatch to its meaning, and the device that the meaning gives. -/

namespace Sys2Proof.Machine

/-- A command completes where its meaning is an effect on units that the device has. -/
theorem completes_of_exec {c : Sys2Proof.Instr} {d d' : Dev} {ok : Bool} {f : Dev → Dev}
    (hexec : ∀ s, exec c s = onUnit ok s f) (hok : ok = true) (hd : f d = d') : Completes c d d' := by
  intro q
  rw [hexec, onUnit_true _ f hok, hd]

theorem exec_registerWrite (a : Nat) (v sets : W32) (s : State) :
    exec (.registerWrite a v sets) s = onUnit (okAddr a) s fun d => d.busWriteWith a v sets := rfl

theorem exec_loRead (a : Nat) (s : State) : exec (.loRead a) s = onUnit (okAddr a) s fun d => d.busReadWith a 0 := rfl

theorem exec_rcRead (a : Nat) (adds : W32) (s : State) :
    exec (.rcRead a adds) s = onUnit (okAddr a) s fun d => d.busReadWith a adds := rfl

theorem exec_slotEntryRead (b x i : Nat) (s : State) :
    exec (.slotEntryRead b x i) s = onUnit (okSite b x && decide (i < 64)) s fun d => d.busGet (r3 .SLOT_ENTRY0 b x i) := rfl

theorem exec_stoppedAccessResume (s : State) :
    exec .stoppedAccessResume s = onUnit true s fun d => Dev.resumeHeld d.busHeld d := rfl

section RegisterAccess
variable {a : Nat} {r : Reg} {d : Dev} (ha : okAddr a = true) (hb : d.reaches a = true) (hreg : isRegister a = true)
  (hap : d.aperture a = none) (hr : Reg.ofAddr a = some r)
include ha hb hreg hap hr

theorem registerWrite_completes (v sets : W32) : Completes (.registerWrite a v sets) d (d.writeReg r v sets) :=
  completes_of_exec (exec_registerWrite a v sets) ha (Dev.busWriteWith_register v sets hb hreg hap hr)

theorem loRead_completes : Completes (.loRead a) d { d.regReadDone r 0 with busData := d.regRead r } :=
  completes_of_exec (exec_loRead a) ha (Dev.busReadWith_register 0 hb hreg hap hr)

theorem rcRead_completes (adds : W32) : Completes (.rcRead a adds) d { d.regReadDone r adds with busData := d.regRead r } :=
  completes_of_exec (exec_rcRead a adds) ha (Dev.busReadWith_register adds hb hreg hap hr)

end RegisterAccess

theorem slotEntryRead_completes {b x i : Nat} {d : Dev} (hsite : okSite b x = true) (hi : i < 64)
    (hb : d.reaches (r3 .SLOT_ENTRY0 b x i).addr = true) :
    Completes (.slotEntryRead b x i) d
      { d.regReadDone (r3 .SLOT_ENTRY0 b x i) 0 with busData := d.regRead (r3 .SLOT_ENTRY0 b x i) } :=
  completes_of_exec (exec_slotEntryRead b x i) (Bool.and_eq_true_iff.mpr ⟨hsite, decide_eq_true hi⟩) (Dev.busGet_reaches hb)

theorem stoppedAccessResume_completes (d : Dev) : Completes .stoppedAccessResume d (Dev.resumeHeld d.busHeld d) :=
  completes_of_exec exec_stoppedAccessResume rfl rfl

end Sys2Proof.Machine
end

section
/-! The scope's statements (spec/00_scope.md) settled. -/

namespace Sys2Proof.Proofs

open Sys2Proof Sys2Proof.Machine

/-- Settles O7: whichever candidate locates the register, the indices it splits the offset into give the offset back by the strides. -/
theorem addressNamesItsRegister : Obligations.AddressNamesItsRegister := by
  intro a r h
  obtain ⟨n, -, hn⟩ := List.exists_of_findSome?_eq_some h
  exact RegName.locate_addr hn

/-- Settles O8, from the layout of the register tables: fields share no bit, so that each takes its own code's value alone. -/
theorem acceptedWriteFollowsAccessCodes : Obligations.AcceptedWriteFollowsAccessCodes := by
  refine ⟨fun d r v f hf => ?_, fun d r v n hn => ?_, fun d r q v hne => ?_, fun d r v => rfl⟩
  · exact d.getF_store hf v
  · rw [Dev.store, Dev.rd_wr_same, RegName.getLsbD_writeWord hn]
  · exact Dev.rd_wr_other d _ hne

/-- Settles O12: the read of the low half sets the latch of the high half's address, and the read of the high half shows that latch. -/
theorem lowReadLatchesHigh : Obligations.LowReadLatchesHigh := by
  refine ⟨fun r h d hr ha hreg hb hap hl hd => ?_, fun r d hr ha hreg hb hap hlatch => ?_⟩
  · refine ⟨_, loRead_completes ha hb hreg hap hr, Dev.regRead_direct hd, ?_⟩
    rw [Dev.regReadDone_latch 0 hl]
    exact Sparse.get_set_same (fun _ => 0) d.latch _ _
  · exact ⟨_, loRead_completes ha hb hreg hap hr, Dev.regRead_latched hlatch⟩

/-- Settles O13: the word returned is the counter's own before the access, and the clear puts the additions in its place. -/
theorem readAndClearKeepsAdditions : Obligations.ReadAndClearKeepsAdditions := by
  refine ⟨fun r f adds d hr ha hreg hb hap hl hd hs hf hrc => ?_, fun b x d _ _ => ?_⟩
  · refine ⟨_, rcRead_completes ha hb hreg hap hr adds, ?_, ?_⟩
    · exact (congrArg f.get (Dev.regRead_direct hd)).trans (RegName.get_readWord hf (by rw [hrc]; decide) _)
    · calc f.get ((d.regReadDone r adds).rd r)
          = f.get (clearWord r.name.fields (d.rd r) adds) := by
            rw [Dev.regReadDone_rc adds hl hs (hasRc_of_mem hf hrc), Dev.rd_wr_same]
        _ = f.get adds := RegName.get_clearWord hf hrc _ _
  · rw [Dev.regReadDone_SLOT_STATUS, Dev.getF_setF_same d _ (by decide)]

/-- Settles O30: each access reaches the register that its address names, and is carried out at once. -/
theorem busAccessesComplete : Obligations.BusAccessesComplete :=
  ⟨fun _ v sets _ _ ha hb hreg hap hr => registerWrite_completes ha hb hreg hap hr v sets,
    fun _ _ _ ha hb hreg hap hr => loRead_completes ha hb hreg hap hr,
    fun _ adds _ _ ha hb hreg hap hr => rcRead_completes ha hb hreg hap hr adds,
    fun _ _ _ _ hsite hi hb => slotEntryRead_completes hsite hi hb,
    stoppedAccessResume_completes⟩

end Sys2Proof.Proofs
end

section
/-! SUPPORT. The dispatch as a whole: every command is an effect on the device, guarded by the check that its operands name units that
the device has; and from it, what a step does with the queue. -/

namespace Sys2Proof.Machine

/-! ## Commands -/

/-- A control message of an optical link is an effect on the device where the link has the waveguide. -/
theorem ctlRow_eq_onUnit (ty wg dir : Nat) (m : W128) (f : Dev → Dev) :
    ∃ g, ∀ s, ctlRow ty wg dir m s f = onUnit (okWg wg dir) s g := ⟨_, fun _ => rfl⟩

/-- A message on a yard link is an effect on the device where it has the link. -/
theorem yardRow_eq_onUnit (ty l : Nat) (m : W128) : ∃ g, ∀ s, yardRow ty l m s = onUnit (decide (l < 32)) s g := ⟨_, fun _ => rfl⟩

/-- The check that each meaning makes is the one of the command's well-formedness, and its effect never looks at the queue. -/
theorem exec_eq_onUnit (c : Sys2Proof.Instr) : ∃ f : Dev → Dev, ∀ s, exec c s = onUnit c.wf s f := by
  unfold exec
  cases c with
  | ack | nack | credit | laneMap | laneMapAck | laneReq => exact ctlRow_eq_onUnit ..
  | yardAck | yardNack | yardCredit | chMap | chMapAck | chReq | ident | heartbeat | join | leave | drainReq | drained =>
    exact yardRow_eq_onUnit ..
  | _ => exact ⟨_, fun _ => rfl⟩

theorem completes_of_wf {c : Sys2Proof.Instr} (h : c.wf = true) (d : Dev) : ∃ d', Completes c d d' := by
  obtain ⟨f, hf⟩ := exec_eq_onUnit c
  exact ⟨f d, completes_of_exec hf h rfl⟩

theorem exec_of_not_wf {c : Sys2Proof.Instr} (h : c.wf = false) (s : State) : exec c s = .fault .noSuchUnit := by
  obtain ⟨f, hf⟩ := exec_eq_onUnit c
  rw [hf, onUnit_false _ f h]

/-! ## Steps and runs -/

/-- A step takes one command off a well-formed queue, and puts none into it. -/
theorem step_of_queueWf {s : State} (h : s.queueWf) : ∃ d', step s = .next ⟨d', s.pending.drop 1⟩ := by
  obtain ⟨d, q⟩ := s
  cases q with
  | nil => exact ⟨d.tick, step_nil d⟩
  | cons c rest =>
    obtain ⟨d', hd'⟩ := completes_of_wf (h c List.mem_cons_self) d
    exact ⟨d', (step_cons d c rest).trans (hd' rest)⟩

/-- What is left of a well-formed queue is well formed, on whatever device. -/
theorem State.queueWf_drop {s : State} (h : s.queueWf) (n : Nat) (d : Dev) : State.queueWf ⟨d, s.pending.drop n⟩ :=
  fun c hc => h c (List.mem_of_mem_drop hc)

theorem run_succ_of_step {s t : State} (h : step s = .next t) (n : Nat) :
    Host.Core.run Sys2Proof.core (n + 1) s = Host.Core.run Sys2Proof.core n t := by
  have hcore : Sys2Proof.core.step s = .next t := h
  simp only [Host.Core.run, hcore]

/-- n steps take n commands off a well-formed queue. -/
theorem run_of_queueWf (n : Nat) {s : State} (h : s.queueWf) :
    ∃ d', Host.Core.run Sys2Proof.core n s = .next ⟨d', s.pending.drop n⟩ := by
  induction n generalizing s with
  | zero => exact ⟨s.dev, rfl⟩
  | succ n ih =>
    obtain ⟨d₁, hstep⟩ := step_of_queueWf h
    obtain ⟨d', hrun⟩ := ih (State.queueWf_drop h 1 d₁)
    refine ⟨d', (run_succ_of_step hstep n).trans (hrun.trans ?_)⟩
    rw [List.drop_drop, Nat.add_comm 1 n]

end Sys2Proof.Machine
end

section
/-! SUPPORT. The Ringmaster's bus where it carries out no access to a register: the pending bits that a raise leaves, the record of an
unmapped access (R29), and the fence before a retired site (R30). -/

namespace Sys2Proof.Machine

/-! ## A raise (R455) -/

theorem bitOf_eq_testBit (w i : Nat) : bitOf w i = w.testBit i := by
  rw [Nat.testBit_eq_decide_div_mod_eq]; rfl

/-- The pending field is the whole word. -/
theorem BRK_PENDING_get (w : W32) : Fld.BRK_PENDING_PENDING.get w = w.toNat := by
  have h : Fld.BRK_PENDING_PENDING.get w = w.toNat / 2 ^ 0 % 2 ^ 32 := rfl
  rw [h, pow_zero, Nat.div_one, Nat.mod_eq_of_lt w.isLt]

/-- A raise writes two words of the Barker and no other. -/
theorem Dev.rd_raise_other (d : Dev) {n : Nat} {r : Reg} (hp : (r1 .BRK_PENDING (n / 32)).addr ≠ r.addr)
    (hr : (r1 .BRK_RAISED n).addr ≠ r.addr) : (d.raise n).rd r = d.rd r := by
  rw [Dev.raise_spec]
  split
  · exact (Dev.rd_wr_other _ _ hr).trans (Dev.rd_wr_other d _ hp)
  · rfl

/-- The word that holds an assigned source's pending bit, after its raise. -/
theorem Dev.rd_raise_pending (d : Dev) {n : Nat} (h1 : 1 ≤ n) (h2 : n ≤ 321) :
    ((d.raise n).rd (r1 .BRK_PENDING (n / 32))).toNat = (d.rd (r1 .BRK_PENDING (n / 32))).toNat ||| 2 ^ (n % 32) := by
  have hne : (r1 .BRK_RAISED n).addr ≠ (r1 .BRK_PENDING (n / 32)).addr := by
    have hraised : (r1 .BRK_RAISED n).addr = 0x102002000 + n * 4 := rfl
    have hpending : (r1 .BRK_PENDING (n / 32)).addr = 0x102001000 + n / 32 * 4 := rfl
    omega
  have hbit : 2 ^ (n % 32) < 2 ^ 32 := Nat.pow_lt_pow_right (by decide) (Nat.mod_lt n (by decide))
  have hor := Nat.or_lt_two_pow (d.rd (r1 .BRK_PENDING (n / 32))).isLt hbit
  rw [Dev.raise_spec, if_pos ⟨h1, h2⟩, ← BRK_PENDING_get, ← BRK_PENDING_get]
  calc Fld.BRK_PENDING_PENDING.get _
      = (d.setF (r1 .BRK_PENDING (n / 32)) Fld.BRK_PENDING_PENDING _).getF _ Fld.BRK_PENDING_PENDING :=
        congrArg _ (Dev.rd_wr_other _ _ hne)
    _ = _ := by
        rw [Dev.getF_setF_same d _ (by decide)]
        exact Nat.mod_eq_of_lt (by rw [Dev.getF, BRK_PENDING_get]; exact hor)

theorem Dev.pendingBit_raise_same (d : Dev) {n : Nat} (h1 : 1 ≤ n) (h2 : n ≤ 321) : (d.raise n).pendingBit n = true := by
  rw [Dev.pendingBit, Dev.rd_raise_pending d h1 h2, bitOf_eq_testBit, Nat.testBit_or, Nat.testBit_two_pow_self, Bool.or_true]

theorem Dev.raise_regs_only (d : Dev) (n : Nat) (m : Sparse W32) : { d.raise n with regs := m } = { d with regs := m } := by
  rw [Dev.raise_spec]
  split <;> rfl

/-! ## The record of an access under R29 -/

section DecodeError
variable (d : Dev) (a : Nat) (w : Bool)

theorem Dev.rd_decodeError_LO : (d.decodeError a w).rd (r0 .RM_DECODE_LO) = BitVec.ofNat 32 a := by
  rw [Dev.decodeError, Dev.rd_raise_other _ (by decide) (by decide), Dev.inc, Dev.addF, Dev.setF, Dev.rd_wr_other _ _ (by decide),
    Dev.rd_wr_other _ _ (by decide), Dev.rd_wr_same]

theorem Dev.rd_decodeError_HI : (d.decodeError a w).rd (r0 .RM_DECODE_HI) =
    Fld.RM_DECODE_HI_WRITE.put (Fld.RM_DECODE_HI_ADDR.put 0 (a / 2 ^ 32)) (boolNat w) := by
  rw [Dev.decodeError, Dev.rd_raise_other _ (by decide) (by decide), Dev.inc, Dev.addF, Dev.setF, Dev.rd_wr_other _ _ (by decide),
    Dev.rd_wr_same]

theorem Dev.getF_decodeError_CNT : (d.decodeError a w).getF (r0 .RM_DECODE_CNT) Fld.RM_DECODE_CNT_COUNT =
    (d.getF (r0 .RM_DECODE_CNT) Fld.RM_DECODE_CNT_COUNT + 1) % 2 ^ 32 := by
  rw [Dev.decodeError, Dev.getF, Dev.rd_raise_other _ (by decide) (by decide)]
  refine (Dev.getF_setF_same _ _ (by decide) _).trans ?_
  rw [Dev.getF, Dev.rd_wr_other _ _ (by decide), Dev.rd_wr_other _ _ (by decide)]
  rfl

theorem Dev.getF_decodeError_WRITE :
    (d.decodeError a w).getF (r0 .RM_DECODE_HI) Fld.RM_DECODE_HI_WRITE = boolNat w := by
  rw [Dev.getF, Dev.rd_decodeError_HI, Field.get_put_same (by decide)]
  cases w <;> rfl

/-- The two words hold a bus address whole. -/
theorem Dev.decodeError_addr (ha : a < 2 ^ 40) :
    joinHalves ((d.decodeError a w).rd (r0 .RM_DECODE_LO)) ((d.decodeError a w).rd (r0 .RM_DECODE_HI) &&& 0xFF) = a := by
  have hget (v : W32) : (v &&& 0xFF).toNat = Fld.RM_DECODE_HI_ADDR.get v := by
    rw [BitVec.toNat_and]
    exact (Nat.and_two_pow_sub_one_eq_mod v.toNat 8).trans (congrArg (· % 2 ^ 8) (Nat.div_one _).symm)
  have hhi : ((d.decodeError a w).rd (r0 .RM_DECODE_HI) &&& 0xFF).toNat = a / 2 ^ 32 % 2 ^ 8 := by
    rw [hget, Dev.rd_decodeError_HI, Field.get_put_other (by decide) (by decide), Field.get_put_same (by decide)]
    rfl
  rw [joinHalves, hhi, Dev.rd_decodeError_LO, BitVec.toNat_ofNat]
  omega

theorem Dev.pendingBit_decodeError : (d.decodeError a w).pendingBit 65 = true := Dev.pendingBit_raise_same _ (by decide) (by decide)

theorem Dev.decodeError_regs_only : { d.decodeError a w with regs := d.regs } = d := Dev.raise_regs_only _ 65 d.regs

end DecodeError

/-! ## Accesses that reach no register -/

theorem Dev.busReadWith_unmapped {d : Dev} {a : Nat} (adds : W32) (hb : d.reaches a = true) (hm : busMaps a = false) :
    d.busReadWith a adds = { d.decodeError a false with busData := 0 } := by
  rw [Dev.busReadWith, Dev.onBus_reaches (c := .read a) _ hb]
  simp [Dev.takeWord, hm]

theorem Dev.busWriteWith_ignored {d : Dev} {a : Nat} (v sets : W32) (hb : d.reaches a = true)
    (hm : busMaps a = false ∨ inRom a = true ∨ inFlash a = true) : d.busWriteWith a v sets = d.decodeError a true := by
  have hcond : (!busMaps a || inRom a || inFlash a) = true := by
    rcases hm with h | h | h <;> simp [h]
  rw [Dev.busWriteWith, Dev.onBus_reaches (c := .write a v) _ hb, Dev.putWord, if_pos hcond]

theorem Dev.fenced_of_retired {d : Dev} {a b x : Nat} (hs : siteOfAddr a = some (b, x)) (hr : 2 ≤ d.siteState b x) :
    d.fenced a = true := by
  simp [Dev.fenced, hs, hr]

section Fence
variable {d : Dev} {a : Nat} (hf : d.fenced a = true) (hm : d.hasMaster = true) (hp : d.rmPaused = false) (hh : d.busHeld = [])
include hf hm hp hh

theorem Dev.busReadWith_fenced (adds : W32) : d.busReadWith a adds = { d with busData := 0 } := by
  simp [Dev.busReadWith, Dev.onBus_spec, BusAccess.addr, hf, hm, hp, hh]

theorem Dev.busWriteWith_fenced (v sets : W32) : d.busWriteWith a v sets = d := by
  simp [Dev.busWriteWith, Dev.onBus_spec, BusAccess.addr, hf, hm, hp, hh]

end Fence

end Sys2Proof.Machine
end

section
/-! SUPPORT. How the commands of stack retirement, the window and the shape table complete. -/

namespace Sys2Proof.Machine

theorem Dev.when_of {d : Dev} {c : Bool} (f : Dev → Dev) (h : c = true) : d.when c f = f d := if_pos h

theorem exec_hbmRetire (n : Nat) (v : W32) (s : State) :
    exec (.hbmRetire n v) s = onUnit (decide (n < 20)) s fun d => d.busPut (r1 .HBM_CTRL n) v := rfl

theorem exec_stackRetire (n : Nat) (s : State) :
    exec (.stackRetire n) s = onUnit (decide (n < 20)) s fun d =>
      d.when (d.hasMaster && d.stackIn n && (d.hbm n).retiring.isNone && d.winNext.isNone) fun d => d.retireStack n := rfl

theorem exec_stackRetireDrained (n : Nat) (s : State) :
    exec (.stackRetireDrained n) s = onUnit (decide (n < 20)) s fun d =>
      d.when (d.hasMaster && (d.hbm n).retiring.isSome && !d.flag (r1 .HBM_CTRL n) Fld.HBM_CTRL_ACCEPT && (d.hbm n).outstanding == 0)
        fun d => d.stackDrained n := rfl

theorem exec_winCommit (v : W32) (s : State) : exec (.winCommit v) s = onUnit true s fun d => d.busPut (r0 .WIN_CTRL) v := rfl

theorem exec_winApply (s : State) : exec .winApply s = onUnit true s Dev.winDue := rfl

theorem exec_shapeGeneration (s : State) : exec .shapeGeneration s = onUnit true s Dev.newShape := rfl

theorem hbmRetire_completes {n : Nat} {v : W32} {d : Dev} (hn : n < 20) (hb : d.reaches (r1 .HBM_CTRL n).addr = true)
    (hv : Fld.HBM_CTRL_RETIRE.get v = 1) : Completes (.hbmRetire n v) d ((d.store (r1 .HBM_CTRL n) v).hbmRetire n) :=
  completes_of_exec (exec_hbmRetire n v) (decide_eq_true hn)
    (by rw [Dev.busPut_reaches v hb, Dev.writeReg_HBM_CTRL, if_pos hv])

theorem stackRetire_completes {n : Nat} {d : Dev} (hn : n < 20) (hm : d.hasMaster = true) (hs : d.stackIn n = true)
    (hr : (d.hbm n).retiring.isNone = true) (hw : d.winNext.isNone = true) : Completes (.stackRetire n) d (d.retireStack n) :=
  completes_of_exec (exec_stackRetire n) (decide_eq_true hn) (Dev.when_of _ (by simp only [hm, hs, hr, hw, Bool.and_true]))

theorem stackRetireDrained_completes {n : Nat} {d : Dev} (hn : n < 20) (hm : d.hasMaster = true)
    (hr : (d.hbm n).retiring.isSome = true) (ha : d.flag (r1 .HBM_CTRL n) Fld.HBM_CTRL_ACCEPT = false)
    (ho : (d.hbm n).outstanding = 0) : Completes (.stackRetireDrained n) d (d.stackDrained n) :=
  completes_of_exec (exec_stackRetireDrained n) (decide_eq_true hn)
    (Dev.when_of _ (by simp only [hm, hr, ha, ho, Bool.not_false, Bool.and_true, beq_self_eq_true]))

theorem winCommit_completes {v : W32} {d : Dev} (hb : d.reaches (r0 .WIN_CTRL).addr = true) (hv : Fld.WIN_CTRL_COMMIT.get v = 1) :
    Completes (.winCommit v) d d.winCommit :=
  completes_of_exec (exec_winCommit v) rfl (by rw [Dev.busPut_reaches v hb, Dev.writeReg_WIN_CTRL, if_pos hv])

end Sys2Proof.Machine
end

section
/-! SUPPORT. Every byte of memory after a write. -/

namespace Sys2Proof.Machine

/-- A byte of the range reads as written, any other as before. -/
theorem Dev.byte_writeMarked (d : Dev) (a : Nat) (l : List Byte) (marks : List Bool) (i : Nat) :
    (d.writeMarked a l marks).byte i = if a ≤ i ∧ i < a + l.length then (l[i - a]?).getD 0 else d.byte i := by
  split
  · next h =>
    obtain ⟨k, rfl⟩ := Nat.exists_eq_add_of_le h.1
    have hk : k < l.length := Nat.lt_of_add_lt_add_left h.2
    rw [Dev.byte_write_same d a l marks k hk, Nat.add_sub_cancel_left, List.getElem?_eq_getElem hk, Option.getD_some]
  · exact Dev.byte_write_other d a l marks (by omega)

end Sys2Proof.Machine
end

section
/-! The statements of the package as a machine (spec/01_package_as_machine.md) settled. -/

namespace Sys2Proof.Proofs

open Sys2Proof Sys2Proof.Machine

/-- Settles O3: each meaning makes exactly the check of the command's well-formedness. -/
theorem commandsOnUnitsComplete : Obligations.CommandsOnUnitsComplete :=
  ⟨fun _ d h => completes_of_wf h d, fun _ s h => exec_of_not_wf h s⟩

/-- Settles O4: the queue after a step is the queue before it without its front. -/
theorem queueStaysWellFormed : Obligations.QueueStaysWellFormed := by
  intro s h
  obtain ⟨d', hstep⟩ := step_of_queueWf h
  exact ⟨_, hstep, State.queueWf_drop h 1 d'⟩

/-- Settles O5, by induction on the number of steps. -/
theorem runNeverStops : Obligations.RunNeverStops := by
  intro n s h
  obtain ⟨d', hrun⟩ := run_of_queueWf n h
  exact ⟨_, hrun, rfl, State.queueWf_drop h n d'⟩

/-- Settles O9: the record's words lie apart from each other and from the Barker's, so that each keeps what the access puts there. -/
theorem unmappedAccessIsRecorded : Obligations.UnmappedAccessIsRecorded := by
  refine ⟨fun a d ha hb hm => ?_, fun a v sets d ha hb hm => ?_, fun a w d ha => ?_⟩
  · exact completes_of_exec (exec_loRead a) ha (Dev.busReadWith_unmapped 0 hb hm)
  · exact completes_of_exec (exec_registerWrite a v sets) ha (Dev.busWriteWith_ignored v sets hb hm)
  · exact ⟨d.decodeError_addr a w ha, d.getF_decodeError_WRITE a w, d.getF_decodeError_CNT a w, d.pendingBit_decodeError a w,
      d.decodeError_regs_only a w⟩

/-- Settles O10: the fence comes before the Turnstile of the site's region and before the register. -/
theorem fencedWindow : Obligations.FencedWindow := by
  intro a b x v sets d ha hs hr hm hp hh
  have hf : d.fenced a = true := Dev.fenced_of_retired hs hr
  exact ⟨completes_of_exec (exec_loRead a) ha (Dev.busReadWith_fenced hf hm hp hh 0),
    completes_of_exec (exec_registerWrite a v sets) ha (Dev.busWriteWith_fenced hf hm hp hh v sets)⟩

/-- Settles O27: each operation is a set, a clear or a copy of the sparse map, which keep its form. -/
theorem memoryOperationsKeepForm : Obligations.MemoryOperationsKeepForm :=
  ⟨fun _ a l marks h => Dev.writeMarked_wf a l marks h, fun _ a n h => Dev.zero_wf a n h,
    fun _ src dst n h => Dev.copyRange_wf src dst n h, Dev.byte_writeMarked, Dev.byte_zero⟩

/-- Settles O45: each command's condition holds, so that its effect is its rule's own. -/
theorem windowAndShapeChangesComplete : Obligations.WindowAndShapeChangesComplete :=
  ⟨fun _ _ _ hn hb hv => hbmRetire_completes hn hb hv,
    fun _ _ hn hm hs hr hw => stackRetire_completes hn hm hs hr hw,
    fun _ _ hn hm hr ha ho => stackRetireDrained_completes hn hm hr ha ho,
    fun _ _ hb hv => winCommit_completes hb hv,
    fun _ _ _ _ _ => completes_of_exec exec_winApply rfl rfl,
    fun _ => completes_of_exec exec_shapeGeneration rfl rfl⟩

end Sys2Proof.Proofs
end

section
/-! SUPPORT. What the registers hold right after reset: no word is written yet, so that each reads as its table's reset values. -/

namespace Sys2Proof.Machine

theorem State.rd_reset (r : Reg) : State.reset.dev.rd r = r.resetWord := Sparse.get_nil _ r.addr

/-- A field of a word built from the reset values alone holds its own. -/
theorem RegName.get_resetFields {n : RegName} {f : Field} (hf : f ∈ n.fields) :
    f.get (n.fields.foldl (fun w f => f.put w f.reset) 0) = f.reset % 2 ^ f.width :=
  (get_putFields (fun _ => true) Field.reset 0 n.fields_laidOut hf).trans (if_pos rfl)

theorem State.getF_reset_TILE_CTRL (b x : Nat) {f : Field} (hf : f ∈ RegName.TILE_CTRL.fields) :
    State.reset.dev.getF (r2 .TILE_CTRL b x) f = f.reset % 2 ^ f.width := by
  rw [Dev.getF, State.rd_reset]
  exact RegName.get_resetFields hf

/-- The frequency of each operating point, as Table 02-1 gives it. -/
theorem State.getF_reset_FREQ_MHZ (h p : Nat) :
    State.reset.dev.getF (r2 .OPP_ENTRY h p) Fld.OPP_ENTRY_FREQ_MHZ = (oppReset p).1 % 2 ^ 11 := by
  rw [Dev.getF, State.rd_reset]
  exact (Field.get_put_other (by decide) (by decide) _ _).trans (Field.get_put_same (by decide) _ _)

end Sys2Proof.Machine
end

section
/-! SUPPORT. The shapes of meaning that many commands share: a write to one register over the bus, a management request, a command of a
session, and the doorbell. -/

namespace Sys2Proof.Machine

/-- A command completes where the meaning m that it is dispatched to is an effect on units that the device has. -/
theorem completes_of_meaning {c : Sys2Proof.Instr} {d d' : Dev} {ok : Bool} {f : Dev → Dev} (m : State → Out) (hc : exec c = m)
    (hm : m = fun s => onUnit ok s f) (hok : ok = true) (hd : f d = d') : Completes c d d' :=
  completes_of_exec (fun s => congrFun (hc.trans hm) s) hok hd

/-- A command that writes a register completes with what the write does, where its access is carried out. -/
theorem completes_of_busPut {c : Sys2Proof.Instr} {d d' : Dev} {ok : Bool} {r : Reg} {v : W32} (m : State → Out)
    (hc : exec c = m) (hm : m = fun s => onUnit ok s fun d => d.busPut r v) (hok : ok = true) (hb : d.reaches r.addr = true)
    (hw : d.writeReg r v 0 = d') : Completes c d d' :=
  completes_of_meaning m hc hm hok ((Dev.busPut_reaches v hb).trans hw)

/-- A management request reaches a queue pair that is up (R342). -/
theorem completes_of_request {c : Sys2Proof.Instr} {code qp : Nat} {msg : List Byte} {d : Dev} (m : State → Out) (hc : exec c = m)
    (hm : m = fun s => onUnit (decide (qp < 4096) && isRequest code msg) s fun d => d.when (d.qpUp qp) fun d => d.received qp msg)
    (hqp : qp < 4096) (hmsg : isRequest code msg = true) (hup : d.qpUp qp = true) : Completes c d (d.received qp msg) :=
  completes_of_meaning m hc hm (Bool.and_eq_true_iff.mpr ⟨decide_eq_true hqp, hmsg⟩) (Dev.when_of _ hup)

/-- A row that takes code 0 takes its command whether or not the entry is in order. -/
theorem Dev.command_takes_any {d : Dev} {s : Nat} {v : Svc} {k : Session} {mine : Nat → Bool} (f : Dev → SvcCmd → Dev)
    (hv : d.svc = some v) (hk : v.session s = some k) (hb : v.busy = none) (ht : d.nextSession v = some s)
    (hm : mine (cCode (d.nextEntry v s k)) = true) (h0 : mine 0 = true) :
    d.command s mine f = f (d.consume s k) (d.nextEntry v s k) := by
  simp [Dev.command, hv, hk, hb, ht, hm, h0, Dev.when]

section SessionCommand
variable {sess : Nat} {v : Svc} {k : Session} {d d' : Dev} {c : Sys2Proof.Instr} {mine : Nat → Bool} {f : Dev → SvcCmd → Dev}
  (m : State → Out) (hc : exec c = m) (hm : m = fun s => onUnit (decide (sess < 16)) s fun d => d.command sess mine f)
  (hsess : sess < 16) (hv : d.svc = some v) (hk : v.session sess = some k) (hb : v.busy = none) (ht : d.nextSession v = some sess)
  (hmine : mine (cCode (d.nextEntry v sess k)) = true) (hd : f (d.consume sess k) (d.nextEntry v sess k) = d')
include hc hm hsess hv hk hb ht hmine hd

/-- A session's command in order completes with its rule's effect on the device after it is taken. -/
theorem completes_of_command (he : (d.consume sess k).entryOk (d.nextEntry v sess k) = true) : Completes c d d' :=
  completes_of_meaning m hc hm (decide_eq_true hsess) ((Dev.command_takes f hv hk hb ht hmine he).trans hd)

/-- Where the row takes code 0, the entry need not be in order. -/
theorem completes_of_command_any (h0 : mine 0 = true) : Completes c d d' :=
  completes_of_meaning m hc hm (decide_eq_true hsess) ((Dev.command_takes_any f hv hk hb ht hmine h0).trans hd)

end SessionCommand

/-- NOP's row takes NOP and the codes that Table 10-7 does not assign. -/
theorem svcNop_mine {code : Nat} (h : code = 1 ∨ 8 < code ∨ code = 0) : (code == 1 || !within 1 8 code) = true := by
  rw [Bool.or_eq_true, beq_iff_eq, Bool.not_eq_true', within, Bool.and_eq_false_iff, decide_eq_false_iff_not, decide_eq_false_iff_not]
  omega

/-- A doorbell on a queue pair that is up begins a write of no byte to the service area, with its immediate value (R344). -/
theorem doorbell_completes {qp : Nat} {imm : W32} {v : Svc} {d : Dev} (hqp : qp < 4096) (hup : d.qpUp qp = true)
    (hv : d.svc = some v) : Completes (.doorbell qp imm) d (d.startOp qp v.area 0 (some []) (some imm)) := by
  refine completes_of_meaning (execDoorbell qp imm) rfl rfl (decide_eq_true hqp) ?_
  simp only [hv]
  exact Dev.when_of _ hup

end Sys2Proof.Machine
end

section
/-! SUPPORT. The commit of an operating point: what a rejected one counts (R57, R485), and how its row completes. -/

namespace Sys2Proof.Machine

theorem firstReject_busy (malformed bounds : Bool) : firstReject true malformed bounds = some .busyRej := rfl

theorem firstReject_bounds : firstReject false false true = some .bounds := rfl

section Commit
variable {h : Nat} {v : W32} {d : Dev} (hv : Fld.HALF_OPP_COMMIT.get v = 1)
include hv

/-- A commit that a reason stops is counted by that reason, and does no more. -/
theorem Dev.writeHalfOpp_rejected {k : Reject} (hk : firstReject (d.halfIs h Fld.HALF_STATUS_BUSY) false
      (!d.oppValid h (Fld.HALF_OPP_NEXT.get v) || decide (d.changeBeat h < d.beat + 3000)) = some k) :
    d.writeHalfOpp h v = d.clkReject k := by
  simp [Dev.writeHalfOpp, hv, hk]

theorem Dev.writeHalfOpp_busy (hb : d.halfIs h Fld.HALF_STATUS_BUSY = true) :
    d.writeHalfOpp h v = d.inc (r0 .CLK_ERR) Fld.CLK_ERR_BUSY_REJ :=
  Dev.writeHalfOpp_rejected hv (by rw [hb, firstReject_busy])

theorem Dev.writeHalfOpp_bounds (hb : d.halfIs h Fld.HALF_STATUS_BUSY = false)
    (hbad : d.oppValid h (Fld.HALF_OPP_NEXT.get v) = false ∨ d.changeBeat h < d.beat + 3000) :
    d.writeHalfOpp h v = d.inc (r0 .CLK_ERR) Fld.CLK_ERR_BOUNDS := by
  have hout : (!d.oppValid h (Fld.HALF_OPP_NEXT.get v) || decide (d.changeBeat h < d.beat + 3000)) = true := by
    rwa [Bool.or_eq_true, Bool.not_eq_true', decide_eq_true_iff]
  exact Dev.writeHalfOpp_rejected hv (by rw [hb, hout, firstReject_bounds])

end Commit

theorem halfCommit_completes {h : Nat} (v : W32) {d : Dev} (hh : h < 16) (hb : d.reaches (r1 .HALF_OPP h).addr = true) :
    Completes (.halfCommit h v) d (d.writeHalfOpp h v) :=
  completes_of_busPut (execHalfCommit h v) rfl rfl (decide_eq_true hh) hb (Dev.writeReg_HALF_OPP d v 0 h)

end Sys2Proof.Machine
end

section
/-! The statements of the beat and the clocks (spec/02_beat_and_clocks.md) settled, and that of the management requests (R56). -/

namespace Sys2Proof.Proofs

open Sys2Proof Sys2Proof.Machine

/-- Settles O14: the reasons are tried in the order of R485, and the first that applies is all that the commit does. -/
theorem rejectedChangeCountsOnce : Obligations.RejectedChangeCountsOnce := by
  refine ⟨fun h v d hh hb hv hbusy => ?_, fun h v d hh hb hv hfree hbad => ?_⟩
  · exact Dev.writeHalfOpp_busy hv hbusy ▸ halfCommit_completes v hh hb
  · exact Dev.writeHalfOpp_bounds hv hfree hbad ▸ halfCommit_completes v hh hb

/-- Settles O6: no register word is written yet, so that each reads as its reset word. -/
theorem resetState : Obligations.ResetState :=
  ⟨fun _ hc => absurd hc List.not_mem_nil, rfl, rfl, rfl, State.rd_reset, fun h => State.getF_reset_FREQ_MHZ h 0,
    fun b x => State.getF_reset_TILE_CTRL b x (by decide), State.rd_reset _⟩

/-- Settles O31: each command's condition holds, or its write of BEAT_CTRL is carried out. -/
theorem beatCommandsComplete : Obligations.BeatCommandsComplete := by
  refine ⟨fun qualified d hout hcount => ?_, fun d hsync => ?_, fun d hsync hal => ?_, fun v d hb => ?_, fun v d hb => ?_,
    fun d hact hleft => ?_, fun periods d hcount => ?_, fun d hhold hforce => ?_⟩
  · exact completes_of_meaning (execYrefQualify qualified) rfl rfl rfl (Dev.when_of _ (by rw [hout, hcount]; rfl))
  · exact completes_of_meaning execBeatSyncPulse rfl rfl rfl (Dev.when_of _ hsync)
  · exact completes_of_meaning execSyncPulseMissing rfl rfl rfl (Dev.when_of _ (by rw [hsync, hal]; rfl))
  · exact completes_of_busPut (execLoadArm v) rfl rfl rfl hb (Dev.writeReg_BEAT_CTRL d v 0)
  · exact completes_of_busPut (execHoldoverForce v) rfl rfl rfl hb (Dev.writeReg_BEAT_CTRL d v 0)
  · exact completes_of_meaning execHoldEnd rfl rfl rfl (Dev.when_of _ (by rw [hact, hleft]; rfl))
  · exact completes_of_meaning (execYrefLoss periods) rfl rfl rfl (Dev.when_of _ hcount)
  · exact completes_of_meaning execYrefReturn rfl rfl rfl (Dev.when_of _ (by rw [hhold, hforce]; rfl))

/-- Settles O32: the commit is a write of HALF_OPP, each stage acts on a change that is due for it, and each PLL event has its
condition. -/
theorem pointChangesComplete : Obligations.PointChangesComplete := by
  refine ⟨fun h v d hh hb => halfCommit_completes v hh hb, fun h c d hh hch hdue => ?_, fun h c d hh hch hdue => ?_,
    fun h locked settled c d hh hch hdue => ?_, fun h c d hh hch hdue => ?_, fun h c d hh hch hdue => ?_,
    fun h c d hh hch hover => ?_, fun h d hh hlock => ?_, fun h pll d hh hstop hfail htarget => ?_,
    fun h pll locked d hh hmaster hlock hfail hfree => ?_⟩
  · exact completes_of_meaning (execChangeVcoreStart h) rfl rfl (decide_eq_true hh) (Dev.onChange_some _ hch hdue)
  · exact completes_of_meaning (execStandbyLockStart h) rfl rfl (decide_eq_true hh) (Dev.onChange_some _ hch hdue)
  · exact completes_of_meaning (execReadinessCheck h locked settled) rfl rfl (decide_eq_true hh) (Dev.onChange_some _ hch hdue)
  · exact completes_of_meaning (execHalfSwitch h) rfl rfl (decide_eq_true hh) (Dev.onChange_some _ hch hdue)
  · exact completes_of_meaning (execLoweringVcoreStart h) rfl rfl (decide_eq_true hh) (Dev.onChange_some _ hch hdue)
  · exact completes_of_meaning (execChangeBusyClear h) rfl rfl (decide_eq_true hh) (Dev.onChange_some _ hch hover)
  · exact completes_of_meaning (execPllLoss h) rfl rfl (decide_eq_true hh) (Dev.when_of _ hlock)
  · exact completes_of_meaning (execPllLockResume h pll) rfl rfl (decide_eq_true hh) (Dev.when_of _ (by rw [hstop, hfail, htarget]; rfl))
  · exact completes_of_meaning (execPllRelockAttempt h pll locked) rfl rfl (decide_eq_true hh)
      (Dev.when_of _ (by rw [hmaster, hlock, hfail, hfree]; rfl))

/-- Settles O33: a stretch of depth other than 0 and a trim at its beat have their conditions, and a gate and its release are
writes of REGION_CLK_CTRL. -/
theorem regionClockCommandsComplete : Obligations.RegionClockCommandsComplete := by
  refine ⟨fun r depth d hr hrun hdepth => ?_, fun r d hr hbeat => ?_, fun r v d hr hb => ?_, fun r v d hr hb => ?_⟩
  · exact completes_of_meaning (execStretch r depth) rfl rfl (decide_eq_true hr)
      (Dev.when_of _ (by rwa [hrun, Bool.true_and, bne_iff_ne]))
  · exact completes_of_meaning (execReplicaTrim r) rfl rfl (decide_eq_true hr) (Dev.when_of _ (beq_iff_eq.mpr hbeat))
  · exact completes_of_busPut (execGate r v) rfl rfl (decide_eq_true hr) hb (Dev.writeReg_REGION_CLK_CTRL d v 0 r)
  · exact completes_of_busPut (execGateRelease r v) rfl rfl (decide_eq_true hr) hb (Dev.writeReg_REGION_CLK_CTRL d v 0 r)

/-- Settles O52: a request reaches the queue pair that is up, and each session command is taken in its turn by the row of its code.
That NOP's row takes the unassigned codes too, and gives them a VALUE of free bytes, is the model's choice (log entry 97). -/
theorem managementRequestsAndDoorbellsComplete : Obligations.ManagementRequestsAndDoorbellsComplete := by
  refine ⟨fun qp msg d hqp hmsg hup => ?_, fun qp msg d hqp hmsg hup => ?_, fun qp msg d hqp hmsg hup => ?_,
    fun qp msg d hqp hmsg hup => ?_, fun qp msg d hqp hmsg hup => ?_, fun qp msg d hqp hmsg hup => ?_,
    fun qp imm d hqp hup v hv => doorbell_completes hqp hup hv,
    fun sess v k d hs hv hk hb ht hcode => ?_, fun sess v k d hs hv hk hb ht hcode he => ?_,
    fun sess v k d hs hv hk hb ht hcode he => ?_, fun sess v k d hs hv hk hb ht hcode he => ?_,
    fun sess v k d hs hv hk hb ht hcode he => ?_, fun sess far v k d hs hv hk hb ht hcode he => ?_,
    fun sess v k d hs hv hk hb ht hcode he => ?_, fun sess v k d hs hv hk hb ht hcode he => ?_⟩
  · exact completes_of_request (execQuery qp msg) rfl rfl hqp hmsg hup
  · exact completes_of_request (execLoadAct qp msg) rfl rfl hqp hmsg hup
  · exact completes_of_request (execStartAct qp msg) rfl rfl hqp hmsg hup
  · exact completes_of_request (execStopAct qp msg) rfl rfl hqp hmsg hup
  · exact completes_of_request (execSessionOpen qp msg) rfl rfl hqp hmsg hup
  · exact completes_of_request (execSessionClose qp msg) rfl rfl hqp hmsg hup
  · exact completes_of_command_any (execSvcNop sess) rfl rfl hs hv hk hb ht (svcNop_mine hcode) rfl rfl
  · exact completes_of_command (execSvcOpen sess) rfl rfl hs hv hk hb ht (beq_iff_eq.mpr hcode) rfl he
  · exact completes_of_command (execSvcAppend sess) rfl rfl hs hv hk hb ht (beq_iff_eq.mpr hcode) rfl he
  · exact completes_of_command (execSvcCancel sess) rfl rfl hs hv hk hb ht (beq_iff_eq.mpr hcode) rfl he
  · exact completes_of_command (execSvcClose sess) rfl rfl hs hv hk hb ht (beq_iff_eq.mpr hcode) rfl he
  · exact completes_of_command (execLoadWeights sess far) rfl rfl hs hv hk hb ht (beq_iff_eq.mpr hcode) rfl he
  · exact completes_of_command (execReadStatus sess) rfl rfl hs hv hk hb ht (beq_iff_eq.mpr hcode) rfl he
  · exact completes_of_command (execAdopt sess) rfl rfl hs hv hk hb ht (beq_iff_eq.mpr hcode) rfl he

end Sys2Proof.Proofs
end

section
/-! SUPPORT. How the two families of tile commands complete: an instruction that the core of a site issues, and a command that an engine
queue starts with every check passed. -/

namespace Sys2Proof.Machine

theorem okSite_and_lt {b x i n : Nat} (hs : okSite b x = true) (hi : i < n) : (okSite b x && decide (i < n)) = true :=
  Bool.and_eq_true_iff.mpr ⟨hs, decide_eq_true hi⟩

theorem okSite_and_lt₂ {b x i j n m : Nat} (hs : okSite b x = true) (hi : i < n) (hj : j < m) :
    (okSite b x && decide (i < n) && decide (j < m)) = true :=
  Bool.and_eq_true_iff.mpr ⟨okSite_and_lt hs hi, decide_eq_true hj⟩

theorem okSite_and_lt₃ {b x i j k n m l : Nat} (hs : okSite b x = true) (hi : i < n) (hj : j < m) (hk : k < l) :
    (okSite b x && decide (i < n) && decide (j < m) && decide (k < l)) = true :=
  Bool.and_eq_true_iff.mpr ⟨okSite_and_lt₂ hs hi hj, decide_eq_true hk⟩

/-! ## Instructions -/

/-- An instruction completes with its effect on the device that counts it, where the core issues it and no exception to its form
applies (extra). -/
theorem completes_of_issue {c : Sys2Proof.Instr} {d d' : Dev} {ok extra : Bool} {b x : Nat} {form : Form} {f : Dev → Dev}
    (m : State → Out) (hc : exec c = m) (hm : m = fun s => onUnit ok s fun d => d.instruction b x form extra f) (hok : ok = true)
    (hi : d.issues b x form = true) (hextra : extra = false) (hd : f (d.issued b x) = d') : Completes c d d' := by
  subst hextra
  exact completes_of_meaning m hc hm hok ((Dev.instruction_issues f hi).trans hd)

/-- A core that issues an instruction has no YIELD that waits. -/
theorem Dev.yieldWait_of_issues {d : Dev} {b x : Nat} {form : Form} (h : d.issues b x form = true) :
    (d.tile b x).yieldWait = false := by
  simp only [Dev.issues, Dev.coreReady, Bool.and_eq_true, Bool.not_eq_true'] at h
  obtain ⟨⟨⟨⟨⟨⟨-, hyield⟩, -⟩, -⟩, -⟩, -⟩, -⟩ := h
  exact hyield

/-- A YIELD that the core issues takes its first step (R122). -/
theorem yield_completes {b x : Nat} {d : Dev} (hs : okSite b x = true) (hi : d.issues b x ⟨8, none, none, .reg none⟩ = true) :
    Completes (.yield b x false) d ((d.issued b x).yieldAt b x) := by
  refine completes_of_meaning (execYield b x false) rfl rfl hs ?_
  rw [if_neg (Bool.eq_false_iff.mp (Dev.yieldWait_of_issues hi)), Dev.instruction_issues _ hi]

/-- A YIELD that waits proceeds once its tile is quiescent and the core can go on (R122). -/
theorem yield_completes_waiting {b x : Nat} (extra : Bool) {d : Dev} (hs : okSite b x = true) (hy : (d.tile b x).yieldWait = true)
    (hw : d.canWake b x = true) (hq : (d.tile b x).quiescent = true) : Completes (.yield b x extra) d (d.yieldMove b x) := by
  refine completes_of_meaning (execYield b x extra) rfl rfl hs ?_
  rw [if_pos hy, Dev.when_of _ (by rw [hw, hq]; rfl)]

/-! ## Engine commands -/

section EngineCommand
variable {c : Sys2Proof.Instr} {d d' : Dev} {ok : Bool} {b x q op last : Nat} {e : QEntry} {mine : Nat → Bool} {g : Dev → Dev}
  {checks : Dev → W128 → List Fail} {run : Dev → QEntry → Dev}
  (m : State → Out) (hc : exec c = m) (hok : ok = true) (hrun : (g d).enginesRun b x = true)
  (hstart : startable (((g d).tile b x).queue q) = some e)
include hc hok hrun hstart

/-- The first command of a queue that waits runs, where it has the row's OP and every check passes; g is what the row does before it. -/
theorem completes_of_start (hm : m = fun s => onUnit ok s fun d => (g d).startCmd b x q (· == op) checks run)
    (hop : opOf e.cmd = op) (hv : verdict (checks (g d) e.cmd) = none) (hd : run ((g d).beginCmd b x q e) e = d') :
    Completes c d d' :=
  completes_of_meaning m hc hm hok
    ((Dev.startCmd_runs (mine := (· == op)) run hrun hstart (beq_iff_eq.mpr hop) hv).trans hd)

/-- The row of OP 1 rejects the undefined OPs too, those beyond the last; a command of OP 1 it checks by its own checks alone. -/
theorem completes_of_start_first
    (hm : m = fun s => onUnit ok s fun d => (g d).startCmd b x q mine
      (fun d c => undefinedOp (opOf c) last ++ (if opOf c = 1 then checks d c else [])) run)
    (hop : opOf e.cmd = 1) (hv : verdict (checks (g d) e.cmd) = none) (hd : run ((g d).beginCmd b x q e) e = d')
    (hmine : mine 1 = true) (hlast : 1 ≤ last) : Completes c d d' := by
  have hdefined : undefinedOp 1 last = [] := if_neg (by rw [decide_eq_true_iff]; omega)
  refine completes_of_meaning m hc hm hok ((Dev.startCmd_runs run hrun hstart (by rw [hop]; exact hmine) ?_).trans hd)
  rw [hop, hdefined, if_pos rfl, List.nil_append, hv]

end EngineCommand

/-- The command at the head of a queue that has ended posts its completion once no posted packet of it is under way. -/
theorem commandCompletion_completes {b x q : Nat} {e : QEntry} {rest : List QEntry} {d : Dev} (hs : okSite b x = true) (hq : q < 6)
    (hhead : (d.tile b x).queue q = e :: rest) (hrun : d.enginesRun b x = true) (hended : e.phase = .ended)
    (hway : d.copyUnderWay e = false) : Completes (.commandCompletion b x q) d (d.completeCmd b x q e rest) :=
  completes_of_meaning (execCommandCompletion b x q) rfl rfl (okSite_and_lt hs hq)
    (by simp only [hhead]; exact Dev.when_of _ (by rw [hrun, hended, hway]; rfl))

end Sys2Proof.Machine
end

section
/-! SUPPORT. The registers, counters and queues of a tile: what is read after each is written. -/

namespace Sys2Proof.Machine

variable (t : Tile)

@[simp] theorem Tile.reg_zero : t.reg 0 = 0 := rfl

theorem Tile.reg_setReg_same {n : Nat} (v : W64) (h : n ≠ 0) : (t.setReg n v).reg n = v := by
  rw [Tile.setReg, if_neg h, Tile.reg, if_neg h]
  exact Sparse.get_set_same (fun _ => 0) t.g n v

theorem Tile.reg_setReg_other {n k : Nat} (v : W64) (h : n ≠ k) : (t.setReg k v).reg n = t.reg n := by
  unfold Tile.setReg
  split
  · rfl
  · exact congrArg (if n = 0 then 0 else ·) (Sparse.get_set_other (fun _ => 0) t.g v h.symm)

@[simp] theorem Tile.halted_setReg (n : Nat) (v : W64) : (t.setReg n v).halted = t.halted := by
  unfold Tile.setReg
  split <;> rfl

@[simp] theorem Tile.acOf_setAc_same (i : Nat) (v : W32) : (t.setAc i v).acOf i = v := Sparse.get_set_same (fun _ => 0) t.ac i v

@[simp] theorem Tile.ccOf_setCc_same (i : Nat) (v : W32) : (t.setCc i v).ccOf i = v := Sparse.get_set_same (fun _ => 0) t.cc i v

theorem Tile.ccOf_setCc_other {i k : Nat} (v : W32) (h : k ≠ i) : (t.setCc i v).ccOf k = t.ccOf k :=
  Sparse.get_set_other (fun _ => 0) t.cc v h.symm

@[simp] theorem Tile.queue_setQueue_same (q : Nat) (l : List QEntry) : (t.setQueue q l).queue q = l :=
  Sparse.get_set_same (fun _ => []) t.queues q l

theorem Tile.queue_setQueue_other {q k : Nat} (l : List QEntry) (h : k ≠ q) : (t.setQueue q l).queue k = t.queue k :=
  Sparse.get_set_other (fun _ => []) t.queues l h.symm

end Sys2Proof.Machine
end

section
/-! SUPPORT. Loads and stores of the core (R81): which exception an access takes, what each does where it takes one and where it takes none,
and the bytes that a store leaves. -/

namespace Sys2Proof.Machine

/-- The address of an access: B + IMM14. -/
abbrev Tile.effAddr (t : Tile) (rb : Nat) (imm : BitVec 14) : W64 := t.reg rb + imm.signExtend 64

theorem accessException_outside {ea : W64} {n : Nat} (h : 0x200000 < ea.toNat + n) : accessException ea n = some excLocalBounds :=
  if_pos h

theorem accessException_misaligned {ea : W64} {n : Nat} (h : ea.toNat + n ≤ 0x200000) (hm : ea.toNat % n ≠ 0) :
    accessException ea n = some excMisalign := by
  rw [accessException, if_neg (Nat.not_lt.mpr h), if_pos hm]

theorem accessException_none {ea : W64} {n : Nat} (h : ea.toNat + n ≤ 0x200000) (hm : ea.toNat % n = 0) :
    accessException ea n = none := by
  rw [accessException, if_neg (Nat.not_lt.mpr h), if_neg (not_not_intro hm)]

section Access
variable {b x a rb : Nat} {size : MemSize} {imm : BitVec 14} {d : Dev} (hs : okSite b x = true) (ha : a < 32) (hrb : rb < 32)
  (hsize : (size == .unassigned) = false)
include hs ha hrb hsize

theorem load_raises {sgn : Bool} {cause : Nat} (hi : d.issues b x ⟨2, some a, some rb, .imm14 imm⟩ = true)
    (he : accessException (((d.issued b x).tile b x).effAddr rb imm) (sizeBytes size) = some cause) :
    Completes (.load b x size sgn a rb imm) d
      ((d.issued b x).takeException b x cause (((d.issued b x).tile b x).effAddr rb imm) ((d.issued b x).tile b x).pc) :=
  completes_of_issue (execLoad b x size sgn a rb imm) rfl rfl (okSite_and_lt₂ hs ha hrb) hi hsize (by simp only [he])

theorem load_completes {sgn : Bool} (hi : d.issues b x ⟨2, some a, some rb, .imm14 imm⟩ = true)
    (he : accessException (((d.issued b x).tile b x).effAddr rb imm) (sizeBytes size) = none)
    (hclean : (d.issued b x).poisoned (localBase b x + (((d.issued b x).tile b x).effAddr rb imm).toNat) (sizeBytes size) = false) :
    Completes (.load b x size sgn a rb imm) d
      ((d.issued b x).setTile b x (((d.issued b x).tile b x).put a (extendLoad sgn (sizeBytes size)
        ((d.issued b x).readNat (localBase b x + (((d.issued b x).tile b x).effAddr rb imm).toNat) (sizeBytes size))))) :=
  completes_of_issue (execLoad b x size sgn a rb imm) rfl rfl (okSite_and_lt₂ hs ha hrb) hi hsize
    (by simp only [he]; exact if_neg (Bool.eq_false_iff.mp hclean))

theorem store_raises {cause : Nat} (hi : d.issues b x ⟨3, some a, some rb, .imm14 imm⟩ = true)
    (he : accessException (((d.issued b x).tile b x).effAddr rb imm) (sizeBytes size) = some cause) :
    Completes (.store b x size a rb imm) d
      ((d.issued b x).takeException b x cause (((d.issued b x).tile b x).effAddr rb imm) ((d.issued b x).tile b x).pc) :=
  completes_of_issue (execStore b x size a rb imm) rfl rfl (okSite_and_lt₂ hs ha hrb) hi hsize (by simp only [he])

theorem store_completes (hi : d.issues b x ⟨3, some a, some rb, .imm14 imm⟩ = true)
    (he : accessException (((d.issued b x).tile b x).effAddr rb imm) (sizeBytes size) = none) :
    Completes (.store b x size a rb imm) d
      (((d.issued b x).write (localBase b x + (((d.issued b x).tile b x).effAddr rb imm).toNat)
        (bytesLE (((d.issued b x).tile b x).reg a).toNat (sizeBytes size))).setTile b x ((d.issued b x).tile b x).next) :=
  completes_of_issue (execStore b x size a rb imm) rfl rfl (okSite_and_lt₂ hs ha hrb) hi hsize (by simp only [he])

end Access

@[simp] theorem length_bytesLE (v n : Nat) : (bytesLE v n).length = n := by
  induction n generalizing v with
  | zero => rfl
  | succ n ih => exact congrArg Nat.succ (ih _)

/-- The least significant byte comes first (R7). -/
theorem getElem_bytesLE (v : Nat) {n i : Nat} (h : i < (bytesLE v n).length) : (bytesLE v n)[i] = BitVec.ofNat 8 (v / 256 ^ i) := by
  induction n generalizing v i with
  | zero => exact absurd h (Nat.not_lt_zero i)
  | succ n ih =>
    cases i with
    | zero => exact congrArg (BitVec.ofNat 8) (by rw [pow_zero, Nat.div_one])
    | succ i => exact (ih (v / 256) (Nat.lt_of_succ_lt_succ h)).trans (by rw [Nat.div_div_eq_div_mul, Nat.pow_succ'])

end Sys2Proof.Machine
end

section
/-! SUPPORT. What an instruction and an exception do to their own tile and leave of every other. -/

namespace Sys2Proof.Machine

variable (d : Dev) (b x : Nat)

/-- A tile that is set is all that changes of the device. -/
theorem Dev.setTile_tiles_only (t : Tile) (m : Sparse Tile) : { d.setTile b x t with tiles := m } = { d with tiles := m } := by
  unfold Dev.setTile
  rfl

/-- Only what a change does to the tile as it is counts. -/
theorem Dev.updTile_congr {f g : Tile → Tile} (h : f (d.tile b x) = g (d.tile b x)) : d.updTile b x f = d.updTile b x g :=
  congrArg (d.setTile b x) h

/-- A store leaves of the device every part but memory, its marks and the tiles. -/
theorem Dev.write_setTile_rest (p : Nat) (l : List Byte) (t : Tile) :
    { ((d.issued b x).write p l).setTile b x t with mem := d.mem, poison := d.poison, tiles := d.tiles } = d := by
  unfold Dev.issued Dev.updTile Dev.setTile Dev.write Dev.writeMarked
  rfl

theorem Dev.tile_issued_other {b x c y : Nat} (h : b * 768 + x ≠ c * 768 + y) : (d.issued b x).tile c y = d.tile c y :=
  Dev.tile_updTile_other d b x _ h

/-- An instruction counts, and does no more by that. -/
theorem Dev.issued_tile : ∃ util, (d.issued b x).tile b x = { d.tile b x with util := util } :=
  ⟨(d.tile b x).util.upd (fun _ => 0) 1 (· + 1), Dev.tile_updTile_same d b x _⟩

@[simp] theorem Dev.reg_issued (n : Nat) : ((d.issued b x).tile b x).reg n = (d.tile b x).reg n := by
  obtain ⟨util, hutil⟩ := d.issued_tile b x
  rw [hutil]
  rfl

/-- The tile after it is set and a record of it is traced, its trace buffer apart. -/
theorem Dev.trace_setTile_tile (t : Tile) (kind unit status info arg : Nat) :
    (((d.setTile b x t).trace b x kind unit status info arg).tile b x).sameBut t := by
  have h := Dev.trace_tile (d.setTile b x t) b x kind unit status info arg
  rwa [Dev.tile_setTile_same] at h

/-- The tile after a halt: its trace buffer apart, it is halted with the cause. -/
theorem Dev.haltCore_tile (cause : Nat) :
    ((d.haltCore b x cause).tile b x).sameBut { d.tile b x with halted := true, haltCause := cause } :=
  Dev.trace_setTile_tile d b x _ 7 7 cause 0 _

section Exception
variable {d b x} (cause : Nat) (eval epc : W64)

/-- The tile after a first exception (R125), its trace buffer apart. -/
theorem Dev.takeException_tile (h : (d.tile b x).inExc = false) :
    ((d.takeException b x cause eval epc).tile b x).sameBut
      { d.tile b x with epc := epc, ecause := cause, eval := eval, inExc := true, pc := (d.tile b x).evec } := by
  rw [Dev.takeException, if_neg (Bool.eq_false_iff.mp h)]
  exact Dev.trace_setTile_tile d b x _ 6 7 cause 0 _

/-- A second exception halts the core and raises the barn's source (R126). -/
theorem Dev.takeException_double (h : (d.tile b x).inExc = true) :
    d.takeException b x cause eval epc =
      ((d.setTile b x { d.tile b x with epc := epc, ecause := cause, eval := eval }).haltCore b x 3).raise (164 + b) := if_pos h

/-- The tile after a second exception, its trace buffer apart. -/
theorem Dev.takeException_double_tile (h : (d.tile b x).inExc = true) :
    ((d.takeException b x cause eval epc).tile b x).sameBut
      { d.tile b x with epc := epc, ecause := cause, eval := eval, halted := true, haltCause := 3 } := by
  have htile := Dev.haltCore_tile (d.setTile b x { d.tile b x with epc := epc, ecause := cause, eval := eval }) b x 3
  rw [Dev.takeException_double cause eval epc h, Dev.tile_raise]
  rwa [Dev.tile_setTile_same] at htile

end Exception

/-- The tile after a wait begins, its trace buffer apart. -/
theorem Dev.beginWait_tile (w : Wait) : ((d.beginWait b x w).tile b x).sameBut { d.tile b x with wait := some w } :=
  Dev.trace_setTile_tile d b x _ 3 w.kind 0 w.index _

/-! ## Waits (R116, R117) -/

section Wait
variable {d b x} {w : Wait}

theorem Dev.waitOrGo_met (h : d.waitMet b x w = true) : d.waitOrGo b x w = d.setTile b x ((d.tile b x).put w.dest 0) := if_pos h

theorem Dev.waitOrGo_timedOut (h : d.waitMet b x w = false) (hen : (d.tile b x).waitToEn = true) (hto : (d.tile b x).waitTimeout = 0) :
    d.waitOrGo b x w = d.setTile b x ((d.tile b x).put w.dest 1) := by
  rw [Dev.waitOrGo, if_neg (Bool.eq_false_iff.mp h), if_pos ⟨hen, hto⟩]

theorem Dev.waitOrGo_waits (h : d.waitMet b x w = false) (hto : (d.tile b x).waitToEn = false ∨ (d.tile b x).waitTimeout ≠ 0) :
    d.waitOrGo b x w = d.beginWait b x w := by
  have hgoes : ¬ ((d.tile b x).waitToEn = true ∧ (d.tile b x).waitTimeout = 0) :=
    fun ⟨hen, hzero⟩ => hto.elim (fun hoff => by simp [hen] at hoff) (fun hne => hne hzero)
  rw [Dev.waitOrGo, if_neg (Bool.eq_false_iff.mp h), if_neg hgoes]

end Wait

end Sys2Proof.Machine
end

section
/-! SUPPORT. The instructions that write one general register (R79, R83): what such an instruction changes of its own tile, and what it
leaves as it was of the device. -/

namespace Sys2Proof.Machine

/-- Tile u is tile t but for register a, the PC and the count of instructions. -/
structure WritesRegister (a : Nat) (t u : Tile) : Prop where
  others : ∀ n, n ≠ a → u.reg n = t.reg n
  rest : { u with g := t.g, pc := t.pc, util := t.util } = t

theorem writesRegister_setReg (a : Nat) (v pc : W64) (t : Tile) : WritesRegister a t { t.setReg a v with pc := pc } where
  others := fun _ h => t.reg_setReg_other v h
  rest := by unfold Tile.setReg; split <;> rfl

theorem writesRegister_put (a : Nat) (v : W64) (t : Tile) : WritesRegister a t (t.put a v) := writesRegister_setReg a v _ t

theorem writesRegister_pc (a : Nat) (pc : W64) (t : Tile) : WritesRegister a t { t with pc := pc } := ⟨fun _ _ => rfl, rfl⟩

/-- The count of the instruction may go before. -/
theorem WritesRegister.of_util {a : Nat} {t u : Tile} {util : Sparse Nat} (h : WritesRegister a { t with util := util } u) :
    WritesRegister a t u where
  others := h.others
  rest := congrArg (fun v : Tile => { v with util := t.util }) h.rest

/-- Device e is device d but for register a of one site, its PC and its count of instructions; g0 reads zero. -/
def RegisterFrame (a b x : Nat) (d e : Dev) : Prop :=
  { e with tiles := d.tiles } = d ∧
  (∀ b' x', okSite b' x' = true → (b', x') ≠ (b, x) → e.tile b' x' = d.tile b' x') ∧
  (∀ n, n ≠ a → (e.tile b x).reg n = (d.tile b x).reg n) ∧ (e.tile b x).reg 0 = 0 ∧
  { e.tile b x with g := (d.tile b x).g, pc := (d.tile b x).pc, util := (d.tile b x).util } = d.tile b x

/-- An instruction whose effect is on its tile alone has the frame of what it does there. -/
theorem registerFrame_of_updTile {a b x : Nat} {f : Tile → Tile} (d : Dev) (hs : okSite b x = true)
    (hf : ∀ t, WritesRegister a t (f t)) : RegisterFrame a b x d ((d.issued b x).updTile b x f) := by
  have hown : WritesRegister a (d.tile b x) (((d.issued b x).updTile b x f).tile b x) := by
    obtain ⟨util, hutil⟩ := d.issued_tile b x
    rw [Dev.tile_updTile_same, hutil]
    exact (hf _).of_util
  refine ⟨?_, fun b' x' hs' hne => ?_, hown.others, rfl, hown.rest⟩
  · unfold Dev.issued Dev.updTile
    rw [Dev.setTile_tiles_only, Dev.setTile_tiles_only]
  · have hkey := site_key_ne hs hs' hne
    rw [Dev.tile_updTile_other _ _ _ _ hkey, Dev.tile_issued_other d hkey]

end Sys2Proof.Machine
end

section
/-! SUPPORT. The completion of an engine command (R114): what a fault adds to its tile, and the tile after the command has left the
queue. -/

namespace Sys2Proof.Machine

variable (d : Dev) (b x : Nat)

/-- A fault record changes nothing of its tile but the fault queue. -/
theorem Dev.pushFault_tile (w : BitVec 128) : ∃ l, (d.pushFault b x w).tile b x = { d.tile b x with faultQ := l } := by
  unfold Dev.pushFault
  split
  · exact ⟨(d.tile b x).faultQ ++ [w], Dev.tile_updTile_same d b x _⟩
  · exact ⟨(d.tile b x).faultQ, rfl⟩

/-- CC_ERR after a command that ends with a status: the bit of its counter is set where it is not OK (R114). -/
def ccErrAfter (err : Nat) (e : QEntry) : Nat := if e.status = stOk then err else Nat.lor err (2 ^ cctrOf e.cmd)

theorem Dev.noteFault_tile (q : Nat) (e : QEntry) :
    ∃ l, (d.noteFault b x q e).tile b x = { d.tile b x with faultQ := l, ccErr := ccErrAfter (d.tile b x).ccErr e } := by
  by_cases hst : e.status = stOk
  · refine ⟨(d.tile b x).faultQ, ?_⟩
    rw [Dev.noteFault, Dev.when, if_neg (by rw [hst]; decide), ccErrAfter, if_pos hst]
  · obtain ⟨l, hl⟩ := Dev.pushFault_tile ((d.updTile b x fun t => { t with ccErr := Nat.lor t.ccErr (2 ^ cctrOf e.cmd) }).inc
      (r3 .QUEUE_ERR b x q) e.errField) b x (faultRecord e q d.beat)
    refine ⟨l, ?_⟩
    rw [Dev.noteFault, Dev.when_of _ (bne_iff_ne.mpr hst), ccErrAfter, if_neg hst]
    refine hl.trans ?_
    rw [Dev.inc, Dev.tile_addF, Dev.tile_updTile_same]

/-- The tile after a completion, its trace buffer apart: the command has left its queue, its counter is one higher, and CC_ERR and the
fault queue hold what its status adds. -/
theorem Dev.completeCmd_tile (q : Nat) (e : QEntry) (rest : List QEntry) :
    ∃ l, ((d.completeCmd b x q e rest).tile b x).sameBut
      { ((d.tile b x).setQueue q rest).setCc (cctrOf e.cmd) ((d.tile b x).ccOf (cctrOf e.cmd) + 1) with
        faultQ := l, ccErr := ccErrAfter (d.tile b x).ccErr e } := by
  obtain ⟨l, hl⟩ := Dev.noteFault_tile
    (d.updTile b x fun t => (t.setQueue q rest).setCc (cctrOf e.cmd) (t.ccOf (cctrOf e.cmd) + 1)) b x q e
  rw [Dev.tile_updTile_same] at hl
  refine ⟨l, Tile.sameBut_trans (Dev.trace_tile _ b x 2 q e.status _ e.idx) ?_⟩
  unfold Dev.when
  split
  · exact hl ▸ Dev.trace_tile _ b x 1 q 0 _ e.idx
  · exact hl ▸ Tile.sameBut_refl _

end Sys2Proof.Machine
end

section
/-! SUPPORT. Division (R85): a zero divisor at every width, the quotient that overflows, the low half of a 32-bit result; and how an ALU
instruction completes. -/

namespace Sys2Proof.Machine

variable {w : Nat} (old p : BitVec w)

theorem divExact_zero (a : Int) : divExact a 0 = (0, a) := if_pos rfl

variable {op : AluOp}

theorem aluResult_quotient_zero (h : op = .div ∨ op = .divu) : aluResult op w old p 0#w = 0#w := by
  rcases h with rfl | rfl
  · rw [aluResult, BitVec.toInt_zero, divExact_zero]
    rfl
  · rw [aluResult, if_pos BitVec.toNat_zero]
    rfl

theorem aluResult_remainder_zero (h : op = .rem ∨ op = .remu) : aluResult op w old p 0#w = p := by
  rcases h with rfl | rfl
  · rw [aluResult, BitVec.toInt_zero, divExact_zero]
    exact BitVec.ofInt_toInt
  · rw [aluResult, if_pos BitVec.toNat_zero]

/-- A quotient by -1 is exact, however inexact ones are rounded. -/
theorem divExact_neg_one (a : Int) : divExact a (-1) = (-a, 0) := by
  have hdvd : (-1 : Int) ∣ a := (Int.isUnit_iff.mpr (.inr rfl)).dvd
  have hq : (if Config.divFloors then Int.fdiv a (-1) else Int.tdiv a (-1)) = -a := by
    rw [Int.fdiv_eq_ediv_of_dvd hdvd, Int.tdiv_eq_ediv_of_dvd hdvd, ite_self, Int.ediv_neg, Int.ediv_one]
  rw [divExact, if_neg (by decide), hq]
  exact Prod.ext rfl (by change a - -a * -1 = 0; omega)

theorem aluResult_div_neg_one {q : BitVec w} (hq : q.toInt = -1) : aluResult .div w old p q = -p := by
  rw [aluResult, hq, divExact_neg_one, BitVec.ofInt_neg, BitVec.ofInt_toInt]

theorem aluResult_rem_neg_one {q : BitVec w} (hq : q.toInt = -1) : aluResult .rem w old p q = 0#w := by
  rw [aluResult, hq, divExact_neg_one]
  rfl

/-- The low half of two words joined is the second. -/
theorem setWidth_append_low {n : Nat} (hi lo : BitVec n) : (hi ++ lo).setWidth n = lo :=
  BitVec.setWidth_append.trans ((dif_pos (Nat.le_refl n)).trans (BitVec.setWidth_eq lo))

/-- A 32-bit operation leaves its result in the low half (R83). -/
theorem setWidth_aluWrite_narrow (old p q : W64) :
    (aluWrite op true old p q).setWidth 32 = aluResult op 32 (old.setWidth 32) (p.setWidth 32) (q.setWidth 32) :=
  setWidth_append_low _ _

section Alu
variable {b x a rb c : Nat} {narrow : Bool} {d : Dev} (hs : okSite b x = true) (ha : a < 32) (hrb : rb < 32) (hc : c < 32)
  (hi : d.issues b x ⟨0, some a, some rb, .reg (some c)⟩ = true) (hassigned : (!aluAssigned op || (aluUnary op && c != 0)) = false)
include hs ha hrb hc hi hassigned

theorem alu_completes : Completes (.alu b x false op narrow a rb c) d
    ((d.issued b x).updTile b x fun t => t.put a (aluWrite op narrow (t.reg a) (t.reg rb) (t.reg c))) :=
  completes_of_issue (execAlu b x false op narrow a rb c) rfl rfl (okSite_and_lt₃ hs ha hrb hc) hi hassigned rfl

/-- A 64-bit operation writes its result, whatever it is called. -/
theorem alu_completes_with {r : Tile → W64}
    (hr : aluResult op 64 (((d.issued b x).tile b x).reg a) (((d.issued b x).tile b x).reg rb) (((d.issued b x).tile b x).reg c) =
      r ((d.issued b x).tile b x)) :
    Completes (.alu b x false op false a rb c) d ((d.issued b x).updTile b x fun t => t.put a (r t)) :=
  completes_of_issue (execAlu b x false op false a rb c) rfl rfl (okSite_and_lt₃ hs ha hrb hc) hi hassigned
    (Dev.updTile_congr _ b x (congrArg (Tile.put _ a) hr))

end Alu

end Sys2Proof.Machine
end

section
/-! SUPPORT. The windows of a tile's counters and general registers (R115, R133): what a write does, and what GREG reads as. -/

namespace Sys2Proof.Machine

variable {d : Dev} {b x n : Nat} {v : W32}

theorem counterWrite_completes {cc : Bool} {i : Nat} (adds : W32) (hs : okSite b x = true) (hi : i < (if cc then 16 else 32))
    (hb : d.reaches (if cc then r3 .CC b x i else r3 .AC b x i).addr = true) :
    Completes (.counterWrite b x cc i v adds) d
      (d.updTile b x fun t => if cc then t.setCc i (v + adds) else t.setAc i (v + adds)) := by
  refine completes_of_meaning (execCounterWrite b x cc i v adds) rfl rfl (okSite_and_lt hs hi) ((Dev.busPutWith_reaches v adds hb).trans ?_)
  cases cc with
  | true => exact Dev.writeReg_CC d v adds b x i
  | false => exact Dev.writeReg_AC d v adds b x i

theorem gregWrite_completes {hi : Bool} (hs : okSite b x = true) (hn : n < 32)
    (hb : d.reaches (if hi then r3 .GREG_HI b x n else r3 .GREG_LO b x n).addr = true) :
    Completes (.gregWrite b x n hi v) d (d.writeGreg b x n hi v) := by
  refine completes_of_busPut (execGregWrite b x n hi v) rfl rfl (okSite_and_lt hs hn) hb ?_
  cases hi with
  | true => exact Dev.writeReg_GREG_HI d v 0 b x n
  | false => exact Dev.writeReg_GREG_LO d v 0 b x n

/-! ## The halves of a register -/

/-- A 64-bit word with one half replaced. -/
def withHalf (hi : Bool) (r : W64) (v : W32) : W64 := if hi then v ++ r.setWidth 32 else (r >>> 32).setWidth 32 ++ v

theorem halfWord_low (r : W64) : halfWord false r.toNat = r.setWidth 32 := by
  apply BitVec.eq_of_toNat_eq
  simp [halfWord]

theorem halfWord_high (r : W64) : halfWord true r.toNat = (r >>> 32).setWidth 32 := by
  apply BitVec.eq_of_toNat_eq
  simp [halfWord, Nat.shiftRight_eq_div_pow]

/-- The high half of two words joined is the first. -/
theorem setWidth_ushiftRight_append (u v : W32) : ((u ++ v) >>> 32).setWidth 32 = u := by
  have hu := u.isLt
  have hv := v.isLt
  apply BitVec.eq_of_toNat_eq
  rw [BitVec.toNat_setWidth, BitVec.toNat_ushiftRight, BitVec.toNat_append, ← Nat.shiftLeft_add_eq_or_of_lt hv, Nat.shiftLeft_eq,
    Nat.shiftRight_eq_div_pow]
  omega

theorem halfWord_withHalf_same (hi : Bool) (r : W64) (v : W32) : halfWord hi (withHalf hi r v).toNat = v := by
  cases hi with
  | true => exact (halfWord_high _).trans (setWidth_ushiftRight_append _ _)
  | false => exact (halfWord_low _).trans (setWidth_append_low _ _)

theorem halfWord_withHalf_other (hi : Bool) (r : W64) (v : W32) : halfWord (!hi) (withHalf hi r v).toNat = halfWord (!hi) r.toNat := by
  cases hi with
  | true => exact (halfWord_low _).trans ((setWidth_append_low _ _).trans (halfWord_low r).symm)
  | false => exact (halfWord_high _).trans ((setWidth_ushiftRight_append _ _).trans (halfWord_high r).symm)

/-! ## GREG -/

/-- The window's register of one half of general register n. -/
def gregHalf (b x n : Nat) (hi : Bool) : Reg := if hi then r3 .GREG_HI b x n else r3 .GREG_LO b x n

/-- A field that is the whole word is read whole. -/
theorem readWord_whole (w : W32) : readWord [⟨0, 32, .rw, 0⟩] w = w := by
  refine BitVec.eq_of_toNat_eq ((Field.put_toNat (f := ⟨0, 32, .rw, 0⟩) (by decide) 0 _).trans ?_)
  simp [Field.get, w.isLt]

/-- What a half of GREG reads as (R133). -/
theorem Dev.regRead_gregHalf (hi : Bool) :
    d.regRead (gregHalf b x n hi) = if (d.tile b x).halted then halfWord hi ((d.tile b x).reg n).toNat else 0 := by
  cases hi with
  | true => exact (Dev.regRead_direct rfl).trans (readWord_whole _)
  | false => exact (Dev.regRead_direct rfl).trans (readWord_whole _)

/-- Not halted, the core's registers stay as they are. -/
theorem Dev.writeGreg_tile_running (hi : Bool) (h : (d.tile b x).halted = false) :
    (d.writeGreg b x n hi v).tile b x = d.tile b x := by
  rw [Dev.writeGreg, Dev.tile_updTile_same, if_neg (Bool.eq_false_iff.mp h)]

theorem Dev.writeGreg_tile_halted (hi : Bool) (h : (d.tile b x).halted = true) :
    (d.writeGreg b x n hi v).tile b x = (d.tile b x).setReg n (withHalf hi ((d.tile b x).reg n) v) := by
  rw [Dev.writeGreg, Dev.tile_updTile_same, if_pos h]
  rfl

/-- Halted, the half written reads as the word written; g0 reads as zero (R79). -/
theorem Dev.regRead_writeGreg_same (hi : Bool) (h : (d.tile b x).halted = true) :
    (d.writeGreg b x n hi v).regRead (gregHalf b x n hi) = if n = 0 then 0 else v := by
  rw [Dev.regRead_gregHalf, Dev.writeGreg_tile_halted hi h, Tile.halted_setReg, if_pos h]
  split
  · next hn =>
    rw [hn, Tile.reg_zero]
    cases hi <;> rfl
  · next hn => rw [Tile.reg_setReg_same _ _ hn, halfWord_withHalf_same]

/-- The other half reads as before. -/
theorem Dev.regRead_writeGreg_other (hi : Bool) (h : (d.tile b x).halted = true) :
    (d.writeGreg b x n hi v).regRead (gregHalf b x n !hi) = d.regRead (gregHalf b x n !hi) := by
  rw [Dev.regRead_gregHalf, Dev.regRead_gregHalf, Dev.writeGreg_tile_halted hi h, Tile.halted_setReg, if_pos h, if_pos h]
  by_cases hn : n = 0
  · rw [hn]
    rfl
  · rw [Tile.reg_setReg_same _ _ hn, halfWord_withHalf_other]

end Sys2Proof.Machine
end

section
/-! The statements of the tile (spec/03_tile.md) settled. -/

namespace Sys2Proof.Proofs

open Sys2Proof Sys2Proof.Machine

/-- Settles O17: each of the four writes sets the counter to the word with the additions of its cycle on top. -/
theorem counterWriteThenAdditions : Obligations.CounterWriteThenAdditions := by
  refine ⟨fun b x rb c adds d hs hrb hc hi => ?_, fun b x rb c adds d hs hrb hc hi => ?_,
    fun b x i v adds d hs hi hb => ?_, fun b x i v adds d hs hi hb => ?_⟩
  · refine ⟨_, completes_of_issue (execAcwr b x false rb c adds) rfl rfl (okSite_and_lt₂ hs hrb hc) hi rfl rfl, ?_⟩
    rw [Dev.tile_updTile_same, Dev.reg_issued]
    exact Tile.acOf_setAc_same _ c _
  · refine ⟨_, completes_of_issue (execCcwr b x false rb c adds) rfl rfl (okSite_and_lt₂ hs hrb (by omega)) hi
      (decide_eq_false (Nat.not_le.mpr hc)) rfl, ?_⟩
    rw [Dev.tile_updTile_same, Dev.reg_issued]
    exact Tile.ccOf_setCc_same _ c _
  · refine ⟨_, counterWrite_completes (cc := false) adds hs hi hb, ?_⟩
    rw [Dev.tile_updTile_same]
    exact Tile.acOf_setAc_same _ i _
  · refine ⟨_, counterWrite_completes (cc := true) adds hs hi hb, ?_⟩
    rw [Dev.tile_updTile_same]
    exact Tile.ccOf_setCc_same _ i _

/-- Settles O18: the window reads and writes the core's own register, and only while the core is halted. -/
theorem gregNeedsHaltedCore : Obligations.GregNeedsHaltedCore := by
  refine ⟨fun b x n hi v d hs hn hlo hhi h => ?_, fun b x n hi v d hs hn hlo hhi h => ?_⟩
  · have hread (hi : Bool) : d.regRead (gregHalf b x n hi) = 0 := by rw [Dev.regRead_gregHalf, h]; rfl
    exact ⟨hread false, hread true, _, gregWrite_completes hs hn (by cases hi <;> assumption), Dev.writeGreg_tile_running hi h,
      d.setTile_tiles_only b x _ d.tiles⟩
  · refine ⟨_, gregWrite_completes hs hn (by cases hi <;> assumption), Dev.regRead_writeGreg_same hi h, ?_⟩
    cases hi with
    | true => exact Dev.regRead_writeGreg_other true h
    | false => exact Dev.regRead_writeGreg_other false h

/-- Settles O19: no branch of the division takes an exception, and a quotient by -1 is exact, so that no rounding enters it. -/
theorem divisionCorners : Obligations.DivisionCorners := by
  refine ⟨fun b x a rb c op d hs ha hrb hc hi hzero => ?_, fun op old p q hzero => ?_, fun old => ?_, fun old => ?_⟩
  · have hzero' : ((d.issued b x).tile b x).reg c = 0#64 := (d.reg_issued b x c).trans hzero
    refine ⟨fun hop => alu_completes_with hs ha hrb hc hi (by rcases hop with rfl | rfl <;> rfl) ?_,
      fun hop => alu_completes_with hs ha hrb hc hi (by rcases hop with rfl | rfl <;> rfl) ?_⟩
    · rw [hzero']
      exact aluResult_quotient_zero _ _ hop
    · rw [hzero']
      exact aluResult_remainder_zero _ _ hop
  · rw [setWidth_aluWrite_narrow, hzero]
    exact ⟨aluResult_quotient_zero _ _, aluResult_remainder_zero _ _⟩
  · exact ⟨(aluResult_div_neg_one old _ (by decide)).trans BitVec.neg_intMin, aluResult_rem_neg_one old _ (by decide)⟩
  · exact ⟨(aluResult_div_neg_one old _ (by decide)).trans BitVec.neg_intMin, aluResult_rem_neg_one old _ (by decide)⟩

/-- Settles O20: the check of the bounds comes first, then that of the alignment, and the access is not made where one fails. -/
theorem loadStoreExceptions : Obligations.LoadStoreExceptions := by
  intro b x a rb size sgn imm d hs ha hrb hsize t ea isLoad isStore
  have hform : (size == .unassigned) = false := beq_eq_false_iff_ne.mpr hsize
  refine ⟨fun hout => ⟨fun hi => ?_, fun hi => ?_⟩, fun hin hmis => ⟨fun hi => ?_, fun hi => ?_⟩⟩
  · exact load_raises hs ha hrb hform hi (accessException_outside hout)
  · exact store_raises hs ha hrb hform hi (accessException_outside hout)
  · exact load_raises hs ha hrb hform hi (accessException_misaligned hin hmis)
  · exact store_raises hs ha hrb hform hi (accessException_misaligned hin hmis)

/-- Settles O21: what is not memory, a mark or its own tile a store leaves alone, and of the tile it moves the PC. -/
theorem storeFrame : Obligations.StoreFrame := by
  intro b x a rb size imm d hs ha hrb hi hsize t ea first hin hal
  obtain ⟨util, hutil⟩ := d.issued_tile b x
  have hea : ((d.issued b x).tile b x).effAddr rb imm = ea := by rw [Tile.effAddr, Dev.reg_issued]
  have hc := store_completes hs ha hrb (beq_eq_false_iff_ne.mpr hsize) hi (by rw [hea]; exact accessException_none hin hal)
  rw [hea, Dev.reg_issued] at hc
  refine ⟨_, hc, fun i hlt => ?_, fun p hp => ?_, d.write_setTile_rest b x _ _ _, fun b' x' hs' hne => ?_, ?_, ?_⟩
  · have hlen : i < (bytesLE (t.reg a).toNat (sizeBytes size)).length := by rwa [length_bytesLE]
    exact (Dev.byte_write_same (d.issued b x) first _ [] i hlen).trans (getElem_bytesLE _ hlen)
  · exact Dev.byte_write_other (d.issued b x) first _ [] (by rwa [length_bytesLE])
  · have hkey := site_key_ne hs hs' hne
    rw [Dev.tile_setTile_other _ _ _ _ hkey, Dev.tile_write, Dev.tile_issued_other d hkey]
  · rw [Dev.tile_setTile_same, hutil]; rfl
  · rw [Dev.tile_setTile_same, hutil]; rfl

/-- Settles O22: each of the five is an effect on its tile alone, which writes register A or the PC. -/
theorem registerInstructionFrame : Obligations.RegisterInstructionFrame := by
  intro b x a rb c op narrow imm long cond d hs ha hrb hc hop hun hcond
  simp only [List.forall_mem_cons]
  refine ⟨fun hi => ⟨_, alu_completes hs ha hrb hc hi (by rw [hop, hun]; rfl), ?_⟩,
    fun hi => ⟨_, completes_of_issue (execAluImm b x false op narrow a rb imm) rfl rfl (okSite_and_lt₂ hs ha hrb) hi
      (by rw [hop, hun]; rfl) rfl, ?_⟩,
    fun hi => ⟨_, completes_of_issue (execLui b x a long) rfl rfl (okSite_and_lt hs ha) hi rfl rfl, ?_⟩,
    fun hi => ⟨_, completes_of_issue (execJal b x a long) rfl rfl (okSite_and_lt hs ha) hi rfl rfl, ?_⟩,
    fun hi => ⟨_, completes_of_issue (execBranch b x cond a rb imm) rfl rfl (okSite_and_lt₂ hs ha hrb) hi
      (beq_eq_false_iff_ne.mpr hcond) rfl, ?_⟩,
    fun _ h => absurd h List.not_mem_nil⟩
  · exact registerFrame_of_updTile d hs fun t => writesRegister_put a _ t
  · exact registerFrame_of_updTile d hs fun t => writesRegister_put a _ t
  · exact registerFrame_of_updTile d hs fun t => writesRegister_put a _ t
  · exact registerFrame_of_updTile d hs fun t => writesRegister_setReg a _ _ t
  · refine registerFrame_of_updTile d hs fun t => ?_
    split
    · exact writesRegister_pc a _ t
    · exact writesRegister_pc a _ t

/-- Settles O23, from the tile after a first exception: the trace record that goes with it changes nothing of the tile but its trace
buffer. That ERET clears the PC's bits [1:0] is the model's choice (log entry 120). -/
theorem exceptionEntryAndReturn : Obligations.ExceptionEntryAndReturn := by
  refine ⟨fun b x cause eval epc d h => ?_, fun b x d hs hi => ?_, fun b x d hs hi => ?_⟩
  · have e := Dev.takeException_tile cause eval epc h
    exact ⟨congrArg Tile.epc e, congrArg Tile.ecause e, congrArg Tile.eval e, congrArg Tile.inExc e, congrArg Tile.pc e,
      (congrArg Tile.g e :), (congrArg Tile.queues e :), (congrArg Tile.halted e :)⟩
  · exact completes_of_issue (execTrap b x false) rfl rfl hs hi rfl rfl
  · refine ⟨_, completes_of_issue (execEret b x false) rfl rfl hs hi rfl rfl, ?_⟩
    obtain ⟨util, hutil⟩ := d.issued_tile b x
    rw [Dev.tile_updTile_same, hutil]
    exact ⟨rfl, rfl, rfl, rfl⟩

/-- Settles O24, from the tile after a second exception; the raise comes last, so that it leaves the source pending. -/
theorem secondExceptionHalts : Obligations.SecondExceptionHalts := by
  intro b x cause eval epc d hb h
  have e := Dev.takeException_double_tile cause eval epc h
  have hpending : (d.takeException b x cause eval epc).pendingBit (164 + b) = true := by
    rw [Dev.takeException_double cause eval epc h]
    exact Dev.pendingBit_raise_same _ (by omega) (by omega)
  exact ⟨congrArg Tile.halted e, congrArg Tile.haltCause e, congrArg Tile.epc e, congrArg Tile.ecause e, congrArg Tile.eval e,
    (congrArg Tile.inExc e).trans h, (congrArg Tile.g e :), (congrArg Tile.pc e :), hpending⟩

/-- Settles O25: the wait is met, or ends at once by a zero timeout, or begins. -/
theorem waitEndsOrHolds : Obligations.WaitEndsOrHolds := by
  intro b x a rb c d hs ha hrb hc hi e t w reached
  have hwait : Completes (.waita b x false a rb c) d (e.waitOrGo b x w) :=
    completes_of_issue (execWaita b x false a rb c) rfl rfl (okSite_and_lt₃ hs ha hrb hc) hi rfl rfl
  refine ⟨fun h => ?_, fun h hen hto => ?_, fun h hto => ?_⟩
  · exact Dev.waitOrGo_met (w := w) (decide_eq_true h) ▸ hwait
  · exact Dev.waitOrGo_timedOut (w := w) (decide_eq_false h) hen hto ▸ hwait
  · have htile := Dev.beginWait_tile e b x w
    exact ⟨_, Dev.waitOrGo_waits (w := w) (decide_eq_false h) hto ▸ hwait, congrArg Tile.wait htile, (congrArg Tile.pc htile :),
      (congrArg Tile.g htile :)⟩

/-- Settles O26, from the tile after the completion: what its faults and its trace records change of the tile is no queue and no counter. -/
theorem completionAddsOne : Obligations.CompletionAddsOne := by
  intro b x q e rest d hs hq hhead hrun hended hway
  obtain ⟨l, htile⟩ := d.completeCmd_tile b x q e rest
  refine ⟨_, commandCompletion_completes hs hq hhead hrun hended hway, ?_, fun k hk => ?_, ?_, fun k hk => ?_,
    congrArg Tile.ccErr htile⟩
  · exact (congrArg (Tile.queue · q) htile).trans (Tile.queue_setQueue_same _ q rest)
  · exact (congrArg (Tile.queue · k) htile).trans (Tile.queue_setQueue_other _ rest hk)
  · exact (congrArg (Tile.ccOf · (cctrOf e.cmd)) htile).trans (Tile.ccOf_setCc_same _ _ _)
  · exact (congrArg (Tile.ccOf · k) htile).trans (Tile.ccOf_setCc_other _ _ hk)

/-- Settles O34: each instruction issues, and its form takes no exception. That a YIELD that waits goes on as its row comes again, and
that ERET clears the PC's bits [1:0], are the model's choices (log entries 13 and 120). -/
theorem coreComputeAndControlComplete : Obligations.CoreComputeAndControlComplete := by
  refine ⟨fun b x op narrow a rb c d hs ha hrb hc hi hx => ?_, fun b x op narrow a rb imm d hs ha hrb hi hx => ?_,
    fun b x a imm d hs ha hi => ?_, fun b x cond a rb imm d hs ha hrb hi hx => ?_, fun b x a imm d hs ha hi => ?_,
    fun b x a rb imm d hs ha hrb hi => ?_, fun b x a num d v t hs ha hi hread => ?_, fun b x rb num sets d t hs hrb hi hwrite => ?_,
    ⟨fun b x d hs hi => yield_completes hs hi, fun b x extra d hs hy hw hq => yield_completes_waiting extra hs hy hw hq⟩,
    fun b x d hs hi => ?_, fun b x d hs hi => ?_, fun b x d hs hi => ?_, fun b x d hs hi => ?_, fun b x d hs hi => ?_⟩
  · exact alu_completes hs ha hrb hc hi hx
  · exact completes_of_issue (execAluImm b x false op narrow a rb imm) rfl rfl (okSite_and_lt₂ hs ha hrb) hi hx rfl
  · exact completes_of_issue (execLui b x a imm) rfl rfl (okSite_and_lt hs ha) hi rfl rfl
  · exact completes_of_issue (execBranch b x cond a rb imm) rfl rfl (okSite_and_lt₂ hs ha hrb) hi hx rfl
  · exact completes_of_issue (execJal b x a imm) rfl rfl (okSite_and_lt hs ha) hi rfl rfl
  · intro t target haligned
    exact completes_of_issue (execJalr b x a rb imm) rfl rfl (okSite_and_lt₂ hs ha hrb) hi rfl (if_neg (not_not_intro haligned))
  · exact completes_of_issue (execCsrr b x false a num) rfl rfl (okSite_and_lt hs ha) hi rfl (by simp only [hread])
  · exact completes_of_issue (execCsrw b x false rb num sets) rfl rfl (okSite_and_lt hs hrb) hi rfl (by simp only [hwrite])
  · exact completes_of_issue (execIflush b x false) rfl rfl hs hi rfl rfl
  · exact completes_of_issue (execTrap b x false) rfl rfl hs hi rfl rfl
  · exact completes_of_issue (execEret b x false) rfl rfl hs hi rfl rfl
  · exact completes_of_issue (execHalt b x false) rfl rfl hs hi rfl rfl
  · exact completes_of_issue (execNop b x false) rfl rfl hs hi rfl rfl

/-- Settles O35: each instruction issues and its form takes no exception, or the wait under way ends. -/
theorem coreMemoryAndQueuesComplete : Obligations.CoreMemoryAndQueuesComplete := by
  refine ⟨fun b x size sgn a rb imm d hs ha hrb hi hx hfits hclean => load_completes hs ha hrb hx hi hfits hclean,
    fun b x size a rb imm d hs ha hrb hi hx hfits => store_completes hs ha hrb hx hi hfits,
    fun b x rb c d hs hrb hc hi hlegal hroom => ?_, fun b x d hs w hwait hwake hkind hmet => ?_,
    fun b x a rb c d hs ha hrb hc hi hlegal => ?_, fun b x a rb c d hs ha hrb hc hi => ?_,
    fun b x a rb c d hs ha hrb hc hi h16 => ?_, fun b x a rb d hs ha hrb hi => ?_,
    fun b x d hs w hwait hwake hkind hmet => ?_, fun b x d hs w hwait hwake hkind hen hmet hlate => ?_,
    fun b x a c d hs ha hc hi => ?_,
    fun b x rb c adds d hs hrb hc hi => ?_, fun b x rb c d hs hrb hc hi => ?_, fun b x a c d hs ha hc hi h16 => ?_,
    fun b x rb c adds d hs hrb hc hi h16 => ?_⟩
  · exact completes_of_issue (execPush b x false rb c) rfl rfl (okSite_and_lt₂ hs hrb hc) hi hlegal (if_pos hroom)
  · exact completes_of_meaning (execPushUnstall b x) rfl rfl hs
      (by simp only [hwait]; exact Dev.when_of _ (by rw [hwake, hkind, hmet]; rfl))
  · exact completes_of_issue (execPusht b x false a rb c) rfl rfl (okSite_and_lt₃ hs ha hrb hc) hi hlegal rfl
  · exact completes_of_issue (execWaita b x false a rb c) rfl rfl (okSite_and_lt₃ hs ha hrb hc) hi rfl rfl
  · exact completes_of_issue (execWaitc b x false a rb c) rfl rfl (okSite_and_lt₃ hs ha hrb hc) hi
      (decide_eq_false (Nat.not_le.mpr h16)) rfl
  · exact completes_of_issue (execWaitb b x false a rb) rfl rfl (okSite_and_lt₂ hs ha hrb) hi rfl rfl
  · exact completes_of_meaning (execWaitSatisfied b x) rfl rfl hs
      (by simp only [hwait]; exact Dev.when_of _ (by rw [hwake, hmet, bne_iff_ne.mpr hkind]; rfl))
  · exact completes_of_meaning (execWaitTimeout b x) rfl rfl hs
      (by simp only [hwait]; exact Dev.when_of _ (by rw [hwake, hen, hmet, bne_iff_ne.mpr hkind, decide_eq_true hlate]; rfl))
  · exact completes_of_issue (execAcrd b x false a c) rfl rfl (okSite_and_lt₂ hs ha hc) hi rfl rfl
  · exact completes_of_issue (execAcwr b x false rb c adds) rfl rfl (okSite_and_lt₂ hs hrb hc) hi rfl rfl
  · exact completes_of_issue (execAcadd b x false rb c) rfl rfl (okSite_and_lt₂ hs hrb hc) hi rfl rfl
  · exact completes_of_issue (execCcrd b x false a c) rfl rfl (okSite_and_lt₂ hs ha hc) hi
      (decide_eq_false (Nat.not_le.mpr h16)) rfl
  · exact completes_of_issue (execCcwr b x false rb c adds) rfl rfl (okSite_and_lt₂ hs hrb hc) hi
      (decide_eq_false (Nat.not_le.mpr h16)) rfl

/-- Settles O36: each command starts with every check passed, a completion or a streamed unit finds its condition. -/
theorem matrixCommandsComplete : Obligations.MatrixCommandsComplete := by
  refine ⟨fun b x q e d hs hq hrun hstart hop hv => ?_,
    fun b x q e rest d hs hq hhead hrun hended hway => commandCompletion_completes hs hq hhead hrun hended hway,
    fun b x e d hs hrun hstart hop hv => ?_, fun b x e d hs hrun hstart hop hv => ?_, fun b x e d hs hrun hstart hop hv => ?_,
    fun b x e d hs hrun hstart hop hv => ?_, fun b x e d hs hrun hstart hop hv => ?_,
    fun b x ch idx u rest d hs hch hunits hrun hfits => ?_⟩
  · exact completes_of_start (g := id) (execEngineNop b x q) rfl (okSite_and_lt hs hq) hrun hstart rfl hop hv rfl
  · exact completes_of_start_first (g := id) (execMma b x) rfl hs hrun hstart rfl hop hv rfl rfl (by decide)
  · exact completes_of_start (g := id) (execMmaSparse b x) rfl hs hrun hstart rfl hop hv rfl
  · exact completes_of_start (g := id) (execAccZero b x) rfl hs hrun hstart rfl hop hv rfl
  · exact completes_of_start (g := id) (execAccLoad b x) rfl hs hrun hstart rfl hop hv rfl
  · exact completes_of_start (g := id) (execAccStore b x) rfl hs hrun hstart rfl hop hv rfl
  · exact completes_of_meaning (execStreamUnitArrival b x ch) rfl rfl (okSite_and_lt hs hch)
      (by simp only [hunits]; exact Dev.when_of _ (by rw [hrun, decide_eq_true hfits]; rfl))

/-- Settles O37: each command starts with every check passed. -/
theorem vectorCommandsComplete : Obligations.VectorCommandsComplete :=
  ⟨fun b x _ _ hs hrun hstart hop hv =>
      completes_of_start_first (g := id) (execVecAdd b x) rfl hs hrun hstart rfl hop hv rfl rfl (by decide),
    fun b x _ _ hs hrun hstart hop hv => completes_of_start (g := id) (execVecMul b x) rfl hs hrun hstart rfl hop hv rfl,
    fun b x _ _ hs hrun hstart hop hv => completes_of_start (g := id) (execVecFma b x) rfl hs hrun hstart rfl hop hv rfl,
    fun b x _ _ hs hrun hstart hop hv => completes_of_start (g := id) (execVecMax b x) rfl hs hrun hstart rfl hop hv rfl,
    fun b x _ _ hs hrun hstart hop hv => completes_of_start (g := id) (execVecMin b x) rfl hs hrun hstart rfl hop hv rfl,
    fun b x _ _ hs hrun hstart hop hv => completes_of_start (g := id) (execScale b x) rfl hs hrun hstart rfl hop hv rfl,
    fun b x _ _ hs hrun hstart hop hv => completes_of_start (g := id) (execExp b x) rfl hs hrun hstart rfl hop hv rfl,
    fun b x _ _ hs hrun hstart hop hv => completes_of_start (g := id) (execRecip b x) rfl hs hrun hstart rfl hop hv rfl,
    fun b x _ _ hs hrun hstart hop hv => completes_of_start (g := id) (execRsqrt b x) rfl hs hrun hstart rfl hop hv rfl,
    fun b x _ _ hs hrun hstart hop hv => completes_of_start (g := id) (execCvt b x) rfl hs hrun hstart rfl hop hv rfl,
    fun b x _ _ hs hrun hstart hop hv => completes_of_start (g := id) (execSum b x) rfl hs hrun hstart rfl hop hv rfl,
    fun b x _ _ hs hrun hstart hop hv => completes_of_start (g := id) (execRmax b x) rfl hs hrun hstart rfl hop hv rfl,
    fun b x _ _ hs hrun hstart hop hv => completes_of_start (g := id) (execRng b x) rfl hs hrun hstart rfl hop hv rfl⟩

/-- Settles O38: each command starts with every check passed, on the device on which its row has found the errors of its words. -/
theorem transfersAndMessagesComplete : Obligations.TransfersAndMessagesComplete :=
  ⟨fun b x found _ _ hs hrun hstart hop hv =>
      completes_of_start_first (g := (·.find b x found)) (execCopy b x found) rfl hs hrun hstart rfl hop hv rfl rfl (by decide),
    fun b x found _ _ hs hrun hstart hop hv =>
      completes_of_start (g := (·.find b x found)) (execCopyd b x found) rfl hs hrun hstart rfl hop hv rfl,
    fun b x _ hs hrun => completes_of_meaning (execHeldPacketIssue b x) rfl rfl hs (Dev.when_of _ hrun),
    fun b x _ _ hs hrun hstart hop hv =>
      completes_of_start_first (g := id) (execMsgLoad b x) rfl hs hrun hstart rfl hop hv rfl rfl (by decide),
    fun b x _ _ hs hrun hstart hop hv => completes_of_start (g := id) (execMsgStore b x) rfl hs hrun hstart rfl hop hv rfl,
    fun b x _ _ hs hrun hstart hop hv => completes_of_start (g := id) (execAtomic b x) rfl hs hrun hstart rfl hop hv rfl,
    fun b x _ _ hs hrun hstart hop hv => completes_of_start (g := id) (execReduce b x) rfl hs hrun hstart rfl hop hv rfl,
    fun b x _ _ hs hrun hstart hop hv => completes_of_start (g := id) (execReduceAck b x) rfl hs hrun hstart rfl hop hv rfl,
    fun b x _ _ hs hrun hstart hop hv => completes_of_start (g := id) (execMcast b x) rfl hs hrun hstart rfl hop hv rfl,
    fun b x _ _ hs hrun hstart hop hv => completes_of_start (g := id) (execSignal b x) rfl hs hrun hstart rfl hop hv rfl,
    fun b x _ _ hs hrun hstart hop hv => completes_of_start (g := id) (execEvent b x) rfl hs hrun hstart rfl hop hv rfl,
    fun b x found _ _ hs hrun hstart hop hv =>
      completes_of_start_first (g := (·.find b x found)) (execLoftRead b x found) rfl hs hrun hstart rfl hop hv rfl rfl (by decide),
    fun b x found _ _ hs hrun hstart hop hv =>
      completes_of_start (g := (·.find b x found)) (execLoftWrite b x found) rfl hs hrun hstart rfl hop hv rfl,
    fun b x found _ _ hs hrun hstart hop hv =>
      completes_of_start (g := (·.find b x found)) (execLoftStream b x found) rfl hs hrun hstart rfl hop hv rfl,
    fun b x found _ _ hs hrun hstart hop hv =>
      completes_of_start_first (g := (·.find b x found)) (execScore b x found) rfl hs hrun hstart rfl hop hv rfl rfl (by decide)⟩

/-- Settles O39: each arrival, timeout and release has its condition, and each write of a tile register is carried out. -/
theorem tileArrivalsAndControlComplete : Obligations.TileArrivalsAndControlComplete := by
  refine ⟨fun b x pkt found d hs hrun hp => ?_, fun b x pkt d hs hrun hp => ?_, fun b x i d hs hi sl hsl hrun hlate => ?_,
    fun b x v d hs hb => ?_, fun b x v d hs hb => ?_, fun b x d hs hin hpend hreset hbeat => ?_, fun b x v d hs hb => ?_,
    fun b x v d hs hb => ?_, fun b x v d hs hb => ?_, fun b x cc i v adds d hs hi hb => counterWrite_completes adds hs hi hb,
    fun b x n hi v d hs hn hb => gregWrite_completes hs hn hb⟩
  · exact completes_of_meaning (execTargetTileArrival b x pkt found) rfl rfl hs (Dev.when_of _ (by rw [hrun, hp]; rfl))
  · exact completes_of_meaning (execReplyArrival b x pkt) rfl rfl hs (Dev.when_of _ (by rw [hrun, hp]; rfl))
  · exact completes_of_meaning (execSlotTimeout b x i) rfl rfl (okSite_and_lt hs hi)
      (by simp only [hsl]; exact Dev.when_of _ (by rw [hrun, decide_eq_true hlate]; rfl))
  · exact completes_of_busPut (execEventPost b x v) rfl rfl hs hb (Dev.writeReg_EVENT_POST d v 0 b x)
  · exact completes_of_busPut (execTileReset b x v) rfl rfl hs hb (Dev.writeReg_TILE_CTRL d v 0 b x)
  · exact completes_of_meaning (execTileResetRelease b x) rfl rfl hs
      (Dev.when_of _ (by rw [hin, hpend, hreset, decide_eq_true hbeat]; rfl))
  · exact completes_of_busPut (execTileRun b x v) rfl rfl hs hb (Dev.writeReg_TILE_CTRL d v 0 b x)
  · exact completes_of_busPut (execTileHalt b x v) rfl rfl hs hb (Dev.writeReg_TILE_CTRL d v 0 b x)
  · exact completes_of_busPut (execRemapPost b x v) rfl rfl hs hb (Dev.writeReg_TILE_CTRL d v 0 b x)

end Sys2Proof.Proofs
end

section
/-! SUPPORT. The barn's route loader (R176): what a write of its registers does; and the bundles that a tap has. -/

namespace Sys2Proof.Machine

/-- A write whose value lies below the bound that its row checks is accepted. -/
theorem Dev.writeOr_of_lt (d : Dev) (r : Reg) (v : W32) (onRej : Dev → Reject → Dev) {n bound : Nat} (h : n < bound) :
    d.writeOr r v (firstReject false false (decide (bound ≤ n))) onRej = d.store r v := by
  rw [decide_eq_false (Nat.not_le.mpr h)]
  rfl

section Loader
variable {d : Dev} {v : W32}

/-- A parent that names a site of the barn is accepted. -/
theorem Dev.writeLoader_RT_PARENT (b x : Nat) (h : Fld.RT_PARENT_PARENT.get v < 768) :
    d.writeLoader (r2 .RT_PARENT b x) v = d.store (r2 .RT_PARENT b x) v :=
  Dev.writeOr_of_lt d (r2 .RT_PARENT b x) v (fun d _ => d.inc (r1 .RT_STATUS b) Fld.RT_STATUS_REJ) h

/-- A map entry that names a site of the barn is accepted. -/
theorem Dev.writeLoader_RT_MAP (b t : Nat) (h : Fld.RT_MAP_SITE.get v < 768) :
    d.writeLoader (r2 .RT_MAP b t) v = d.store (r2 .RT_MAP b t) v :=
  Dev.writeOr_of_lt d (r2 .RT_MAP b t) v (fun d _ => d.inc (r1 .RT_STATUS b) Fld.RT_STATUS_REJ) h

/-- LOAD begins a load in a barn that is out of service. -/
theorem Dev.writeLoader_LOAD (b : Nat) (hv : Fld.RT_CTRL_LOAD.get v = 1) (hout : bitOf d.barnsIn b = false) :
    d.writeLoader (r1 .RT_CTRL b) v =
      (((d.setF (r1 .RT_CTRL b) Fld.RT_CTRL_LOAD 1).setF (r1 .RT_STATUS b) Fld.RT_STATUS_BUSY 1).setF (r1 .RT_STATUS b)
        Fld.RT_STATUS_DONE 0).setF (r1 .RT_STATUS b) Fld.RT_STATUS_NO_ROOT 0 := by
  have hload : Fld.RT_CTRL_LOAD.get v ≠ 0 := by omega
  exact (if_neg hload).trans (if_neg (Bool.eq_false_iff.mp hout))

end Loader

/-! ## Tap bundles (R181) -/

/-- The operands of a bundle's event name a tap and one of its five bundles. -/
theorem tapBundle_ok {b x n : Nat} (hs : okSite b x = true) (htap : isTap x = true) (hn : n < 5) :
    (okSite b x && isTap x && decide (n < 5)) = true :=
  Bool.and_eq_true_iff.mpr ⟨Bool.and_eq_true_iff.mpr ⟨hs, htap⟩, decide_eq_true hn⟩

end Sys2Proof.Machine
end

section
/-! The statements of the barn mesh (spec/05_barn_mesh.md) settled. -/

namespace Sys2Proof.Proofs

open Sys2Proof Sys2Proof.Machine

/-- Settles O40: each event's condition holds at its beat, and each switch is a write of its register that the bus carries out. -/
theorem routerAndScheduleComplete : Obligations.RouterAndScheduleComplete := by
  refine ⟨fun b x port pkt head body d hs hport hrun hhole => ?_, fun b x d hs hrun hen hidle hframe hstart => ?_,
    fun b x d hs hrun hhole hact heven hslot => ?_, fun b x d hs hrun hframe => ?_, fun b x out d hs hout hrun => ?_,
    fun b x v d hs hb => ?_, fun b x f v d hs hf hb => ?_, fun b x k v d hs hk hb => ?_⟩
  · exact completes_of_meaning (execRouterIngress b x port pkt head body) rfl rfl (Bool.and_eq_true_iff.mpr ⟨hs, hport⟩)
      (Dev.when_of _ (by rw [hrun, hhole]; rfl))
  · exact completes_of_meaning (execSchedStart b x) rfl rfl hs
      (Dev.when_of _ (by rw [hrun, hen, hidle, beq_iff_eq.mpr hframe, decide_eq_true hstart]; rfl))
  · exact completes_of_meaning (execSchedSlot b x) rfl rfl hs
      (Dev.when_of _ (by rw [hrun, hhole, hact, beq_iff_eq.mpr heven, decide_eq_true hslot]; rfl))
  · exact completes_of_meaning (execFrameBoundary b x) rfl rfl hs (Dev.when_of _ (by rw [hrun, beq_iff_eq.mpr hframe]; rfl))
  · exact completes_of_meaning (execAddStageResume b x out) rfl rfl (okSite_and_lt hs hout) (Dev.when_of _ hrun)
  · exact completes_of_busPut (execSchedEn b x v) rfl rfl hs hb (Dev.writeReg_RTR_CTRL d v 0 b x)
  · exact completes_of_busPut (execFlowEnable b x f v) rfl rfl (okSite_and_lt hs hf) hb (Dev.writeReg_FLOW_AC d v 0 b x f)
  · exact completes_of_busPut (execSinkEnable b x k v) rfl rfl (okSite_and_lt hs hk) hb (Dev.writeReg_SINK_CTR d v 0 b x k)

/-- Settles O41: the loader accepts each write, and each event has its condition. A rewrite goes on by the command's repetition until
the barn's buffers are empty. -/
theorem routesAndTapsComplete : Obligations.RoutesAndTapsComplete := by
  refine ⟨fun b x v d hs hb hv => ?_, fun b t v d hbarn ht hb hv => ?_, fun b v d hbarn hb hv hout => ?_, fun b d hbarn hbusy => ?_,
    fun b x d hs hm hgo => ?_, fun b x bundle d hs htap hn hin => ?_, fun b x bundle d hs htap hn hlen hin => ?_⟩
  · exact completes_of_busPut (execRtParentWrite b x v) rfl rfl hs hb
      ((Dev.writeReg_RT_PARENT d v 0 b x).trans (Dev.writeLoader_RT_PARENT b x hv))
  · exact completes_of_busPut (execRtMapWrite b t v) rfl rfl (Bool.and_eq_true_iff.mpr ⟨decide_eq_true hbarn, decide_eq_true ht⟩) hb
      ((Dev.writeReg_RT_MAP d v 0 b t).trans (Dev.writeLoader_RT_MAP b t hv))
  · exact completes_of_busPut (execRouteLoad b v) rfl rfl (decide_eq_true hbarn) hb
      ((Dev.writeReg_RT_CTRL d v 0 b).trans (Dev.writeLoader_LOAD b hv hout))
  · exact completes_of_meaning (execRouteLoadDone b) rfl rfl (decide_eq_true hbarn) (Dev.when_of _ hbusy)
  · exact completes_of_meaning (execRouteRewrite b x) rfl rfl hs (Dev.when_of _ (Bool.and_eq_true_iff.mpr ⟨hm, hgo⟩))
  · exact completes_of_meaning (execTapCrcError b x bundle) rfl rfl (tapBundle_ok hs htap hn) (Dev.when_of _ hin)
  · exact completes_of_meaning (execTapBundleRetire b x bundle) rfl rfl (tapBundle_ok hs htap hn)
      (Dev.when_of _ (Bool.and_eq_true_iff.mpr ⟨decide_eq_true hlen, hin⟩))

/-- Settles O59: a region's test begins and ends in its turn, and each of the other events has its condition. That one command both begins
a test and, repeated, ends it, with the next due by the beat of the last, is the model's choice (log entry 66). -/
theorem farrierAndReentryComplete : Obligations.FarrierAndReentryComplete := by
  refine ⟨⟨fun r failed d hunits hbusy hdue hen hturn => ?_, fun r failed d hunits hbusy hregion => ?_⟩,
    fun b x d hs c hsince hm hlate => ?_, fun b half ok d hbarn hhalf a hact hm hrun hdue => ?_, fun r d hr hm hworn => ?_,
    fun b d hbarn hmay htrip hcool hstage => ?_⟩
  · exact completes_of_meaning (execFarrierRegionTest r failed) rfl rfl hunits ((if_neg (Bool.eq_false_iff.mp hbusy)).trans
      (Dev.when_of _ (by rw [hen, beq_iff_eq.mpr hturn, decide_eq_true hdue]; rfl)))
  · exact completes_of_meaning (execFarrierRegionTest r failed) rfl rfl hunits
      ((if_pos hbusy).trans (Dev.when_of _ (beq_iff_eq.mpr hregion)))
  · exact completes_of_meaning (execRemapForwardEnd b x) rfl rfl hs
      (by simp only [hsince]; exact Dev.when_of _ (by rw [hm, decide_eq_true hlate]; rfl))
  · exact completes_of_meaning (execScheduleReplace b half ok) rfl rfl
      (Bool.and_eq_true_iff.mpr ⟨decide_eq_true hbarn, decide_eq_true hhalf⟩)
      (by simp only [hact]; exact Dev.when_of _ (by rw [hm, hrun, hdue]; rfl))
  · exact completes_of_meaning (execBarnExit r) rfl rfl (decide_eq_true hr) (Dev.when_of _ (by rw [hm, hworn]; rfl))
  · exact completes_of_meaning (execBarnReentry b) rfl rfl (decide_eq_true hbarn)
      (Dev.when_of _ (by rw [Bool.and_eq_true_iff.mpr ⟨hmay, htrip⟩, hcool, decide_eq_true hstage]; rfl))

end Sys2Proof.Proofs
end

section
/-! SUPPORT. The striped window (R224): the places of the map by position among the stacks in force, and the offset that maps to a place. -/

namespace Sys2Proof.Machine

theorem nth_of_lt {α : Type} {l : List α} {i : Nat} (h : i < l.length) (d : α) : nth l i d = l[i] := by
  rw [nth, List.getElem?_eq_getElem h, Option.getD_some]

/-- No stack stands in the window twice: each number below 20 is taken once, by its bit. -/
theorem Dev.windowStacks_nodup (d : Dev) : d.windowStacks.Nodup := List.nodup_range.filter _

/-- A stack holds whole units of 4,096 bytes. -/
theorem stackBytes_units : stackBytes = 20971520 * 4096 := by decide

/-- The window's offset that maps to address a of the i-th stack in force, as R224 read backwards. -/
def Dev.windowOffset (d : Dev) (i a : Nat) : Nat := (d.windowStacks.length * (a / 4096) + i) * 4096 + a % 4096

section Window
variable (d : Dev) {o i a : Nat}

theorem Dev.windowMap_snd (o : Nat) : (d.windowMap o).2 = o / 4096 / d.windowStacks.length * 4096 + o % 4096 := rfl

/-- Whole units of a stack come in turn with the other stacks'; within its unit a byte keeps its place. -/
theorem Dev.windowMap_snd_div (o : Nat) : (d.windowMap o).2 / 4096 = o / 4096 / d.windowStacks.length := by
  rw [Dev.windowMap_snd]; omega

theorem Dev.windowMap_snd_mod (o : Nat) : (d.windowMap o).2 % 4096 = o % 4096 := by
  rw [Dev.windowMap_snd]; omega

/-- Of every offset the map loses nothing: the position of its stack and its stack address give it back. -/
theorem Dev.windowOffset_windowMap (o : Nat) :
    d.windowOffset (o / 4096 % d.windowStacks.length) (d.windowMap o).2 = o := by
  rw [Dev.windowOffset, Dev.windowMap_snd_div, Dev.windowMap_snd_mod, Nat.div_add_mod, Nat.div_add_mod']

/-- An offset below the window's size leaves a stack to map to. -/
theorem Dev.windowStacks_pos (ho : o < d.windowBytes) : 0 < d.windowStacks.length :=
  Nat.pos_of_mul_pos_right (Nat.zero_lt_of_lt ho)

theorem Dev.windowMap_fst (hw : 0 < d.windowStacks.length) (o : Nat) :
    (d.windowMap o).1 = d.windowStacks[o / 4096 % d.windowStacks.length]'(Nat.mod_lt _ hw) :=
  nth_of_lt (Nat.mod_lt _ hw) 0

theorem Dev.windowMap_snd_lt (ho : o < d.windowBytes) : (d.windowMap o).2 < stackBytes := by
  have hunit : o / 4096 < d.windowStacks.length * 20971520 := by
    rw [Dev.windowBytes, stackBytes_units, ← Nat.mul_assoc] at ho
    exact Nat.div_lt_of_lt_mul (Nat.mul_comm _ 4096 ▸ ho)
  have hrow : (d.windowMap o).2 / 4096 < 20971520 := by
    rw [Dev.windowMap_snd_div]
    exact Nat.div_lt_of_lt_mul hunit
  rw [stackBytes_units]
  omega

theorem Dev.windowOffset_lt (hi : i < d.windowStacks.length) (ha : a < stackBytes) : d.windowOffset i a < d.windowBytes := by
  have hrow : a / 4096 + 1 ≤ 20971520 := by
    rw [stackBytes_units] at ha
    omega
  have hunits := Nat.mul_le_mul_left d.windowStacks.length hrow
  rw [Nat.mul_succ] at hunits
  rw [Dev.windowOffset, Dev.windowBytes, stackBytes_units, ← Nat.mul_assoc]
  omega

theorem Dev.windowMap_windowOffset (hi : i < d.windowStacks.length) (a : Nat) :
    d.windowMap (d.windowOffset i a) = (d.windowStacks[i], a) := by
  have hunit : d.windowOffset i a / 4096 = d.windowStacks.length * (a / 4096) + i := by unfold Dev.windowOffset; omega
  have hbyte : d.windowOffset i a % 4096 = a % 4096 := by unfold Dev.windowOffset; omega
  have hcol : d.windowOffset i a / 4096 % d.windowStacks.length = i := by rw [hunit, Nat.mul_add_mod, Nat.mod_eq_of_lt hi]
  have hrow : d.windowOffset i a / 4096 / d.windowStacks.length = a / 4096 := by
    rw [hunit, Nat.mul_add_div (Nat.zero_lt_of_lt hi), Nat.div_eq_of_lt hi, Nat.add_zero]
  refine Prod.ext ?_ ?_
  · simp only [d.windowMap_fst (Nat.zero_lt_of_lt hi), hcol]
  · calc (d.windowMap (d.windowOffset i a)).2
        = a / 4096 * 4096 + a % 4096 := by rw [Dev.windowMap_snd, hrow, hbyte]
      _ = a := Nat.div_add_mod' a 4096

/-- Offsets with one place lie in one column, since no stack stands twice, and have one stack address. -/
theorem Dev.windowMap_inj {p : Nat} (ho : o < d.windowBytes) (h : d.windowMap o = d.windowMap p) : o = p := by
  have hw := d.windowStacks_pos ho
  have hcol : o / 4096 % d.windowStacks.length = p / 4096 % d.windowStacks.length :=
    (d.windowStacks_nodup.getElem_inj_iff).mp ((d.windowMap_fst hw o).symm.trans ((congrArg Prod.fst h).trans (d.windowMap_fst hw p)))
  rw [← d.windowOffset_windowMap o, ← d.windowOffset_windowMap p, hcol, h]

end Window

end Sys2Proof.Machine
end

section
/-! The statements of the loft and the HBM (spec/06_loft_and_hbm.md) settled. -/

namespace Sys2Proof.Proofs

open Sys2Proof Sys2Proof.Machine

/-- Settles O28: the offset of each place, by the position of its stack, inverts the map. -/
theorem windowMapIsOneToOne : Obligations.WindowMapIsOneToOne := by
  refine ⟨fun d o ho => ⟨?_, d.windowMap_snd_lt ho⟩, fun d o p ho _ h => d.windowMap_inj ho h, fun d n a hn ha => ?_⟩
  · exact d.windowMap_fst (d.windowStacks_pos ho) o ▸ List.getElem_mem _
  · obtain ⟨i, hi, rfl⟩ := List.getElem_of_mem hn
    exact ⟨d.windowOffset i a, d.windowOffset_lt hi ha, d.windowMap_windowOffset hi a⟩

/-- Settles O42: each coil event and the scrub have their conditions, and each register is a write that the bus carries out. That an
invalidation's end is a command of its own is the model's choice (log entry 34, DEDUCED). -/
theorem loftControlComplete : Obligations.LoftControlComplete := by
  refine ⟨fun b x die d hs hdie hin => ?_, fun b x die d hs hdie hlen hin => ?_, fun b x off ecc d hs hoff hen hin => ?_,
    fun b x which v d hs hw hb => ?_, fun b x v d hs hb hv => ?_, fun b x d hs => ?_⟩
  · exact completes_of_meaning (execCoilCrcError b x die) rfl rfl (okSite_and_lt hs hdie) (Dev.when_of _ (by rw [hin]; rfl))
  · exact completes_of_meaning (execCoilRetire b x die) rfl rfl (okSite_and_lt hs hdie)
      (Dev.when_of _ (by rw [decide_eq_true hlen, hin]; rfl))
  · exact completes_of_meaning (execLoftScrub b x off ecc) rfl rfl (okSite_and_lt hs hoff) (Dev.when_of _ (by rw [hen, hin]; rfl))
  · exact completes_of_busPut (execLoftCtrlWrite b x which v) rfl rfl (okSite_and_lt hs hw) hb (Dev.writeReg_loft d v 0 b x which hw)
  · exact completes_of_busPut (execLoftInv b x v) rfl rfl hs hb ((Dev.writeReg_LOFT_INV d v 0 b x).trans (if_pos hv))
  · exact completes_of_meaning (execLoftInvDone b x) rfl rfl hs rfl

/-- Settles O44: each event has its condition at its beat, on the line, tracker, fetch or waiting read that its operands find. -/
theorem stackEventsComplete : Obligations.StackEventsComplete := by
  refine ⟨fun n passed d hn hphase htrained hretired => ?_, fun n d hn hin hbeat => ?_, fun n d hn hin hbeat => ?_,
    fun n t d hn ht hin hbeat => ?_, fun n addr ecc sev d hn haddr hin hen => ?_, fun n pkt found sev d hn hreq hturn => ?_,
    fun n line found sev d hn f hf hlive => ?_, fun n line d hn b hb hold => ?_, fun n i d hn t ht hidle => ?_,
    fun n i d hn p hp c hc hstop hlate => ?_⟩
  · exact completes_of_meaning (execHbmTraining n passed) rfl rfl (decide_eq_true hn)
      (Dev.when_of _ (by rw [beq_iff_eq.mpr hphase, htrained, hretired]; rfl))
  · exact completes_of_meaning (execHbmTracking n) rfl rfl (decide_eq_true hn)
      (Dev.when_of _ (Bool.and_eq_true_iff.mpr ⟨hin, beq_iff_eq.mpr hbeat⟩))
  · exact completes_of_meaning (execHbmThermalUpdate n) rfl rfl (decide_eq_true hn)
      (Dev.when_of _ (Bool.and_eq_true_iff.mpr ⟨hin, beq_iff_eq.mpr hbeat⟩))
  · exact completes_of_meaning (execHbmReadout n t) rfl rfl (Bool.and_eq_true_iff.mpr ⟨decide_eq_true hn, decide_eq_true ht⟩)
      (Dev.when_of _ (Bool.and_eq_true_iff.mpr ⟨hin, beq_iff_eq.mpr hbeat⟩))
  · exact completes_of_meaning (execHbmScrub n addr ecc sev) rfl rfl
      (Bool.and_eq_true_iff.mpr ⟨decide_eq_true hn, decide_eq_true haddr⟩)
      (Dev.when_of _ (Bool.and_eq_true_iff.mpr ⟨hin, hen⟩))
  · exact completes_of_meaning (execHbmRequest n pkt found sev) rfl rfl (decide_eq_true hn)
      (Dev.when_of _ (by rw [hreq, hturn]; rfl))
  · exact completes_of_meaning (execPrefetchFill n line found sev) rfl rfl (decide_eq_true hn)
      (by simp only [hf]; exact Dev.when_of _ (by rw [hlive]; rfl))
  · exact completes_of_meaning (execLineExpire n line) rfl rfl (decide_eq_true hn)
      (by simp only [hb]; exact Dev.when_of _ (decide_eq_true hold))
  · exact completes_of_meaning (execTrackerIdle n i) rfl rfl (decide_eq_true hn)
      (by simp only [ht]; exact Dev.when_of _ (decide_eq_true hidle))
  · exact completes_of_meaning (execHbmCommandTimeout n i) rfl rfl (decide_eq_true hn)
      (by simp only [hp, hc]; exact Dev.when_of _ (by rw [hstop, decide_eq_true hlate]; rfl))

end Sys2Proof.Proofs
end

section
/-! SUPPORT. How a flit and a control message of an optical link complete (R234, R236), and the power control and the failure of a
laser (R250, R251). -/

namespace Sys2Proof.Machine

/-- A control message of its row's type acts on the link whose receiving port router is not in reset (R236). -/
theorem completes_of_ctlRow {c : Sys2Proof.Instr} {ty wg dir : Nat} {msg : W128} {f : Dev → Dev} {d : Dev} (m : State → Out)
    (hc : exec c = m) (hm : m = fun s => ctlRow ty wg dir msg s f) (hwg : okWg wg dir = true) (hty : msgBits msg 7 0 = ty)
    (hin : d.inReset (dirEnds (linkOf wg) dir).2 = false) : Completes c d (f (d.takeCtl (linkOf wg) dir msg)) :=
  completes_of_meaning m hc hm hwg (Dev.when_of _ (by rw [beq_iff_eq.mpr hty, hin]; rfl))

/-- A flit that arrives is taken where it is a control flit, or where lanes carry its payload (R234). -/
theorem opticalFlitReceive_completes {wg dir seq : Nat} {words : List (BitVec 68)} {flit : Flit} {d : Dev} (hwg : okWg wg dir = true)
    (hseq : seq < 4096) (hin : d.inReset (dirEnds (linkOf wg) dir).2 = false) (hwords : wordsAre words flit = true)
    (hlanes : isControlFlit flit = true ∨ d.lanesFor (linkOf wg) dir seq ≠ []) :
    Completes (.opticalFlitReceive wg dir seq words flit) d (d.optFlit wg dir seq words flit) := by
  have hcarried : (isControlFlit flit || !(d.lanesFor (linkOf wg) dir seq).isEmpty) = true := by
    rwa [Bool.or_eq_true, Bool.not_eq_true', List.isEmpty_eq_false_iff]
  exact completes_of_meaning (execOpticalFlitReceive wg dir seq words flit) rfl rfl
    (Bool.and_eq_true_iff.mpr ⟨hwg, decide_eq_true hseq⟩) (Dev.when_of _ (by rw [hin, hwords, hcarried]; rfl))

/-- A laser that is neither FAILED nor RETIRED can fail (R251). -/
theorem laserFail_completes {k j : Nat} {d : Dev} (hlaser : okLaser k j = true) (h5 : d.feed k j Fld.FEED_STATE ≠ 5)
    (h6 : d.feed k j Fld.FEED_STATE ≠ 6) : Completes (.laserFail k j) d (d.failLaser k j) :=
  completes_of_meaning (execLaserFail k j) rfl rfl hlaser
    (Dev.when_of _ (Bool.and_eq_true_iff.mpr ⟨bne_iff_ne.mpr h5, bne_iff_ne.mpr h6⟩))

/-- Power control steps a laser that is lit, by the margin of what it feeds (R250). -/
theorem apcUpdate_completes {k j yard m : Nat} {d : Dev} (hlaser : okLaser k j = true) (hbeat : d.beat % 10000 = 0)
    (hen : d.flag (r0 .LANT_CTRL) Fld.LANT_CTRL_APC_EN = true)
    (hlit : (d.feed k j Fld.FEED_STATE == 1 || d.feed k j Fld.FEED_STATE == 2) = true)
    (hm : (if 56 ≤ j then some yard else (d.laserGroup k j).bind fun g => d.feedMargin (laserWave k j) g) = some m) :
    Completes (.apcUpdate k j yard) d (d.powerStep k j m) :=
  completes_of_meaning (execApcUpdate k j yard) rfl rfl hlaser
    ((Dev.when_of _ (by rw [beq_iff_eq.mpr hbeat, hen, hlit]; rfl)).trans (by simp only [hm]))

end Sys2Proof.Machine
end

section
/-! The statements of the Jenong base (spec/07_jenong_base.md) settled. -/

namespace Sys2Proof.Proofs

open Sys2Proof Sys2Proof.Machine

/-- Settles O46: each event of a port router has its condition, on the packet, tag or report that its operands find, and a reset is a
write of PORT_CTRL. -/
theorem portRouterEventsComplete : Obligations.PortRouterEventsComplete := by
  refine ⟨fun p inp pkt d hp hinp hin => ?_, fun p tag d hp htag hin i k hk => ?_,
    fun b x member target n d hs hmember htarget hrun => ?_, fun p pkt d hp hled hin hfront => ?_, fun p d hp hhold hfull => ?_,
    fun p v d hp hb => ?_, fun p d hp hin => ?_, fun p d hp hm hstuck hin => ?_, fun p d hp hm hvalid => ?_, fun p d hp hm hin => ?_⟩
  · exact completes_of_meaning (execPortRouterPacket p inp pkt) rfl rfl
      (Bool.and_eq_true_iff.mpr ⟨decide_eq_true hp, decide_eq_true hinp⟩) (Dev.when_of _ (by rw [hin]; rfl))
  · exact completes_of_meaning (execTagFree p tag) rfl rfl (Bool.and_eq_true_iff.mpr ⟨decide_eq_true hp, decide_eq_true htag⟩)
      ((Dev.when_of _ (by rw [hin]; rfl)).trans (by simp only [hk]))
  · exact completes_of_meaning (execCreditReturnRelease b x member target n) rfl rfl (okSite_and_lt₂ hs hmember htarget)
      (Dev.when_of _ hrun)
  · exact completes_of_meaning (execLedgerExecute p pkt) rfl rfl (decide_eq_true hp)
      (Dev.when_of _ (by rw [hled, hin, hfront]; rfl))
  · exact completes_of_meaning (execLedgerHoldRelease p) rfl rfl (decide_eq_true hp) (Dev.when_of _ (by rw [hhold, hfull]; rfl))
  · exact completes_of_busPut (execPortReset p v) rfl rfl (decide_eq_true hp) hb (Dev.writeReg_PORT_CTRL d v 0 p)
  · exact completes_of_meaning (execPortResetEnd p) rfl rfl (decide_eq_true hp) (Dev.when_of _ hin)
  · exact completes_of_meaning (execPortHang p) rfl rfl (decide_eq_true hp) (Dev.when_of _ (by rw [hm, hstuck, hin]; rfl))
  · exact completes_of_meaning (execLossReport p) rfl rfl (decide_eq_true hp) (Dev.when_of _ (by rw [hm, hvalid]; rfl))
  · exact completes_of_meaning (execPortUncorrectableError p) rfl rfl (decide_eq_true hp) (Dev.when_of _ (by rw [hm, hin]; rfl))

/-- Settles O47: a flit and each control message arrive where the receiving port router is not in reset, and a pair fails and returns
by the lanes that its directions have. -/
theorem opticalLinkMessagesComplete : Obligations.OpticalLinkMessagesComplete := by
  refine ⟨fun wg dir seq words flit d hwg hseq hin hwords hlanes => opticalFlitReceive_completes hwg hseq hin hwords hlanes,
    fun wg dir msg d hwg hty hin => ?_, fun wg dir msg d hwg hty hin => ?_, fun wg dir msg d hwg hty hin => ?_,
    fun wg dir msg d hwg hty hin => ?_, fun wg dir msg d hwg hty hin => ?_, fun wg dir msg d hwg hty hin => ?_,
    fun wg dir d hwg t ht hup hlate => ?_, fun wg d hwg hfailed h0 h1 => ?_⟩
  · exact completes_of_ctlRow (execAck wg dir msg) rfl rfl hwg hty hin
  · exact completes_of_ctlRow (execNack wg dir msg) rfl rfl hwg hty hin
  · exact completes_of_ctlRow (execCredit wg dir msg) rfl rfl hwg hty hin
  · exact completes_of_ctlRow (execLaneMap wg dir msg) rfl rfl hwg hty hin
  · exact completes_of_ctlRow (execLaneMapAck wg dir msg) rfl rfl hwg hty hin
  · exact completes_of_ctlRow (execLaneReq wg dir msg) rfl rfl hwg hty hin
  · exact completes_of_meaning (execPairFail wg dir) rfl rfl hwg
      (by simp only [ht]; exact Dev.when_of _ (by rw [hup, decide_eq_true hlate]; rfl))
  · exact completes_of_meaning (execPairReturn wg) rfl rfl hwg (Dev.when_of _ (by rw [hfailed, h0, h1]; rfl))

/-- Settles O48: a ring is tuned and its margin reported in every state, and each of the other events has its condition, on the check,
retry or training whose beat the device keeps. The loop's gain ringKi is the model's reading (log entry 134, DEDUCED). -/
theorem ringAndLaneEventsComplete : Obligations.RingAndLaneEventsComplete := by
  refine ⟨fun wg dir tx n err d hring => ?_, fun wg dir tx n d hring hbeat => ?_, fun wg dir tx n d hring hlocked hloose => ?_,
    fun wg dir tx n off d hring hlow hhigh hfree hdark => ?_, fun wg dir tx up d hwg hen hnone hfar hout => ?_,
    fun wg dir lane errors d hring t ht hdue => ?_, fun wg dir lane d hring t ht hdue => ?_,
    fun wg dir sweepTx sweepRx errors d hwg t ht hnew => ?_, fun wg dir lane margin d hring => ?_⟩
  · exact completes_of_meaning (execRingTune wg dir tx n err) rfl rfl hring rfl
  · exact completes_of_meaning (execRingFeedforward wg dir tx n) rfl rfl hring (Dev.when_of _ (beq_iff_eq.mpr hbeat))
  · exact completes_of_meaning (execRingLockLoss wg dir tx n) rfl rfl hring
      (Dev.when_of _ (Bool.and_eq_true_iff.mpr ⟨hlocked, decide_eq_true hloose⟩))
  · exact completes_of_meaning (execRingRelock wg dir tx n off) rfl rfl (by rw [hring, decide_eq_true hlow, decide_eq_true hhigh]; rfl)
      (Dev.when_of _ (by rw [hfree, hdark]; rfl))
  · exact completes_of_meaning (execRehop wg dir tx up) rfl rfl hwg (Dev.when_of _ (Bool.and_eq_true_iff.mpr
      ⟨Bool.and_eq_true_iff.mpr ⟨Bool.and_eq_true_iff.mpr ⟨hen, hnone⟩, hfar⟩, hout⟩))
  · exact completes_of_meaning (execPatternCheckDone wg dir lane errors) rfl rfl hring
      (by simp only [ht]; exact Dev.when_of _ (decide_eq_true hdue))
  · exact completes_of_meaning (execPatternRetry wg dir lane) rfl rfl hring
      (by simp only [ht]; exact Dev.when_of _ (decide_eq_true hdue))
  · exact completes_of_meaning (execLinkTraining wg dir sweepTx sweepRx errors) rfl rfl hwg
      (by simp only [ht]; exact Dev.when_of _ (by rw [hnew]; rfl))
  · exact completes_of_meaning (execMarginReport wg dir lane margin) rfl rfl hring rfl

/-- Settles O49: each event of a laser or a module has its condition, on the margin, switch or beat that the device keeps for it, and a
planned removal and a lantern bus transfer are writes of their registers. -/
theorem laserAndModuleEventsComplete : Obligations.LaserAndModuleEventsComplete := by
  refine ⟨fun k j yard d hlaser hbeat hen hlit m hm => apcUpdate_completes hlaser hbeat hen hlit hm,
    fun k j d hlaser h5 h6 => laserFail_completes hlaser h5 h6, fun k j d hlaser hworn => ?_,
    fun k j locked d hlaser hj g w hw hstep => ?_, fun k j d hlaser hj g w hw hstep hchecked => ?_, fun k d hk hout => ?_,
    fun k code d hk t ht hdue hlow => ?_, fun k biasMax d hk hlit hnew => ?_, fun k low d hk => ?_, fun k v d hk hb hv => ?_,
    fun k d hk hrel hlate => ?_, fun k d hk t ht hdue hok hlate => ?_, fun k d hk hpresent => ?_, fun v d hb => ?_,
    fun ack data d hgo => ?_, fun k d hk hpresent => ?_⟩
  · exact completes_of_meaning (execSpareSwitchIn k j) rfl rfl hlaser (Dev.when_of _ hworn)
  · exact completes_of_meaning (execSpareLocked k j locked) rfl rfl (Bool.and_eq_true_iff.mpr ⟨hlaser, decide_eq_true hj⟩)
      (by simp only [hw]; exact Dev.when_of _ (beq_iff_eq.mpr hstep))
  · exact completes_of_meaning (execSwitchInComplete k j) rfl rfl (Bool.and_eq_true_iff.mpr ⟨hlaser, decide_eq_true hj⟩)
      (by simp only [hw]; exact Dev.when_of _ (Bool.and_eq_true_iff.mpr ⟨beq_iff_eq.mpr hstep, hchecked⟩))
  · exact completes_of_meaning (execModuleInsert k) rfl rfl (decide_eq_true hk) (Dev.when_of _ (by rw [hout]; rfl))
  · exact completes_of_meaning (execModuleResetRelease k code) rfl rfl (decide_eq_true hk)
      (by simp only [ht]; exact Dev.when_of _ (by rw [decide_eq_true hdue, hlow]; rfl))
  · exact completes_of_meaning (execModuleReady k biasMax) rfl rfl (decide_eq_true hk) (Dev.when_of _ (by rw [hlit, hnew]; rfl))
  · exact completes_of_meaning (execModuleReleaseReq k low) rfl rfl (decide_eq_true hk) rfl
  · exact completes_of_busPut (execModRelease k v) rfl rfl (decide_eq_true hk) hb ((Dev.writeReg_MOD_CTRL d v 0 k).trans (if_pos hv))
  · exact completes_of_meaning (execModuleDark k) rfl rfl (decide_eq_true hk) (Dev.when_of _ (by rw [hrel, hlate]; rfl))
  · exact completes_of_meaning (execModuleReleaseTimeout k) rfl rfl (decide_eq_true hk)
      (by simp only [ht]; exact Dev.when_of _ (by rw [decide_eq_true hdue, hok, hlate]; rfl))
  · exact completes_of_meaning (execUnplannedRemoval k) rfl rfl (decide_eq_true hk) (Dev.when_of _ hpresent)
  · exact completes_of_busPut (execI2cTransfer v) rfl rfl rfl hb (Dev.writeReg_LANT_I2C d v 0)
  · exact completes_of_meaning (execI2cDone ack data) rfl rfl rfl (Dev.when_of _ hgo)
  · exact completes_of_meaning (execModuleFault k) rfl rfl (decide_eq_true hk) (Dev.when_of _ hpresent)

end Sys2Proof.Proofs
end

section
/-! SUPPORT. The shapes that the rows of the yard fabric share: a message of a yard link (Table 08-1), and a write of a register of the
YARD block in which hardware sets no bit. -/

namespace Sys2Proof.Machine

/-- A message of its row's type is taken where its link is on and the gate is not in reset. -/
theorem completes_of_yardRow {c : Sys2Proof.Instr} {ty l : Nat} {msg : W128} {d : Dev} (m : State → Out) (hc : exec c = m)
    (hm : m = yardRow ty l msg) (hl : l < 32) (hty : msgBits msg 7 0 = ty) (hon : d.ylinkOn l = true)
    (hin : d.inReset (gateOf l) = false) : Completes c d (d.yardMsg l msg) :=
  completes_of_meaning m hc hm (decide_eq_true hl) (Dev.when_of _ (by rw [beq_iff_eq.mpr hty, hon, hin]; rfl))

/-- Such a write is what the block does with it. -/
theorem Dev.writeReg_yard_plain (d : Dev) (r : Reg) (v : W32) (hname : (r.name == .BRK_PENDING) = false)
    (hblock : r.name.block = .yard) (hw : w1cFields r.name.fields = []) : d.writeReg r v 0 = d.writeYard r v := by
  rw [d.writeReg_plain v 0 r hname hw, Dev.writeBlock, hblock]

end Sys2Proof.Machine
end

section
/-! SUPPORT. An atomic that the ledger of its port router holds complete (R286). -/

namespace Sys2Proof.Machine

/-- Registers laid out alike from different bases lie apart at the same index. -/
theorem r1_addr_ne (m n : RegName) (hbase : m.base ≠ n.base) (hdims : m.dims = n.dims) (i : Nat) :
    (r1 m i).addr ≠ (r1 n i).addr := by
  simpa [Reg.addr, r1, RegName.stride, hdims] using hbase

variable (d : Dev)

/-! ## Register fields leave memory, ports and packets -/

@[simp] theorem Dev.setF_mem (r : Reg) (f : Field) (v : Nat) : (d.setF r f v).mem = d.mem := d.wr_mem r _
@[simp] theorem Dev.setF_ports (r : Reg) (f : Field) (v : Nat) : (d.setF r f v).ports = d.ports := d.wr_ports r _
@[simp] theorem Dev.setF_net (r : Reg) (f : Field) (v : Nat) : (d.setF r f v).net = d.net := d.wr_net r _
@[simp] theorem Dev.inc_mem (r : Reg) (f : Field) : (d.inc r f).mem = d.mem := d.setF_mem r f _
@[simp] theorem Dev.inc_ports (r : Reg) (f : Field) : (d.inc r f).ports = d.ports := d.setF_ports r f _
@[simp] theorem Dev.inc_net (r : Reg) (f : Field) : (d.inc r f).net = d.net := d.setF_net r f _

/-- A counter's field after it counts one. -/
theorem Dev.getF_inc_same (r : Reg) {f : Field} (hf : f.fits) : (d.inc r f).getF r f = (d.getF r f + 1) % 2 ^ f.width :=
  d.getF_setF_same r hf _

theorem Dev.getF_send (l : Place) (k : Packet) (r : Reg) (f : Field) : (d.send l k).getF r f = d.getF r f := rfl
theorem Dev.getF_take (l : Place) (k : Packet) (r : Reg) (f : Field) : (d.take l k).getF r f = d.getF r f := rfl

/-! ## LEDGER_HOLD (R287) -/

@[simp] theorem Dev.showHold_mem (p : Nat) : (d.showHold p).mem = d.mem := by rw [Dev.showHold, Dev.setF_mem]
@[simp] theorem Dev.showHold_ports (p : Nat) : (d.showHold p).ports = d.ports := by rw [Dev.showHold, Dev.setF_ports]
@[simp] theorem Dev.showHold_net (p : Nat) : (d.showHold p).net = d.net := by rw [Dev.showHold, Dev.setF_net]

/-- LEDGER_HOLD stands in PORT_STATUS, so that the fields of other registers stay. -/
theorem Dev.getF_showHold_other {p : Nat} {r : Reg} (f : Field) (h : (r1 .PORT_STATUS p).addr ≠ r.addr) :
    (d.showHold p).getF r f = d.getF r f := by
  rw [Dev.showHold, Dev.getF_setF_reg _ _ _ _ h]

/-! ## The answer from the entry -/

/-- The device on which port router p has answered a packet from entry e of its ledger. -/
def Dev.ledgerHit (d : Dev) (p : Nat) (pkt : Packet) (e : LedgerEntry) : Dev :=
  (((d.take (.ledger p) pkt).inc (r1 .LEDGER_HIT p) Fld.LEDGER_HIT_CNT).portReply p pkt e.status e.result e.marks).showHold p

variable {d} {p : Nat} {pkt : Packet} {e : LedgerEntry}

/-- A packet within its lifetime whose entry stands complete is answered from the entry. -/
theorem Dev.ledgerExecute_hit (hlive : d.expired pkt = false)
    (hentry : (d.port p).ledger.find? (fun e => sameKey e.req pkt) = some e) (hdone : e.pending = false) :
    d.ledgerExecute p pkt = d.ledgerHit p pkt e := by
  have hport : (d.take (.ledger p) pkt).port p = d.port p := rfl
  have houtcome : (d.take (.ledger p) pkt).ledgerOutcome p pkt =
      some (((d.take (.ledger p) pkt).inc (r1 .LEDGER_HIT p) Fld.LEDGER_HIT_CNT).portReply p pkt e.status e.result e.marks) := by
    simp only [Dev.ledgerOutcome, hport, hentry, hdone, Bool.false_eq_true, if_false]
  simp only [Dev.ledgerExecute, Dev.ledgerHit, hlive, houtcome, Bool.false_eq_true, if_false, Option.getD_some]

/-- A packet at the front of the ledger's input, its entry complete, completes with the answer from the entry. -/
theorem ledgerExecute_completes_hit (hp : p < 28) (hled : ledgered pkt = true) (hin : d.inReset p = false)
    (hfront : d.isFront (.ledger p) pkt = true) (hlive : d.expired pkt = false)
    (hentry : (d.port p).ledger.find? (fun e => sameKey e.req pkt) = some e) (hdone : e.pending = false) :
    Completes (.ledgerExecute p pkt) d (d.ledgerHit p pkt e) :=
  completes_of_meaning (execLedgerExecute p pkt) rfl rfl (decide_eq_true hp)
    ((Dev.when_of _ (by rw [hled, hin, hfront]; rfl)).trans (Dev.ledgerExecute_hit hlive hentry hdone))

theorem Dev.ledgerHit_mem : (d.ledgerHit p pkt e).mem = d.mem := by
  simp only [Dev.ledgerHit, Dev.showHold_mem, Dev.portReply, Dev.send_mem, Dev.inc_mem, Dev.take_mem]

theorem Dev.ledgerHit_port (q : Nat) : (d.ledgerHit p pkt e).port q = d.port q := by
  simp only [Dev.port, Dev.ledgerHit, Dev.showHold_ports, Dev.portReply, Dev.send_ports, Dev.inc_ports, Dev.take_ports]

theorem Dev.ledgerHit_net :
    (d.ledgerHit p pkt e).net =
      (d.take (.ledger p) pkt).net ++ [{ place := .port p 32, pkt := mkReply pkt e.status e.result e.marks }] := by
  simp only [Dev.ledgerHit, Dev.showHold_net, Dev.portReply, Dev.send, Dev.inc_net]

theorem Dev.ledgerHit_count :
    (d.ledgerHit p pkt e).getF (r1 .LEDGER_HIT p) Fld.LEDGER_HIT_CNT =
      (d.getF (r1 .LEDGER_HIT p) Fld.LEDGER_HIT_CNT + 1) % 2 ^ Fld.LEDGER_HIT_CNT.width := by
  have hapart := r1_addr_ne .PORT_STATUS .LEDGER_HIT (by decide) rfl p
  rw [Dev.ledgerHit, Dev.getF_showHold_other _ _ hapart, Dev.portReply, Dev.getF_send, Dev.getF_inc_same _ _ (by decide), Dev.getF_take]

end Sys2Proof.Machine
end

section
/-! The statements of the yard fabric (spec/08_yard_fabric.md) settled. -/

namespace Sys2Proof.Proofs

open Sys2Proof Sys2Proof.Machine

/-- Settles O29: the answer comes from the entry, and all that it changes of the device is the packets under way, the count of hits and
LEDGER_HOLD. -/
theorem repeatedAtomicIsNotAppliedAgain : Obligations.RepeatedAtomicIsNotAppliedAgain := by
  intro p pkt e d hp hled hin hfront hlive hentry hdone
  exact ⟨d.ledgerHit p pkt e, ledgerExecute_completes_hit hp hled hin hfront hlive hentry hdone, Dev.ledgerHit_mem,
    congrArg PortSt.ledger (Dev.ledgerHit_port p), Dev.ledgerHit_net, Dev.ledgerHit_count⟩

/-- Settles O50: a codeword arrives on a channel that is good, a control message on a link that is on, each event of a channel or a link
has its condition at the beat that the link keeps for it, and a retraining is a write of YLINK_CTRL. -/
theorem yardLinkEventsComplete : Obligations.YardLinkEventsComplete := by
  refine ⟨fun l k levels flits d hk hon hin hgood hlevels => ?_, fun l msg d hl hty hon hin => ?_, fun l msg d hl hty hon hin => ?_,
    fun l msg d hl hty hon hin => ?_, fun l msg d hl hty hon hin => ?_, fun l msg d hl hty hon hin => ?_,
    fun l msg d hl hty hon hin => ?_, fun l k found errors d hk t ht hdue => ?_, fun l k dark d hk hgood hcause => ?_,
    fun l k d hk t ht hdue hon => ?_, fun l d hl t ht hdue hnew => ?_, fun l v d hl hb hv => ?_⟩
  · exact completes_of_meaning (execCodewordReceive l k levels flits) rfl rfl hk
      (Dev.when_of _ (by rw [hon, hin, hgood, hlevels]; rfl))
  · exact completes_of_yardRow (execYardAck l msg) rfl rfl hl hty hon hin
  · exact completes_of_yardRow (execYardNack l msg) rfl rfl hl hty hon hin
  · exact completes_of_yardRow (execYardCredit l msg) rfl rfl hl hty hon hin
  · exact completes_of_yardRow (execChMap l msg) rfl rfl hl hty hon hin
  · exact completes_of_yardRow (execChMapAck l msg) rfl rfl hl hty hon hin
  · exact completes_of_yardRow (execChReq l msg) rfl rfl hl hty hon hin
  · exact completes_of_meaning (execChannelTrain l k found errors) rfl rfl hk
      (by simp only [ht]; exact Dev.when_of _ (decide_eq_true hdue))
  · exact completes_of_meaning (execChannelDrop l k dark) rfl rfl hk (Dev.when_of _ (Bool.and_eq_true_iff.mpr ⟨hgood, hcause⟩))
  · exact completes_of_meaning (execChannelRetry l k) rfl rfl hk
      (by simp only [ht]; exact Dev.when_of _ (Bool.and_eq_true_iff.mpr ⟨decide_eq_true hdue, hon⟩))
  · exact completes_of_meaning (execYlinkFail l) rfl rfl (decide_eq_true hl)
      (by simp only [ht]; exact Dev.when_of _ (Bool.and_eq_true_iff.mpr ⟨decide_eq_true hdue, beq_iff_eq.mpr hnew⟩))
  · exact completes_of_busPut (execYlinkRetrain l v) rfl rfl (decide_eq_true hl) hb
      ((d.writeReg_yard_plain _ v rfl rfl rfl).trans (Dev.writeYard_YLINK d v l hv))

/-- Settles O51: a message arrives on a link that is on, what the member sends and decides has its condition at its beat, a request and a
stream's slot have the gate ready, and a leave and a group are writes of their registers. That a RESET_NOTICE arrives as a command is the
model's choice (log entry 41, DESIGN CHOICE). -/
theorem yardMembershipComplete : Obligations.YardMembershipComplete := by
  refine ⟨fun l msg d hl hty hon hin => ?_, fun l msg d hl hty hon hin => ?_, fun l msg d hl hty hon hin => ?_,
    fun l msg d hl hty hon hin => ?_, fun p l msg d hp hl hty hin => ?_, fun l msg d hl hty hon hin => ?_,
    fun l msg d hl hty hon hin => ?_, fun d hstate hdue => ?_, fun d hm hstate hdue => ?_, fun d t ht hstate hdue hfirst => ?_,
    ⟨fun jb d hself hj hdue hstate => ?_, fun m jb d hm hne hj hdue hstate => ?_⟩, fun m d hm hne hmember hlost => ?_,
    fun v d hb hv => ?_, fun m d hm hne hfree => ?_, fun l pkt d hl hreq hin => ?_,
    fun l slot d hl hslot hen hrun hbeat hstream hnew => ?_, fun g v d hg hb hv => ?_⟩
  · exact completes_of_yardRow (execIdent l msg) rfl rfl hl hty hon hin
  · exact completes_of_yardRow (execHeartbeat l msg) rfl rfl hl hty hon hin
  · exact completes_of_yardRow (execJoin l msg) rfl rfl hl hty hon hin
  · exact completes_of_yardRow (execLeave l msg) rfl rfl hl hty hon hin
  · exact completes_of_meaning (execResetNotice p l msg) rfl rfl (Bool.and_eq_true_iff.mpr ⟨decide_eq_true hp, decide_eq_true hl⟩)
      (Dev.when_of _ (by rw [beq_iff_eq.mpr hty, hin]; rfl))
  · exact completes_of_yardRow (execDrainReq l msg) rfl rfl hl hty hon hin
  · exact completes_of_yardRow (execDrained l msg) rfl rfl hl hty hon hin
  · exact completes_of_meaning execIdentSend rfl rfl rfl (Dev.when_of _ (Bool.and_eq_true_iff.mpr ⟨decide_eq_true hstate, hdue⟩))
  · exact completes_of_meaning execHeartbeatSend rfl rfl rfl (Dev.when_of _ (by rw [hm, decide_eq_true hstate, hdue]; rfl))
  · exact completes_of_meaning execJoinWaitExpire rfl rfl rfl (by
      simp only [ht]; exact Dev.when_of _ (Bool.and_eq_true_iff.mpr
        ⟨Bool.and_eq_true_iff.mpr ⟨beq_iff_eq.mpr hstate, decide_eq_true hdue⟩, hfirst⟩))
  · exact completes_of_meaning (execJoinBeat d.self) rfl rfl (decide_eq_true hself) (by
      simp only [hj, if_true]; exact Dev.when_of _ (Bool.and_eq_true_iff.mpr ⟨decide_eq_true hdue, beq_iff_eq.mpr hstate⟩))
  · exact completes_of_meaning (execJoinBeat m) rfl rfl (decide_eq_true hm) (by
      simp only [hj, if_neg hne]; exact Dev.when_of _ (Bool.and_eq_true_iff.mpr ⟨decide_eq_true hdue, beq_iff_eq.mpr hstate⟩))
  · exact completes_of_meaning (execMemberLoss m) rfl rfl (decide_eq_true hm)
      (Dev.when_of _ (by rw [bne_iff_ne.mpr hne, hmember, decide_eq_true hlost]; rfl))
  · exact completes_of_busPut (execYardLeave v) rfl rfl rfl hb
      ((d.writeReg_yard_plain _ v rfl rfl rfl).trans (Dev.writeYard_CTRL d v hv))
  · exact completes_of_meaning (execFlowMove m) rfl rfl (decide_eq_true hm)
      (Dev.when_of _ (Bool.and_eq_true_iff.mpr ⟨bne_iff_ne.mpr hne, hfree⟩))
  · exact completes_of_meaning (execGateRequest l pkt) rfl rfl (decide_eq_true hl) (Dev.when_of _ (by rw [hreq, hin]; rfl))
  · exact completes_of_meaning (execYstreamSlot l slot) rfl rfl
      (Bool.and_eq_true_iff.mpr ⟨decide_eq_true hl, decide_eq_true hslot⟩)
      (Dev.when_of _ (by rw [hen, hrun, beq_iff_eq.mpr hbeat, bne_iff_ne.mpr hstream, bne_iff_ne.mpr hnew]; rfl))
  · exact completes_of_busPut (execMcastGroupWrite g v) rfl rfl (decide_eq_true hg) hb
      ((d.writeReg_yard_plain _ v rfl rfl rfl).trans (Dev.writeYard_MCAST d v g hv))

end Sys2Proof.Proofs
end

section
/-! SUPPORT. The shape that the rows of the generation service share: an event of a service that is on, at its condition. -/

namespace Sys2Proof.Machine

/-- An event of the service completes with its rule's effect where the service is on and the event's condition holds. -/
theorem completes_of_service {c : Sys2Proof.Instr} {ok : Bool} {cond : Dev → Svc → Bool} {f : Dev → Svc → Dev} {v : Svc} {d d' : Dev}
    (m : State → Out) (hc : exec c = m)
    (hm : m = fun s => onUnit ok s fun d => match d.svc with
      | some v => d.when (cond d v) fun d => f d v
      | none => d) (hok : ok = true)
    (hv : d.svc = some v) (hcond : cond d v = true) (hd : f d v = d') : Completes c d d' := by
  refine completes_of_meaning m hc hm hok ?_
  simp only [hv]
  exact (Dev.when_of _ hcond).trans hd

end Sys2Proof.Machine
end

section
/-! The statements of the generation service (spec/09_generation_service.md) settled. -/

namespace Sys2Proof.Proofs

open Sys2Proof Sys2Proof.Machine

/-- Settles O53: each event of the service has its condition, a reload a site that a logical tile maps to, a move of the lead a tile in
service to move to, and a lost session a queue pair that is gone, in error or silent for the lease. -/
theorem generationRoundsComplete : Obligations.GenerationRoundsComplete := by
  refine ⟨fun outs fault beats d v hv hcan hchunk hadm houts hfit => ?_, fun i d hi v hv hcan hpre hnext => ?_,
    fun b x d hsite v t hv ht hin => ?_, fun n d hn v hv hloaded hretired => ?_, fun n d hn v hv hpool hout => ?_,
    fun d v hv hlevel hbarns => ?_, fun d v a i hv ha hi hm hleft hnew => ?_, fun sess d hsess k hk hidle => ?_,
    fun i d hi v hv hstate howner hlate => ?_⟩
  · exact completes_of_service (execDecodeRound outs fault beats) rfl rfl rfl hv
      (by rw [hcan, hchunk, hadm, beq_iff_eq.mpr houts, hfit]; rfl) rfl
  · exact completes_of_service (execPrefillChunk i) rfl rfl (decide_eq_true hi) hv (by rw [hcan, beq_iff_eq.mpr hpre, hnext]; rfl) rfl
  · exact completes_of_meaning (execLoftLossReload b x) rfl rfl hsite (by simp only [hv, ht]; exact Dev.when_of _ hin)
  · exact completes_of_service (execMasterRecopy n) rfl rfl (decide_eq_true hn) hv (by rw [hloaded, hretired]; rfl) rfl
  · exact completes_of_service (execKvLoss n) rfl rfl (decide_eq_true hn) hv (by rw [hpool, hout]; rfl) rfl
  · exact completes_of_service execRelayout rfl rfl rfl hv (Bool.and_eq_true_iff.mpr ⟨decide_eq_true hlevel, bne_iff_ne.mpr hbarns⟩) rfl
  · exact completes_of_meaning execLeadMove rfl rfl rfl
      (by simp only [hv, ha, hi]; exact Dev.when_of _ (by rw [hm, hleft, bne_iff_ne.mpr hnew]; rfl))
  · exact completes_of_meaning (execSessionLost sess) rfl rfl (decide_eq_true hsess) (by simp only [hk]; exact Dev.when_of _ hidle)
  · exact completes_of_service (execAdoptHoldExpire i) rfl rfl (decide_eq_true hi) hv
      (by rw [beq_iff_eq.mpr hstate, howner, decide_eq_true hlate]; rfl) rfl

end Sys2Proof.Proofs
end

section
/-! SUPPORT. A port that tries to bring its link up says so outside (R330, R331). -/

namespace Sys2Proof.Machine

/-- A command has one next device. -/
theorem completes_unique {c : Sys2Proof.Instr} {d d₁ d₂ : Dev} (h₁ : Completes c d d₁) (h₂ : Completes c d d₂) : d₁ = d₂ :=
  congrArg State.dev (Host.Outcome.next.inj ((h₁ []).symm.trans (h₂ [])))

/-- An attempt adds one to what the package has sent. -/
theorem Dev.bringUp_sent_length (d : Dev) (p : Nat) : (d.bringUp p).sent.length = d.sent.length + 1 := by
  rw [Dev.bringUp, Dev.emit, List.length_append, List.length_singleton]
  rfl

/-- A retry that does not bring the link up is an attempt and no more. -/
theorem ethLinkRetry_completes_down {p : Nat} {d : Dev} (hp : p < 4) (hen : d.ethF p Fld.ETH_CTRL_ENABLE = 1)
    (hdown : d.ethStatus p Fld.ETH_STATUS_LINK_UP = 0) (hdue : (d.ethSt p).triedAt + 100000000 ≤ d.beat) :
    Completes (.ethLinkRetry p false) d (d.bringUp p) :=
  completes_of_meaning (execEthLinkRetry p false) rfl rfl (decide_eq_true hp)
    (Dev.when_of _ (by rw [beq_iff_eq.mpr hen, beq_iff_eq.mpr hdown, decide_eq_true hdue]; rfl))

end Sys2Proof.Machine
end

section
/-! The statement of the Ethernet ports (spec/10_host_ethernet.md) settled. -/

namespace Sys2Proof.Proofs

open Sys2Proof Sys2Proof.Machine

/-- Refutes O54, on its clause of the link's retry. The retry is an attempt to bring the link up, which starts the port's lanes
(`Sent.ethStart`, R330 and R331); the statement's device only notes the beat of the attempt and has sent nothing. Port 0, enabled and
its link down since reset, shows it at beat 100,000,000. -/
theorem not_ethernetEventsComplete : ¬ Obligations.EthernetEventsComplete := by
  rintro ⟨-, hretry, -⟩
  obtain ⟨d, hen, hdown, hdue⟩ : ∃ d : Dev, d.ethF 0 Fld.ETH_CTRL_ENABLE = 1 ∧ d.ethStatus 0 Fld.ETH_STATUS_LINK_UP = 0 ∧
      (d.ethSt 0).triedAt + 100000000 ≤ d.beat :=
    ⟨({ beat := 100000000 } : Dev).setF (r1 .ETH_CTRL 0) Fld.ETH_CTRL_ENABLE 1, by decide⟩
  have hclaimed := hretry 0 false d (by decide) hen hdown (decide_eq_true hdue)
  have hactual := ethLinkRetry_completes_down (by decide) hen hdown hdue
  have hsent : d.sent.length = d.sent.length + 1 :=
    (congrArg (fun e : Dev => e.sent.length) (completes_unique hclaimed hactual)).trans (d.bringUp_sent_length 0)
  exact absurd hsent.symm (Nat.succ_ne_self _)

end Sys2Proof.Proofs
end

section
/-! The statements of power, thermal control and calibration (spec/11_power_thermal_calibration.md) settled. -/

namespace Sys2Proof.Proofs

open Sys2Proof Sys2Proof.Machine

/-- Settles O43: each event's condition holds, an interval at a beat that ends one and has closed none, a reading at its 100,000 beats;
a trip has no condition but its unit. -/
theorem powerEventsComplete : Obligations.PowerEventsComplete := by
  refine ⟨fun meas d hcount hbeat hfirst hopen => ?_, fun h d hh hterm => ?_, fun b d hb hm hsat => ?_,
    fun r uv d hr hout hstill => ?_, fun ack raw d hen hdue => ?_, fun i t d hi ht hdue => ?_, fun unit d hunit => ?_⟩
  · exact completes_of_meaning (execPowerInterval meas) rfl rfl rfl
      (Dev.when_of _ (by rw [hcount, beq_iff_eq.mpr hbeat, decide_eq_true hfirst, bne_iff_ne.mpr hopen]; rfl))
  · exact completes_of_meaning (execFaultTermEnd h) rfl rfl (decide_eq_true hh) (Dev.when_of _ (beq_iff_eq.mpr hterm))
  · exact completes_of_meaning (execOppLower b) rfl rfl (decide_eq_true hb) (Dev.when_of _ (by rw [hm, decide_eq_true hsat]; rfl))
  · exact completes_of_meaning (execRailFault r uv) rfl rfl (decide_eq_true hr) (Dev.when_of _ (by rw [hout, hstill]; rfl))
  · exact completes_of_meaning (execCoolantRead ack raw) rfl rfl rfl (Dev.when_of _ (by rw [hen, hdue]; rfl))
  · exact completes_of_meaning (execDiodeRead i t) rfl rfl
      (Bool.and_eq_true_iff.mpr ⟨decide_eq_true hi, decide_eq_true ht⟩) (Dev.when_of _ hdue)
  · exact completes_of_meaning (execTrip unit) rfl rfl (decide_eq_true hunit) rfl

/-- Settles O55: start, abort and commit are writes of CAL_CTRL that the bus carries out, a start after the voltage at CALREF is noted;
the end of a pass, the change of the corrections in force and the field record have their conditions. -/
theorem calibrationCommandsComplete : Obligations.CalibrationCommandsComplete := by
  refine ⟨fun v calref d hb => ?_, fun results d hdue => ?_, fun v d hb => ?_, fun v d hb => ?_, fun d hstate hdue => ?_,
    fun d hm hnew hready hkept => ?_⟩
  · exact completes_of_meaning (execCalStart v calref) rfl rfl rfl
      ((Dev.busPut_reaches v hb).trans (Dev.writeReg_CAL_CTRL (d.noteCalref calref) v 0))
  · exact completes_of_meaning (execCalPassEnd results) rfl rfl rfl (Dev.when_of _ (decide_eq_true hdue))
  · exact completes_of_busPut (execCalAbort v) rfl rfl rfl hb (Dev.writeReg_CAL_CTRL d v 0)
  · exact completes_of_busPut (execCalCommit v) rfl rfl rfl hb (Dev.writeReg_CAL_CTRL d v 0)
  · have happly : d.calDue = d.applyCal d.calBeat :=
      Dev.when_of _ (Bool.and_eq_true_iff.mpr ⟨beq_iff_eq.mpr hstate, decide_eq_true hdue⟩)
    exact completes_of_meaning execCalApply rfl rfl rfl happly
  · exact completes_of_meaning execFieldRecordWrite rfl rfl rfl (Dev.when_of _ (by rw [hm, hnew, hready, hkept]; rfl))

end Sys2Proof.Proofs
end

section
/-! SUPPORT. The Barker (spec/14_observation.md): the bits of its words, the two words that a raise writes (R455), the highest source that
a claim finds, and what a claim and a completion leave (R456). -/

namespace Sys2Proof.Machine

/-! ## One bit of a word -/

/-- Taking the old bit out and putting the new one in leaves the new bit at its place. -/
theorem bitOf_setBitNat_same (w i : Nat) (b : Bool) : bitOf (setBitNat w i b) i = b := by
  have hquot : setBitNat w i b / 2 ^ i = w / 2 ^ i - boolNat (bitOf w i) + boolNat b := by
    rw [setBitNat, Nat.add_mul_div_right _ _ (Nat.two_pow_pos i), Nat.mul_comm (boolNat _), Nat.sub_mul_div]
  have hbit : boolNat (bitOf w i) = w / 2 ^ i % 2 := by
    rcases Nat.mod_two_eq_zero_or_one (w / 2 ^ i) with h | h <;> simp [bitOf, boolNat, h]
  have heven : (w / 2 ^ i - w / 2 ^ i % 2 + boolNat b) % 2 = boolNat b % 2 := by omega
  rw [bitOf, hquot, hbit, heven]
  cases b <;> rfl

/-- A bit within the 32 of a word survives the cut to the word. -/
theorem bitOf_ofNat {w i : Nat} (hi : i < 32) : bitOf (BitVec.ofNat 32 w).toNat i = bitOf w i := by
  rw [BitVec.toNat_ofNat, bitOf_eq_testBit, bitOf_eq_testBit, Nat.testBit_mod_two_pow, decide_eq_true hi, Bool.true_and]

/-! ## The bits of sources -/

/-- A register below an array lies apart from each of its words. -/
theorem r1_addr_ne_of_below {q : Reg} {m : RegName} (i : Nat) (h : q.addr < m.base) : (r1 m i).addr ≠ q.addr := by
  have hle : m.base ≤ (r1 m i).addr := by
    rw [Reg.addr, Nat.add_assoc, Nat.add_assoc]
    exact Nat.le_add_right ..
  exact (Nat.lt_of_lt_of_le h hle).ne'

variable (d : Dev)

theorem Dev.sourceBit_setSourceBit_same (name : RegName) (n : Nat) (v : Bool) : (d.setSourceBit name n v).sourceBit name n = v := by
  rw [Dev.sourceBit, Dev.setSourceBit, Dev.rd_wr_same, bitOf_ofNat (Nat.mod_lt n (by decide)), bitOf_setBitNat_same]

/-- The same source's bit in another array stays. -/
theorem Dev.sourceBit_setSourceBit_other {m name : RegName} (n : Nat) (v : Bool) (hbase : m.base ≠ name.base) (hdims : m.dims = name.dims) :
    (d.setSourceBit m n v).sourceBit name n = d.sourceBit name n := by
  rw [Dev.sourceBit, Dev.setSourceBit, Dev.rd_wr_other _ _ (r1_addr_ne m name hbase hdims _), Dev.sourceBit]

/-- A register below the array stays. -/
theorem Dev.getF_setSourceBit_below {name : RegName} {q : Reg} (n : Nat) (v : Bool) (f : Field) (h : q.addr < name.base) :
    (d.setSourceBit name n v).getF q f = d.getF q f := by
  rw [Dev.getF, Dev.setSourceBit, Dev.rd_wr_other _ _ (r1_addr_ne_of_below _ h), Dev.getF]

/-! ## A raise (R455) -/

/-- An assigned source's raise counts in its BRK_RAISED. -/
theorem Dev.getF_raise_RAISED {n : Nat} (h1 : 1 ≤ n) (h2 : n ≤ 321) :
    (d.raise n).getF (r1 .BRK_RAISED n) Fld.BRK_RAISED_RAISED =
      (d.getF (r1 .BRK_RAISED n) Fld.BRK_RAISED_RAISED + 1) % 2 ^ Fld.BRK_RAISED_RAISED.width := by
  have hne : (r1 .BRK_PENDING (n / 32)).addr ≠ (r1 .BRK_RAISED n).addr := by
    have hpending : (r1 .BRK_PENDING (n / 32)).addr = 0x102001000 + n / 32 * 4 := rfl
    have hraised : (r1 .BRK_RAISED n).addr = 0x102002000 + n * 4 := rfl
    omega
  rw [Dev.raise_spec, if_pos ⟨h1, h2⟩, ← Dev.inc, Dev.getF_inc_same _ _ (by decide), Dev.getF_setF_reg _ _ _ _ hne]

/-- Another source's pending bit stands at another place of the word that the raise writes, or in a word that it does not write. -/
theorem Dev.pendingBit_raise_other {n m : Nat} (h1 : 1 ≤ n) (h2 : n ≤ 321) (hne : m ≠ n) (hm : m < 512) :
    (d.raise n).pendingBit m = d.pendingBit m := by
  rw [Dev.pendingBit, Dev.pendingBit]
  by_cases hword : m / 32 = n / 32
  · have hplace : n % 32 ≠ m % 32 := by omega
    rw [hword, Dev.rd_raise_pending d h1 h2, bitOf_eq_testBit, Nat.testBit_or, Nat.testBit_two_pow_of_ne hplace, Bool.or_false,
      bitOf_eq_testBit]
  · have hmine : (r1 .BRK_PENDING (m / 32)).addr = 0x102001000 + m / 32 * 4 := rfl
    have hpending : (r1 .BRK_PENDING (n / 32)).addr = 0x102001000 + n / 32 * 4 := rfl
    have hraised : (r1 .BRK_RAISED n).addr = 0x102002000 + n * 4 := rfl
    rw [Dev.rd_raise_other d (by omega) (by omega)]

theorem Dev.raise_unassigned {n : Nat} (h : n = 0 ∨ 321 < n) : d.raise n = d := by
  rw [Dev.raise_spec, if_neg (by omega)]

/-! ## The highest claimable source -/

/-- Of the numbers below N other than 0, taken from the highest down, the first that p holds of is the highest that it holds of. -/
theorem find?_highest {p : Nat → Bool} {N n : Nat} (h0 : n ≠ 0) (hn : n < N) (hp : p n = true)
    (hmax : ∀ m, n < m → m < N → p m = false) : ((List.range N).reverse.filter fun n => n != 0).find? p = some n := by
  induction N with
  | zero => exact absurd hn (Nat.not_lt_zero n)
  | succ N ih =>
    have hN : N ≠ 0 := by omega
    rw [List.range_succ, List.reverse_append, List.reverse_singleton, List.singleton_append,
      List.filter_cons_of_pos (p := fun n => n != 0) (bne_iff_ne.mpr hN)]
    rcases Nat.lt_succ_iff_lt_or_eq.mp hn with hlt | rfl
    · rw [List.find?_cons_of_neg (by rw [hmax N hlt N.lt_succ_self]; decide)]
      exact ih hlt fun m hnm hmN => hmax m hnm (Nat.lt_succ_of_lt hmN)
    · exact List.find?_cons_of_pos hp

variable {d} {n : Nat}

theorem Dev.highestClaimable_eq (h1 : 1 ≤ n) (hn : n < 512) (hc : d.claimable n = true)
    (hmax : ∀ m, n < m → m < 512 → d.claimable m = false) : d.highestClaimable = n := by
  rw [Dev.highestClaimable, find?_highest (Nat.one_le_iff_ne_zero.mp h1) hn hc hmax, Option.getD_some]

theorem Dev.highestClaimable_none (h : ∀ m, 1 ≤ m → m < 512 → d.claimable m = false) : d.highestClaimable = 0 := by
  rw [Dev.highestClaimable, List.find?_eq_none.mpr, Option.getD_none]
  intro m hm
  obtain ⟨hrange, hpos⟩ := List.mem_filter.mp hm
  have hlt : m < 512 := List.mem_range.mp (List.mem_reverse.mp hrange)
  simp [h m (Nat.one_le_iff_ne_zero.mpr (bne_iff_ne.mp hpos)) hlt]

/-! ## Claims and completions (R456) -/

theorem Dev.claim_of_highest (h0 : n ≠ 0) (h : d.highestClaimable = n) :
    d.claim =
      ((d.setF (r0 .BRK_CLAIMED) Fld.BRK_CLAIMED_SOURCE n).setSourceBit .BRK_PENDING n false).setSourceBit .BRK_INSERVICE n true := by
  rw [Dev.claim, h]
  exact if_neg h0

theorem Dev.claim_of_none (h : d.highestClaimable = 0) : d.claim = d.setF (r0 .BRK_CLAIMED) Fld.BRK_CLAIMED_SOURCE 0 := by
  rw [Dev.claim, h]
  exact if_pos rfl

/-- BRK_CLAIMED, the pending bit and the in-service bit lie in three words, so that each keeps what the claim puts there. -/
theorem Dev.claim_leaves (hn : n < 512) (h0 : n ≠ 0) (h : d.highestClaimable = n) :
    d.claim.getF (r0 .BRK_CLAIMED) Fld.BRK_CLAIMED_SOURCE = n ∧ d.claim.sourceBit .BRK_PENDING n = false ∧
      d.claim.sourceBit .BRK_INSERVICE n = true := by
  rw [Dev.claim_of_highest h0 h]
  refine ⟨?_, ?_, Dev.sourceBit_setSourceBit_same _ _ _ _⟩
  · rw [Dev.getF_setSourceBit_below _ _ _ _ (by decide), Dev.getF_setSourceBit_below _ _ _ _ (by decide),
      Dev.getF_setF_same _ _ (by decide)]
    exact Nat.mod_eq_of_lt hn
  · rw [Dev.sourceBit_setSourceBit_other _ _ _ (by decide) (by rfl), Dev.sourceBit_setSourceBit_same]

theorem Dev.complete_inService (h1 : 1 ≤ n) (hn : n < 512) (hs : d.sourceBit .BRK_INSERVICE n = true) :
    d.complete n = d.setSourceBit .BRK_INSERVICE n false :=
  if_pos ⟨h1, hn, hs⟩

/-- Of what makes a source claimable, its in-service bit alone is touched when it is cleared. -/
theorem Dev.claimable_out_of_service (hp : d.sourceBit .BRK_PENDING n = true) (he : d.sourceBit .BRK_ENABLE n = true)
    (ht : d.getF (r0 .BRK_CTRL) Fld.BRK_CTRL_THRESH < n) : (d.setSourceBit .BRK_INSERVICE n false).claimable n = true := by
  rw [Dev.claimable, Dev.sourceBit_setSourceBit_same, Dev.sourceBit_setSourceBit_other _ _ _ (by decide) (by rfl),
    Dev.sourceBit_setSourceBit_other _ _ _ (by decide) (by rfl), Dev.getF_setSourceBit_below _ _ _ _ (by decide), hp, he, decide_eq_true ht]
  rfl

theorem brkClaim_completes (v : W32) (hb : d.reaches (r0 .BRK_CLAIM).addr = true) : Completes (.brkClaim v) d d.claim :=
  completes_of_busPut (execBrkClaim v) rfl rfl rfl hb (d.writeReg_BRK_CLAIM v 0)

theorem brkComplete_completes (v : W32) (hb : d.reaches (r0 .BRK_COMPLETE).addr = true) :
    Completes (.brkComplete v) d (d.complete v.toNat) :=
  completes_of_busPut (execBrkComplete v) rfl rfl rfl hb (d.writeReg_BRK_COMPLETE v 0)

end Sys2Proof.Machine
end

section
/-! The statements of observation (spec/14_observation.md) settled. -/

namespace Sys2Proof.Proofs

open Sys2Proof Sys2Proof.Machine

/-- Settles O15: a raise writes the word of the source's pending bit and its BRK_RAISED, and of that word only the source's own bit. -/
theorem raiseSetsPendingAndCounts : Obligations.RaiseSetsPendingAndCounts :=
  ⟨fun d _ h1 h2 => ⟨d.pendingBit_raise_same h1 h2, d.getF_raise_RAISED h1 h2, fun _ hne hm => d.pendingBit_raise_other h1 h2 hne hm⟩,
    fun d _ h => d.raise_unassigned h,
    fun d n => d.raise_regs_only n d.regs⟩

/-- Settles O16: the claim finds the highest claimable source, and its words lie apart from those that make a source claimable. -/
theorem claimAndCompletion : Obligations.ClaimAndCompletion := by
  refine ⟨fun v n d hb h1 hn hc hmax => ?_, fun v d hb hnone => ?_, fun v d hb h1 hn hs => ?_,
    fun d n h1 h2 => d.pendingBit_raise_same h1 h2, fun d n _ _ hp he ht => Dev.claimable_out_of_service hp he ht⟩
  · exact ⟨d.claim, brkClaim_completes v hb,
      Dev.claim_leaves hn (Nat.one_le_iff_ne_zero.mp h1) (Dev.highestClaimable_eq h1 hn hc hmax)⟩
  · exact Dev.claim_of_none (Dev.highestClaimable_none hnone) ▸ brkClaim_completes v hb
  · exact Dev.complete_inService h1 hn hs ▸ brkComplete_completes v hb

/-- Settles O60: each write of TRC_TILE_CTRL or of a register of the Barker is carried out by the bus; a lost record finds its site
traced and running, a chunk is due and has its credits, a scan its beat, a snapshot a Ringmaster in charge. -/
theorem observationCommandsComplete : Obligations.ObservationCommandsComplete := by
  refine ⟨fun b x d hsite htraced hruns => ?_, fun b x v d hsite hb => ?_, fun b x d hsite hdue hcredits => ?_,
    fun v d hb => brkClaim_completes v hb, fun v d hb => brkComplete_completes v hb, fun w v d hw hb => ?_,
    fun w v sets d hw hb => ?_, fun d hen hbeat => ?_, fun d hmaster => ?_⟩
  · exact completes_of_meaning (execLostRecord b x) rfl rfl hsite (Dev.when_of _ (by rw [bne_iff_ne.mpr htraced, hruns]; rfl))
  · exact completes_of_busPut (execTrcModeWrite b x v) rfl rfl hsite hb (d.writeReg_TRC_TILE_CTRL v 0 b x)
  · exact completes_of_meaning (execChunkSend b x) rfl rfl hsite (Dev.when_of _ (Bool.and_eq_true_iff.mpr ⟨hdue, hcredits⟩))
  · exact completes_of_busPut (execBrkSet w v) rfl rfl (decide_eq_true hw) hb (d.writeReg_BRK_SET v 0 w)
  · exact completes_of_meaning (execBrkPendingClear w v sets) rfl rfl (decide_eq_true hw)
      ((Dev.busPutWith_reaches v sets hb).trans (d.writeReg_BRK_PENDING v sets w))
  · exact completes_of_meaning execHangScan rfl rfl rfl (Dev.when_of _ (Bool.and_eq_true_iff.mpr ⟨hen, decide_eq_true hbeat⟩))
  · exact completes_of_meaning execHangSnapshot rfl rfl rfl (Dev.when_of _ hmaster)

end Sys2Proof.Proofs
end

section
/-! SUPPORT. A write of TACK_CTRL that the Tack room accepts (R411, R414): of its two requests, the one that is set is carried out. -/

namespace Sys2Proof.Machine

variable {d : Dev} {v : W32} (hdom : Fld.TACK_CTRL_DOMAIN.get v < 2)
include hdom

theorem Dev.writeTack_zeroise (hz : Fld.TACK_CTRL_ZEROISE.get v = 1) (hgo : Fld.TACK_CTRL_SIGN_GO.get v = 0) :
    d.writeTack (r0 .TACK_CTRL) v = (d.setF (r0 .TACK_CTRL) Fld.TACK_CTRL_DOMAIN (Fld.TACK_CTRL_DOMAIN.get v)).zeroise := by
  simp [Dev.writeTack, r0, hz, hgo, hdom]

theorem Dev.writeTack_sign (hgo : Fld.TACK_CTRL_SIGN_GO.get v = 1) (hz : Fld.TACK_CTRL_ZEROISE.get v = 0)
    (hfree : d.flag (r0 .TACK_SIGN_STATUS) Fld.TACK_SIGN_STATUS_BUSY = false) :
    d.writeTack (r0 .TACK_CTRL) v = (d.setF (r0 .TACK_CTRL) Fld.TACK_CTRL_DOMAIN (Fld.TACK_CTRL_DOMAIN.get v)).signGo := by
  rw [r0] at hfree
  simp [Dev.writeTack, r0, hz, hgo, hdom, hfree]

end Sys2Proof.Machine
end

section
/-! The statements of the start and the Tack room (spec/12_start_and_image.md) settled. -/

namespace Sys2Proof.Proofs

open Sys2Proof Sys2Proof.Machine

/-- Settles O56: each phase, record and test has its condition, a barn's test and entry the test under way that its operands find. That
the rails which the board brings up take their targets at PKG_RESET_RISE, that a removal at VAUX_LOSS clears ZEROISED and lets the key be
derived again, and that CFG_WAIT and CFG_POLL go on by repetition from the beat that the record began, are the model's choice (log
entries 153, 79 and 78, DEDUCED). -/
theorem startPhasesComplete : Obligations.StartPhasesComplete := by
  refine ⟨fun d hin => ?_, fun d hout => ?_, fun removed d => ?_, fun s0 s1 d hphase hhalt => ?_, fun d i hi hphase hnew => ?_,
    fun d hturn => ?_, fun d hturn => ?_, fun d hturn => ?_, fun d hturn => ?_, fun d hphase hconf => ?_, fun d hphase hend => ?_,
    fun d hphase hend => ?_, fun b d hb hphase hbefore hstage hfree => ?_, fun b res d hb t k i ht hi hk hstage hdue => ?_,
    fun b d hb since k ht hk hstage hmaster => ?_⟩
  · exact completes_of_meaning execPkgResetRise rfl rfl rfl (Dev.when_of _ (by rw [hin]; rfl))
  · exact completes_of_meaning execPkgResetFall rfl rfl rfl (Dev.when_of _ hout)
  · exact completes_of_meaning (execVauxLoss removed) rfl rfl rfl rfl
  · exact completes_of_meaning (execSecureBoot s0 s1) rfl rfl rfl (Dev.when_of _ (by rw [beq_iff_eq.mpr hphase, hhalt]; rfl))
  · exact completes_of_meaning execConfigApply rfl rfl rfl
      (by simp only [hi]; exact Dev.when_of _ (by rw [beq_iff_eq.mpr hphase, hnew]; rfl))
  · exact completes_of_meaning execCfgWrite rfl rfl rfl (Dev.when_of _ hturn)
  · exact completes_of_meaning execCfgWriteCheck rfl rfl rfl (Dev.when_of _ hturn)
  · exact completes_of_meaning execCfgWait rfl rfl rfl (Dev.when_of _ hturn)
  · exact completes_of_meaning execCfgPoll rfl rfl rfl (Dev.when_of _ hturn)
  · exact completes_of_meaning execPhase3Start rfl rfl rfl (Dev.when_of _ (Bool.and_eq_true_iff.mpr ⟨beq_iff_eq.mpr hphase, hconf⟩))
  · exact completes_of_meaning execPhase3Timeout rfl rfl rfl (Dev.when_of _ (Bool.and_eq_true_iff.mpr ⟨beq_iff_eq.mpr hphase, hend⟩))
  · exact completes_of_meaning execPhase4End rfl rfl rfl (Dev.when_of _ (Bool.and_eq_true_iff.mpr ⟨beq_iff_eq.mpr hphase, hend⟩))
  · exact completes_of_meaning (execBarnTest b) rfl rfl (decide_eq_true hb)
      (Dev.when_of _ (by rw [decide_eq_true hphase, hbefore, beq_iff_eq.mpr hstage, hfree]; rfl))
  · exact completes_of_meaning (execBarnTestDone b res) rfl rfl (decide_eq_true hb)
      (by simp only [ht, hi]; exact Dev.when_of _ (by rw [beq_iff_eq.mpr hk, beq_iff_eq.mpr hstage, decide_eq_true hdue]; rfl))
  · exact completes_of_meaning (execBarnEntry b) rfl rfl (decide_eq_true hb)
      (by simp only [ht]; exact Dev.when_of _ (by rw [beq_iff_eq.mpr hk, beq_iff_eq.mpr hstage, hmaster]; rfl))

/-- Settles O57: zeroising and signing are accepted writes of TACK_CTRL, a signature ends while one is under way, and the instructions of
the test access port have no condition. That FLASH_ACCESS acts as BYPASS where ZEROISED is 0 is the model's reading of Table 12-13 (log
entry 82, DEDUCED). -/
theorem tackRoomAndTapCommandsComplete : Obligations.TackRoomAndTapCommandsComplete := by
  refine ⟨fun v d hb hz hgo hdom => ?_, fun v d hb hgo hz hdom hfree => ?_, fun d hbusy => ?_,
    fun _ => completes_of_meaning execExtest rfl rfl rfl rfl, fun _ => completes_of_meaning execClamp rfl rfl rfl rfl,
    fun _ => completes_of_meaning execHighz rfl rfl rfl rfl, fun _ => completes_of_meaning execIntscan rfl rfl rfl rfl,
    fun _ => completes_of_meaning execFlashAccess rfl rfl rfl rfl, fun _ => completes_of_meaning execIdcode rfl rfl rfl rfl,
    fun _ => completes_of_meaning execSamplePreload rfl rfl rfl rfl, fun _ => completes_of_meaning execBypass rfl rfl rfl rfl⟩
  · exact completes_of_busPut (execZeroise v) rfl rfl rfl hb ((d.writeReg_TACK_CTRL v 0).trans (Dev.writeTack_zeroise hdom hz hgo))
  · exact completes_of_busPut (execSignGo v) rfl rfl rfl hb ((d.writeReg_TACK_CTRL v 0).trans (Dev.writeTack_sign hdom hgo hz hfree))
  · exact completes_of_meaning execSignDone rfl rfl rfl (Dev.when_of _ hbusy)

end Sys2Proof.Proofs
end

section
/-! SUPPORT. A write of RM_UPDATE that asks for one thing (R424), and what the image that the Ringmaster stages before it leaves as it
was. -/

namespace Sys2Proof.Machine

variable (d : Dev)

/-- Whether the bus carries out an access rests on registers and on what stands at the address, not on what the Ringmaster keeps. -/
theorem Dev.reaches_updRmSt (f : RmSt → RmSt) (a : Nat) : (d.updRmSt f).reaches a = d.reaches a := rfl

theorem Dev.writeReg_RM_UPDATE_go {v : W32} (hgo : Fld.RM_UPDATE_GO.get v = 1) (habort : Fld.RM_UPDATE_ABORT.get v = 0) :
    d.writeReg (r0 .RM_UPDATE) v 0 = d.updateGo := by
  rw [Dev.writeReg_RM_UPDATE, hgo, habort]; rfl

theorem Dev.writeReg_RM_UPDATE_abort {v : W32} (hgo : Fld.RM_UPDATE_GO.get v = 0) (habort : Fld.RM_UPDATE_ABORT.get v = 1) :
    d.writeReg (r0 .RM_UPDATE) v 0 = d.updateAbort := by
  rw [Dev.writeReg_RM_UPDATE, hgo, habort]; rfl

end Sys2Proof.Machine
end

section
/-! The statements of faults and failover (spec/13_faults_and_failover.md) and of the queue's front (spec/00_scope.md) settled. -/

namespace Sys2Proof.Proofs

open Sys2Proof Sys2Proof.Machine

/-- Settles O58: each event has its condition, on the swap, the return, the grace or the loss that the Ringmaster keeps, and a kick, a
swap at once, a check and the two ends of an update are writes that the bus carries out, an update after its image is staged. That one
command begins the pause of a rejoin and its repetition ends it is the model's choice (log entry 140, DESIGN CHOICE). -/
theorem ringmasterPairEventsComplete : Obligations.RingmasterPairEventsComplete := by
  refine ⟨fun a b d hmaster hstep => ?_, fun v d hb => ?_, fun d hmaster hgrace hlate => ?_, fun d g hg hmaster hlate => ?_,
    ⟨fun d hrun hmaster hfree hswap hother => ?_, fun d hpaused => ?_⟩, fun nonce d hmaster hswap hdue => ?_, fun v d hb => ?_,
    fun v d hb => ?_, fun d w hw hlate => ?_, fun nonce d t ht hmaster hswap hback hdue => ?_,
    fun v image d hb hgo habort hfree => ?_, fun v d hb hgo habort => ?_,
    ⟨fun nonce d hmaster hstep => ⟨?_, ?_⟩, fun ok nonce d hmaster hstep hbeat hdue => ?_⟩, fun d hmaster hstep hlate => ?_,
    fun d h1 h2 hnew => ?_, fun d t ht hlost hlate => ?_⟩
  · exact completes_of_meaning (execDivergence a b) rfl rfl rfl (Dev.when_of _ (Bool.and_eq_true_iff.mpr ⟨hmaster, hstep⟩))
  · exact completes_of_busPut (execRmKick v) rfl rfl rfl hb (d.writeReg_RM_KICK v 0)
  · exact completes_of_meaning execWatchdog rfl rfl rfl (Dev.when_of _ (by rw [hmaster, hgrace, decide_eq_true hlate]; rfl))
  · exact completes_of_meaning execWarmRestart rfl rfl rfl
      (by simp only [hg]; exact Dev.when_of _ (Bool.and_eq_true_iff.mpr ⟨hmaster, decide_eq_true hlate⟩))
  · exact completes_of_meaning execRejoin rfl rfl rfl (by
      simp only [hrun, Bool.false_eq_true, if_false]
      exact Dev.when_of _ (by rw [hmaster, hfree, hswap, beq_iff_eq.mpr hother]; rfl))
  · exact completes_of_meaning execRejoin rfl rfl rfl (if_pos hpaused)
  · exact completes_of_meaning (execCarouselSwap nonce) rfl rfl rfl (Dev.when_of _ (by rw [hmaster, hswap, hdue]; rfl))
  · exact completes_of_busPut (execSwapNow v) rfl rfl rfl hb (d.writeReg_RM_CTRL v 0)
  · exact completes_of_busPut (execRmSwapCheck v) rfl rfl rfl hb (d.writeReg_RM_SWAP_CHECK v 0)
  · exact completes_of_meaning execSwapFail rfl rfl rfl (by simp only [hw]; exact Dev.when_of _ (decide_eq_true hlate))
  · exact completes_of_meaning (execSwitchback nonce) rfl rfl rfl
      (by simp only [ht]; exact Dev.when_of _ (by rw [hmaster, hswap, hback, decide_eq_true hdue]; rfl))
  · exact completes_of_meaning (execUpdateGo v image) rfl rfl rfl (by
      simp only [hfree, Bool.false_eq_true, if_false]
      exact (Dev.busPut_reaches v ((d.reaches_updRmSt _ _).trans hb)).trans (Dev.writeReg_RM_UPDATE_go _ hgo habort))
  · exact completes_of_busPut (execUpdateAbort v) rfl rfl rfl hb (Dev.writeReg_RM_UPDATE_abort d hgo habort)
  · exact completes_of_meaning (execUpdateHandover true nonce) rfl rfl rfl ((if_pos hstep).trans (Dev.when_of _ hmaster))
  · exact completes_of_meaning (execUpdateHandover false nonce) rfl rfl rfl ((if_pos hstep).trans (Dev.when_of _ hmaster))
  · exact completes_of_meaning (execUpdateHandover ok nonce) rfl rfl rfl ((if_neg (by rw [hstep]; decide)).trans
      (Dev.when_of _ (by rw [hmaster, beq_iff_eq.mpr hstep, beq_iff_eq.mpr hbeat, decide_eq_true hdue]; rfl)))
  · exact completes_of_meaning execUpdateConfirmEnd rfl rfl rfl
      (Dev.when_of _ (by rw [hmaster, beq_iff_eq.mpr hstep, decide_eq_true hlate]; rfl))
  · exact completes_of_meaning execNoMaster rfl rfl rfl
      (Dev.when_of _ (by rw [beq_iff_eq.mpr h1, beq_iff_eq.mpr h2, beq_iff_eq.mpr hnew]; rfl))
  · exact completes_of_meaning execNoMasterEthDisable rfl rfl rfl
      (by simp only [ht]; exact Dev.when_of _ (Bool.and_eq_true_iff.mpr ⟨hlost, decide_eq_true hlate⟩))

/-- Settles O1: that a step runs the front of the queue on its rest is the law of a step on a queue that waits. -/
theorem stepTakesFrontCommand : Obligations.StepTakesFrontCommand := fun c rest d => step_cons d c rest

end Sys2Proof.Proofs
end
